-- ==== Sys2Proof/Word.lean ====
section
/-! DEFINITION. The word types of the three streams, finite maps as plain lists, and the operand records of
lane and matrix instructions (spec/01 R10, R25, R27, R30). -/

namespace Sys2Proof

/-- A scalar register, an address or a special register (spec/01 R13). -/
abbrev W64 := BitVec 64
/-- A lane register of one lane, and a scalar instruction word (spec/01 R10, R13). -/
abbrev W32 := BitVec 32
/-- One byte of memory. -/
abbrev Byte := BitVec 8
/-- The lane bits of a mask register: lane `l` is bit `l` (spec/01 R15). -/
abbrev Mask := BitVec 1024

/-- A finite map as a list of pairs, its keys rising: plain data that can be compared and written out. -/
abbrev Sparse (α : Type) := List (Nat × α)

/-- What a finite map holds at a key, `d` where it lists nothing. -/
def Sparse.get {α : Type} (d : α) : Sparse α → Nat → α
  | [], _ => d
  | (k', v) :: m, k => if k = k' then v else Sparse.get d m k

/-- What a finite map lists at a key. -/
def Sparse.find? {α : Type} : Sparse α → Nat → Option α
  | [], _ => none
  | (k', v) :: m, k => if k = k' then some v else Sparse.find? m k

/-- The map with `v` at `k`, the keys rising where they were. -/
def Sparse.set {α : Type} : Sparse α → Nat → α → Sparse α
  | [], k, v => [(k, v)]
  | (k', v') :: m, k, v =>
    if k = k' then (k, v) :: m
    else if k < k' then (k, v) :: (k', v') :: m
    else (k', v') :: Sparse.set m k v

/-- The map with nothing listed at `k`. -/
def Sparse.del {α : Type} : Sparse α → Nat → Sparse α
  | [], _ => []
  | (k', v) :: m, k => if k = k' then Sparse.del m k else (k', v) :: Sparse.del m k

/-- The map with `v` at `k`, where `d` is what an unlisted key holds: writing `d` removes the entry. -/
def Sparse.put {α : Type} [DecidableEq α] (d : α) (m : Sparse α) (k : Nat) (v : α) : Sparse α :=
  if v = d then Sparse.del m k else Sparse.set m k v

/-- The keys of a map rise strictly and no entry equals the default (the canonical form). -/
def Sparse.canonical {α : Type} [DecidableEq α] (d : α) : Sparse α → Bool
  | [] => true
  | [(_, v)] => v != d
  | (k, v) :: (k', v') :: m => v != d && decide (k < k') && Sparse.canonical d ((k', v') :: m)

/-- The entry of a list at an index, `d` beyond its end. -/
def listGet {α : Type} (d : α) : List α → Nat → α
  | [], _ => d
  | a :: _, 0 => a
  | _ :: l, n + 1 => listGet d l n

/-- The list with `a` at an index; nothing changes beyond its end. -/
def listSet {α : Type} : List α → Nat → α → List α
  | [], _, _ => []
  | _ :: l, 0, b => b :: l
  | a :: l, n + 1, b => a :: listSet l n b

/-- The fields of a lane instruction beside its opcode (spec/01 R27). -/
structure LaneF where
  /-- [85]: last instruction of its block. -/
  e : Bool
  /-- [84:81]: cycles to the next instruction's first pass. -/
  stall : BitVec 4
  /-- [80]: chain. -/
  ch : Bool
  /-- [79:76]: predicate mask register. -/
  msk : BitVec 4
  /-- [75:67]: destination operand code. -/
  dst : BitVec 9
  /-- [66:58]: first source operand code. -/
  sa : BitVec 9
  /-- [57:49]: second source operand code. -/
  sb : BitVec 9
  /-- [48:40]: third source operand code, result token or format pair. -/
  sc : BitVec 9
  /-- [39:32]: modifier byte. -/
  md : BitVec 8
  /-- [31:0]: immediate. -/
  imm : BitVec 32
deriving DecidableEq, Repr

/-- The fields of a matrix instruction beside its opcode (spec/01 R30). -/
structure MatF where
  /-- [55:48]: accumulator tile. -/
  c : BitVec 8
  /-- [47:45]: FIFO of the A tile. -/
  fa : BitVec 3
  /-- [44:42]: FIFO of the B tile. -/
  fb : BitVec 3
  /-- [41:39]: mask register. -/
  k : BitVec 3
  /-- [38:35]: input format. -/
  ifmt : BitVec 4
  /-- [34:33]: keep A, keep B. -/
  hold : BitVec 2
  /-- [32:27]: epilogue steps. -/
  epi : BitVec 6
  /-- [26:22]: barrier to wait on, valid bit first. -/
  bw : BitVec 5
  /-- [21:17]: barrier to arrive at, valid bit first. -/
  ba : BitVec 5
  /-- [16:0]: immediate. -/
  imm : BitVec 17
deriving DecidableEq, Repr

/-- An agent that takes turns of its own, by its key: a scalar stream, a lane stream, a gang's sequencer, or the
engines of a core as a whole (spec/07 R152, spec/16 R289). -/
inductive Agent where
  /-- The scalar stream of a team. -/
  | scalar (team : Nat)
  /-- The lane stream of a team. -/
  | lane (team : Nat)
  /-- The sequencer of a gang. -/
  | seq (gang : Nat)
  /-- The engines of a member core. -/
  | engines (member : Nat)
deriving DecidableEq, Repr

/-- The operands of one of the machine's steps: which object it is about, and what the world outside brings. The
docstring of each step's constructor says which fields it reads. -/
structure Args where
  x : Nat
  y : Nat
  z : Nat
  u : Nat
  v : Nat
  w : W64
  ok : Bool
  data : List Byte
  marks : List Bool
  list : List Nat
  slot : Option Nat
  agent : Option Agent
deriving DecidableEq, Repr

/-- Operands that are all 0, empty or absent. -/
def Args.none : Args :=
  { x := 0, y := 0, z := 0, u := 0, v := 0, w := 0, ok := false, data := [], marks := [], list := [], slot := Option.none,
    agent := Option.none }

end Sys2Proof
end

