-- ==== Sys2Proof/Config.lean ====
section
/-! DEFINITION. What an implementation fixes, and the values the spec leaves open. An opaque constant has no
body that Lean can use: a statement proved about the model holds whatever it is (log entries 6, 9, 11). -/

namespace Sys2Proof.Config

/-- Quads of the device (spec/00 R2, R4). -/
def quads : Nat := 88
/-- Cores of the device (spec/00 R2). -/
def cores : Nat := 352
/-- Home slices of the device (spec/14 R243). -/
def slices : Nat := 128
/-- Bytes of a line (spec/14 R243, spec/06 R127). -/
def lineBytes : Nat := 128
/-- Bytes of an ECC granule (spec/14 R242). -/
def granuleBytes : Nat := 64
/-- First physical byte beyond HBM4E (spec/14 R240). -/
def hbmEnd : Nat := 0xC000000000
/-- First physical byte of the second tier (spec/14 R240). -/
def stBase : Nat := 0x10000000000
/-- First physical byte beyond the second tier (spec/14 R240). -/
def stEnd : Nat := 0x20000000000
/-- The feature word a GQ880 offers: BASE, SECONDTIER, MCREPL, MDIST and JOURNAL (spec/18 R309). -/
def offer : BitVec 128 := 0x1F
/-- Ports present on a GQ880 (spec/18 R309, R313). -/
def ports : Nat := 36
/-- The bits of the feature word that are assigned (spec/18 R309). -/
def featureBits : Nat := 5

/-- One of two outcomes that a rule allows: which one is left open (DESIGN CHOICE, log entry 6). -/
opaque pick : Nat → Bool
/-- A 64-bit value that the spec leaves open, a fresh one for each count (DESIGN CHOICE, log entry 6). -/
opaque freeWord : Nat → W64
/-- How many of the 2^14 indexes a lane block can name lie beyond the lane code section that starts at a lane code base: no
image field gives the section's length (spec/01 R10, R12, DESIGN CHOICE, log entry 16). -/
opaque laneCut : Nat → Nat
/-- How far above address 0 the matrix section of an image at a place begins, and how far below 2^54 it ends: no image field
gives its bounds (spec/08 R169, DESIGN CHOICE, log entry 16). -/
opaque matrixLow : Nat → Nat
opaque matrixCut : Nat → Nat
/-- Which of two top-k entries comes first where their order is not stated: each a value and an index (spec/10 R200, DESIGN CHOICE, log entry 6). -/
opaque topFirst : W32 × W32 → W32 × W32 → Bool
/-- The result of a boot check of signatures and rollback over a firmware bundle: the functions are named, not
given (spec/18 R317, DESIGN CHOICE, log entry 11). -/
opaque bundleGood : List Byte → Bool
/-- The result of the check of the signed configuration block (spec/18 R317, DESIGN CHOICE, log entry 11). -/
opaque configGood : List Byte → Bool
/-- The images of a bundle, in its order (spec/18 R317, DESIGN CHOICE, log entry 11). -/
opaque bundleImages : List Byte → List (List Byte)
/-- The bundle that stands in memory from an address on: its format is not given (spec/18 R317, DESIGN CHOICE, log entry 11). -/
opaque bundleAt : List (Nat × Byte) → Nat → List Byte
/-- Which of the eight measurement registers an image of a bundle extends (spec/18 R317, DESIGN CHOICE, log entry 11). -/
opaque measureReg : List Byte → Nat
/-- SHA-384 as an uninterpreted function (spec/18 R317, R318, DESIGN CHOICE, log entry 11). -/
opaque sha384 : List Byte → BitVec 384
/-- The report signed with the identity key: ECDSA over P-384, uninterpreted (spec/18 R318, DESIGN CHOICE, log entry 11). -/
opaque signReport : List Byte → List Byte
/-- The power cap that a verified configuration block holds (spec/18 R317, DESIGN CHOICE, log entry 11). -/
opaque configCap : List Byte → Nat
/-- Whether a verified configuration block exposes the virtual functions (spec/18 R317, DESIGN CHOICE, log entry 11). -/
opaque configExposes : List Byte → Bool
/-- Whether a verified configuration block permits the Penura lane rate, 224 Gb/s (spec/18 R317, DESIGN CHOICE, log entry 11). -/
opaque configRate : List Byte → Bool
/-- Whether a verified configuration block permits the standard's lane rate, 212.5 Gb/s (spec/18 R317, DESIGN CHOICE, log entry 11). -/
opaque configStdRate : List Byte → Bool
/-- The security version of a bundle (spec/18 R317, DESIGN CHOICE, log entry 11). -/
opaque bundleVersion : List Byte → Nat

end Sys2Proof.Config
end

