-- ==== Sys2Proof/Syntax.lean ====
section
/-! DEFINITION. The instructions of the three streams and the machine's indivisible steps, one constructor for
each row of the opcode table (spec/02 R37, R39, R44, spec/95). -/

namespace Sys2Proof

/-- Every row of the opcode table: 102 scalar words (spec/02 R37), 74 lane words (R39), 21 matrix words (R44) and
the 122 steps of spec/95. A step's operands, where it has any, are the `Args` of the turn that carries it. -/
inductive Instr where
  /-- SADD (R50): Writes the sum of S[SA] and S[SB], modulo 2^64, to S[SD]. -/
  | sadd (sd sa sb : BitVec 6)
  /-- SSUB (R50): Writes S[SA] minus S[SB], modulo 2^64, to S[SD]. -/
  | ssub (sd sa sb : BitVec 6)
  /-- SAND (R50): Writes the bitwise AND of S[SA] and S[SB] to S[SD]. -/
  | sand (sd sa sb : BitVec 6)
  /-- SOR (R50): Writes the bitwise OR of S[SA] and S[SB] to S[SD]. -/
  | sor (sd sa sb : BitVec 6)
  /-- SXOR (R50): Writes the bitwise XOR of S[SA] and S[SB] to S[SD]. -/
  | sxor (sd sa sb : BitVec 6)
  /-- SSHL (R50): Shifts S[SA] left by S[SB][5:0] with zeros in. -/
  | sshl (sd sa sb : BitVec 6)
  /-- SSHR (R50): Shifts S[SA] right logically by S[SB][5:0]. -/
  | sshr (sd sa sb : BitVec 6)
  /-- SSRA (R50): Shifts S[SA] right arithmetically by S[SB][5:0]. -/
  | ssra (sd sa sb : BitVec 6)
  /-- SMIN_S (R50): Writes the signed lesser of S[SA] and S[SB]. -/
  | sminS (sd sa sb : BitVec 6)
  /-- SMAX_S (R50): Writes the signed greater of S[SA] and S[SB]. -/
  | smaxS (sd sa sb : BitVec 6)
  /-- SMIN_N (R50): Writes the unsigned lesser of S[SA] and S[SB]. -/
  | sminN (sd sa sb : BitVec 6)
  /-- SMAX_N (R50): Writes the unsigned greater of S[SA] and S[SB]. -/
  | smaxN (sd sa sb : BitVec 6)
  /-- SSLT_S (R50): Writes 1 if S[SA] is signed-less than S[SB], else 0. -/
  | ssltS (sd sa sb : BitVec 6)
  /-- SSLT_N (R50): Writes 1 if S[SA] is unsigned-less than S[SB], else 0. -/
  | ssltN (sd sa sb : BitVec 6)
  /-- SSEQ (R50): Writes 1 if S[SA] equals S[SB], else 0. -/
  | sseq (sd sa sb : BitVec 6)
  /-- SSNE (R50): Writes 1 if S[SA] differs from S[SB], else 0. -/
  | ssne (sd sa sb : BitVec 6)
  /-- SCLZ (R50): Writes the number of leading zero bits of S[SA]. -/
  | sclz (sd sa : BitVec 6)
  /-- SPOP (R50): Writes the number of one bits of S[SA]. -/
  | spop (sd sa : BitVec 6)
  /-- SMUL (R51): Writes bits [63:0] of the product of S[SA] and S[SB]. -/
  | smul (sd sa sb : BitVec 6)
  /-- SMULH_S (R51): Writes bits [127:64] of the signed product. -/
  | smulhS (sd sa sb : BitVec 6)
  /-- SMULH_N (R51): Writes bits [127:64] of the unsigned product. -/
  | smulhN (sd sa sb : BitVec 6)
  /-- SDIV_S (R51): Writes the signed quotient rounded toward zero, with the defined results for zero divisors and overflow. -/
  | sdivS (sd sa sb : BitVec 6)
  /-- SDIV_N (R51): Writes the unsigned quotient, all ones for a zero divisor. -/
  | sdivN (sd sa sb : BitVec 6)
  /-- SREM_S (R51): Writes the signed remainder, taking the sign of the dividend. -/
  | sremS (sd sa sb : BitVec 6)
  /-- SREM_N (R51): Writes the unsigned remainder. -/
  | sremN (sd sa sb : BitVec 6)
  /-- SADDI (R52): Adds the sign-extended immediate, or the SIMM-widened one, to S[SA]. -/
  | saddi (sd sa : BitVec 6) (imm : BitVec 13)
  /-- SANDI (R52): ANDs S[SA] with the sign-extended immediate. -/
  | sandi (sd sa : BitVec 6) (imm : BitVec 13)
  /-- SORI (R52): ORs S[SA] with the sign-extended immediate. -/
  | sori (sd sa : BitVec 6) (imm : BitVec 13)
  /-- SXORI (R52): XORs S[SA] with the sign-extended immediate. -/
  | sxori (sd sa : BitVec 6) (imm : BitVec 13)
  /-- SSLTI (R52): Writes 1 if S[SA] is signed-less than the immediate. -/
  | sslti (sd sa : BitVec 6) (imm : BitVec 13)
  /-- SSHLI (R52): Shifts S[SA] left by IMM13[5:0]. -/
  | sshli (sd sa sh : BitVec 6)
  /-- SSHRI (R52): Shifts S[SA] right logically by IMM13[5:0]. -/
  | sshri (sd sa sh : BitVec 6)
  /-- SSRAI (R52): Shifts S[SA] right arithmetically by IMM13[5:0]. -/
  | ssrai (sd sa sh : BitVec 6)
  /-- SBFX (R53): Extracts a bit field of S[SA], optionally sign-extended, into S[SD]. -/
  | sbfx (sd sa : BitVec 6) (sx : Bool) (lo wd : BitVec 6)
  /-- SIMM (R26): Widens the immediate of the following SI-form word, issuing and retiring with it as one instruction. -/
  | simm (imm25 : BitVec 25) (word : BitVec 32)
  /-- SBEQ (R54): Branches when S[SA] equals S[SB]. -/
  | sbeq (sa sb : BitVec 6) (off : BitVec 13)
  /-- SBNE (R54): Branches when S[SA] differs from S[SB]. -/
  | sbne (sa sb : BitVec 6) (off : BitVec 13)
  /-- SBLT_S (R54): Branches when S[SA] is signed-less than S[SB]. -/
  | sbltS (sa sb : BitVec 6) (off : BitVec 13)
  /-- SBGE_S (R54): Branches when S[SA] is signed greater or equal to S[SB]. -/
  | sbgeS (sa sb : BitVec 6) (off : BitVec 13)
  /-- SBLT_N (R54): Branches when S[SA] is unsigned-less than S[SB]. -/
  | sbltN (sa sb : BitVec 6) (off : BitVec 13)
  /-- SBGE_N (R54): Branches when S[SA] is unsigned greater or equal to S[SB]. -/
  | sbgeN (sa sb : BitVec 6) (off : BitVec 13)
  /-- SJAL (R55): Writes PC + 4 to S[SD] and jumps PC-relative by OFF19 words. -/
  | sjal (sd : BitVec 6) (off : BitVec 19)
  /-- SJR (R55): Jumps to the address in S[SA] and writes PC + 4 to S[SD]. -/
  | sjr (sd sa : BitVec 6)
  /-- SBANY (R56): Branches when any lane bit of the named mask register is 1. -/
  | sbany (m : BitVec 4) (off : BitVec 13)
  /-- SBALL (R56): Branches when all lane bits of the named mask register are 1. -/
  | sball (m : BitVec 4) (off : BitVec 13)
  /-- SLOOP (R57): Decrements S[SA] and branches while it is non-zero. -/
  | sloop (sa : BitVec 6) (off : BitVec 13)
  /-- SLD_D (R58): Loads a scratchpad doubleword into S[SD], waiting on an EMPTY line and reading 0 from a POISONED one. -/
  | sldD (sd sa : BitVec 6) (imm : BitVec 13)
  /-- SLD_W (R58): Loads a zero-extended scratchpad word into S[SD] under the line-state rules. -/
  | sldW (sd sa : BitVec 6) (imm : BitVec 13)
  /-- SST_D (R58): Stores S[SD] as a scratchpad doubleword and sets the line FULL. -/
  | sstD (sd sa : BitVec 6) (imm : BitVec 13)
  /-- SST_W (R58): Stores S[SD][31:0] as a scratchpad word and sets the line FULL. -/
  | sstW (sd sa : BitVec 6) (imm : BitVec 13)
  /-- SLDC (R59): Reads a doubleword from the constant bank at an offset from CONSTB. -/
  | sldc (sd sa : BitVec 6) (imm : BitVec 13)
  /-- SEMPTY (R60): Sets EMPTY every local scratchpad line that begins in the named range. -/
  | sempty (sa sb : BitVec 6)
  /-- SLDG (R62): Issues an asynchronous global load of a doubleword or word into S[SB], completing a token. -/
  | sldg (td : BitVec 5) (sp sa sb : BitVec 6) (word : Bool)
  /-- SSTG (R62): Issues an asynchronous global store of S[SB], completing a token when the home acknowledges. -/
  | sstg (td : BitVec 5) (sp sa sb : BitVec 6) (word : Bool)
  /-- LRUN (R63): Enqueues the lane block at LIDX14 into the lane-block queue with a token and preconditions. -/
  | lrun (td : BitVec 5) (sp : BitVec 6) (lidx : BitVec 14)
  /-- LRUNR (R63): Enqueues the lane block whose index is in S[SA]. -/
  | lrunr (td : BitVec 5) (sp sa : BitVec 6)
  /-- TWAIT (R64): Blocks until every named token is DONE or POISONED. -/
  | twait (sa : BitVec 6)
  /-- TTRY (R64): Waits for the named tokens for at most TTRYI cycles and writes 1 or 0. -/
  | ttry (sd sa : BitVec 6)
  /-- TWAITT (R64): Waits for the named tokens with a limit from S[SB] and writes 1 or 0. -/
  | twaitt (sd sa sb : BitVec 6)
  /-- TCLR (R64): Makes every named DONE or POISONED token FREE. -/
  | tclr (sa : BitVec 6)
  /-- TSTAT (R64): Writes the two-bit states of the named tokens to S[SD]. -/
  | tstat (sd sa : BitVec 6)
  /-- TANY (R64): Blocks until one named token is DONE or POISONED and writes the lowest such number. -/
  | tany (sd sa : BitVec 6)
  /-- BAR_ARR (R66): Arrives at a gang barrier in its open phase as a release-ordered action. -/
  | barArr (b : BitVec 4)
  /-- BAR_WAIT (R66): Waits until the phase of the team's unwaited arrival, or the open phase, completes. -/
  | barWait (b : BitVec 4)
  /-- BAR_SYNC (R66): Arrives at a gang barrier and waits on that arrival. -/
  | barSync (b : BitVec 4)
  /-- JOIN (R66): Adds the team to a group. -/
  | join (g : BitVec 3)
  /-- LEAVE (R66): Removes the team from a group, possibly completing a bound barrier phase. -/
  | leave (g : BitVec 3)
  /-- BIND (R66): Binds a gang barrier to a group, at once or from the next phase. -/
  | bind (b : BitVec 4) (g : BitVec 3)
  /-- EVSIG (R67): Performs a device-scope release and signals the named event to the Scheduler. -/
  | evsig (sa : BitVec 6)
  /-- GRP (R66): Writes membership, member count and bound barriers of a group to S[SD]. -/
  | grp (sd : BitVec 6) (g : BitVec 3)
  /-- VGROW (R68): Adds register blocks to the budget, blocking until pool units are free, and writes a status. -/
  | vgrow (sd sa : BitVec 6)
  /-- VGROW_T (R68): Adds register blocks only if the units are free now, and writes a status. -/
  | vgrowT (sd sa : BitVec 6)
  /-- VSHRINK (R68): Removes register blocks from the top of the budget after earlier blocks have issued. -/
  | vshrink (sa : BitVec 6)
  /-- FMTSET (R69): Loads FMT from S[SA] between lane blocks. -/
  | fmtset (sa : BitVec 6)
  /-- FMTGET (R69): Reads FMT into S[SD] once earlier blocks have issued. -/
  | fmtget (sd : BitVec 6)
  /-- FMTSETI (R69): Loads FMT from a 5-bit immediate between lane blocks. -/
  | fmtseti (v : BitVec 5)
  /-- CPY (R155): Enters a copy command naming a parameter block into a copy queue with a token and preconditions. -/
  | cpy (td : BitVec 5) (sp sa : BitVec 6) (q : BitVec 2)
  /-- CBLD (R166): Loads a FIFO's codebook from a table, switching at its reserved position. -/
  | cbld (td : BitVec 5) (sp sa : BitVec 6) (f : BitVec 3)
  /-- CPBI (R157): Removes one or all entries of the copy engine's block cache. -/
  | cpbi (td : BitVec 5) (sp sa : BitVec 6)
  /-- XRED (R168): Runs a ring reduction collective among copy-team ranks. -/
  | xred (td : BitVec 5) (sp sa : BitVec 6)
  /-- XGAT (R168): Runs a gather collective among copy-team ranks. -/
  | xgat (td : BitVec 5) (sp sa : BitVec 6)
  /-- XA2A (R168): Runs an all-to-all collective among copy-team ranks. -/
  | xa2a (td : BitVec 5) (sp sa : BitVec 6)
  /-- PINIT (R221): Initialises a phase barrier with EXPECT and SCOPE. -/
  | pinit (td : BitVec 5) (sp sa sb : BitVec 6)
  /-- PEXP (R221): Adds an expectation of bytes to a phase barrier. -/
  | pexp (td : BitVec 5) (sp sa sb : BitVec 6)
  /-- PARR (R221): Makes one release-ordered arrival at a phase barrier. -/
  | parr (td : BitVec 5) (sp sa : BitVec 6)
  /-- TEXP (R221): Exports a token so that its completion makes one arrival at a phase barrier. -/
  | texp (td : BitVec 5) (sp sa : BitVec 6)
  /-- PWAIT (R222): Blocks until a phase of a phase barrier completes and writes a status. -/
  | pwait (sd sa sb : BitVec 6)
  /-- PTRY (R222): Waits for a phase for at most TTRYI cycles and writes a status. -/
  | ptry (sd sa sb : BitVec 6)
  /-- FENCE (R224): Holds later accesses until covered accesses are performed or returned, at a kind and scope. -/
  | fence (kind scope : BitVec 2)
  /-- CHK (R227): Settles a watch set, writing struck lanes to a mask and branching if any entry struck. -/
  | chk (w : BitVec 2) (mask : BitVec 4) (off : BitVec 13)
  /-- WCLR (R228): Discards every entry of a watch set after earlier blocks have issued. -/
  | wclr (w : BitVec 2)
  /-- TRIG (R233): Arms or fires a trigger slot with a copy command. -/
  | trig (td : BitVec 5) (sp sa sb : BitVec 6)
  /-- SEAL (R234): Seals a range with a version after a pod-scope release. -/
  | seal (td : BitVec 5) (sp sa sb : BitVec 6)
  /-- UNSEAL (R234): Unseals a range, keeping its last version. -/
  | unseal (td : BitVec 5) (sp sa : BitVec 6)
  /-- VREF (R234): Asks the home device for a range's current version and installs it in local translations. -/
  | vref (td : BitVec 5) (sp sa : BitVec 6)
  /-- STRAP (R70): Enters the team's handler with a 13-bit code. -/
  | strap (code : BitVec 13)
  /-- TRET (R71): Returns from handler mode to EPC. -/
  | tret
  /-- EXIT (R72): Ends the team after releasing, draining its work, leaving its groups and freeing its units. -/
  | exit
  /-- BRK (R372): Stops the context at a breakpoint when a debug session is attached, otherwise does nothing. -/
  | brk
  /-- NOP (R73): Does nothing and retires. -/
  | nop
  /-- SRD (R74): Reads a special register into S[SD]. -/
  | srd (sd : BitVec 6) (num : BitVec 12)
  /-- SWR (R74): Writes S[SD] to a writable special register. -/
  | swr (sd : BitVec 6) (num : BitVec 12)
  /-- VADD (R81): Adds elements per lane, wrapping. -/
  | vadd (f : LaneF)
  /-- VSUB (R81): Subtracts elements per lane, wrapping. -/
  | vsub (f : LaneF)
  /-- VMUL (R81): Writes the low half of the element product. -/
  | vmul (f : LaneF)
  /-- VMULH (R81): Writes the high half of the exact element product. -/
  | vmulh (f : LaneF)
  /-- VMAD (R81): Writes the low half of a times b plus c. -/
  | vmad (f : LaneF)
  /-- VMIN (R81): Writes the lesser element, signed or unsigned by type. -/
  | vmin (f : LaneF)
  /-- VMAX (R81): Writes the greater element, signed or unsigned by type. -/
  | vmax (f : LaneF)
  /-- VABS (R81): Writes the absolute value of signed elements. -/
  | vabs (f : LaneF)
  /-- VNEG (R81): Writes the negation of signed elements. -/
  | vneg (f : LaneF)
  /-- VAND (R81): Writes the bitwise AND of 32-bit values. -/
  | vand (f : LaneF)
  /-- VOR (R81): Writes the bitwise OR of 32-bit values. -/
  | vor (f : LaneF)
  /-- VXOR (R81): Writes the bitwise XOR of 32-bit values. -/
  | vxor (f : LaneF)
  /-- VNOT (R81): Writes the bitwise NOT of a 32-bit value. -/
  | vnot (f : LaneF)
  /-- VSHL (R81): Shifts elements left by b mod width. -/
  | vshl (f : LaneF)
  /-- VSHR (R81): Shifts elements right logically by b mod width. -/
  | vshr (f : LaneF)
  /-- VSRA (R81): Shifts elements right arithmetically by b mod width. -/
  | vsra (f : LaneF)
  /-- VROT (R81): Rotates elements left by b mod width. -/
  | vrot (f : LaneF)
  /-- VCLZ (R81): Writes the leading-zero count of each element. -/
  | vclz (f : LaneF)
  /-- VPOP (R81): Writes the one-bit count of each element. -/
  | vpop (f : LaneF)
  /-- VBFX (R82): Extracts a bit field per lane, optionally sign-extended. -/
  | vbfx (f : LaneF)
  /-- VBFI (R82): Inserts a bit field into the destination per lane. -/
  | vbfi (f : LaneF)
  /-- VSEL (R81): Selects a or b per element by c. -/
  | vsel (f : LaneF)
  /-- VMOV (R81): Copies a 32-bit value per lane. -/
  | vmov (f : LaneF)
  /-- VCMP (R83): Compares integer elements and writes all ones or zero, or a mask bit. -/
  | vcmp (f : LaneF)
  /-- VFADD (R85): Adds floats, rounded once. -/
  | vfadd (f : LaneF)
  /-- VFSUB (R85): Subtracts floats, rounded once. -/
  | vfsub (f : LaneF)
  /-- VFMUL (R85): Multiplies floats, rounded once. -/
  | vfmul (f : LaneF)
  /-- VFMA (R85): Computes a times b plus c with one rounding. -/
  | vfma (f : LaneF)
  /-- VFMS (R85): Computes a times b minus c with one rounding. -/
  | vfms (f : LaneF)
  /-- VFNMA (R85): Computes c minus a times b with one rounding. -/
  | vfnma (f : LaneF)
  /-- VFMIN (R86): Writes the float minimum, exactly. -/
  | vfmin (f : LaneF)
  /-- VFMAX (R86): Writes the float maximum, exactly. -/
  | vfmax (f : LaneF)
  /-- VFDIV (R85): Divides floats, rounded once. -/
  | vfdiv (f : LaneF)
  /-- VFSQRT (R85): Writes the correctly rounded square root. -/
  | vfsqrt (f : LaneF)
  /-- VFRCP (R85): Writes the correctly rounded reciprocal. -/
  | vfrcp (f : LaneF)
  /-- VFRSQ (R85): Writes the correctly rounded reciprocal square root. -/
  | vfrsq (f : LaneF)
  /-- VFABS (R86): Clears the sign of a float. -/
  | vfabs (f : LaneF)
  /-- VFNEG (R86): Flips the sign of a float. -/
  | vfneg (f : LaneF)
  /-- VFCMP (R87): Compares floats and writes all ones or zero, or a mask bit. -/
  | vfcmp (f : LaneF)
  /-- VFCMPD (R90): Compares a streaming link with an operand, deciding early per lane and optionally trimming. -/
  | vfcmpd (f : LaneF)
  /-- VTRIM (R92): Makes a link TRIMMED in every active lane. -/
  | vtrim (f : LaneF)
  /-- VFCLS (R88): Writes a one-hot class of a float from its header. -/
  | vfcls (f : LaneF)
  /-- VFEXP2 (R85): Writes the correctly rounded 2 to the power a. -/
  | vfexp2 (f : LaneF)
  /-- VFLOG2 (R85): Writes the correctly rounded base-2 logarithm. -/
  | vflog2 (f : LaneF)
  /-- VCVT (R94): Converts between float formats with rounding and saturation rules. -/
  | vcvt (f : LaneF)
  /-- VCVTI (R94): Converts between float and integer formats. -/
  | vcvti (f : LaneF)
  /-- VPACK (R94): Converts two values and packs them into narrower fields of the destination. -/
  | vpack (f : LaneF)
  /-- VUNPK (R94): Widens one narrow element exactly. -/
  | vunpk (f : LaneF)
  /-- VCBD (R94): Decodes a CB4 code through a FIFO's codebook. -/
  | vcbd (f : LaneF)
  /-- VIF (R96): Pushes an IF entry and narrows M0 to lanes whose condition holds. -/
  | vif (f : LaneF)
  /-- VELSE (R96): Turns the top IF entry into ELSE and activates the other lanes. -/
  | velse (f : LaneF)
  /-- VENDIF (R96): Pops the IF or ELSE entry and restores M0 and FMT. -/
  | vendif (f : LaneF)
  /-- VLOOP (R96): Pushes a LOOP entry recording its start and block. -/
  | vloop (f : LaneF)
  /-- VBRK (R96): Removes lanes whose condition holds from the loop until it exits. -/
  | vbrk (f : LaneF)
  /-- VCONT (R96): Removes lanes for the rest of this iteration and records them to continue. -/
  | vcont (f : LaneF)
  /-- VENDLP (R96): Repeats the loop while lanes remain, else pops and restores M0 and FMT. -/
  | vendlp (f : LaneF)
  /-- MAND (R98): Writes the AND of two mask registers. -/
  | mand (f : LaneF)
  /-- MOR (R98): Writes the OR of two mask registers. -/
  | mor (f : LaneF)
  /-- MXOR (R98): Writes the XOR of two mask registers. -/
  | mxor (f : LaneF)
  /-- MANDN (R98): Writes a AND NOT b of two mask registers. -/
  | mandn (f : LaneF)
  /-- MNOT (R98): Writes the NOT of a mask register. -/
  | mnot (f : LaneF)
  /-- MMOV (R98): Copies a mask register. -/
  | mmov (f : LaneF)
  /-- MSET (R98): Sets mask bits from an immediate pattern. -/
  | mset (f : LaneF)
  /-- VSHUF (R99): Writes each lane the value of a lane it names. -/
  | vshuf (f : LaneF)
  /-- VBCAST (R99): Broadcasts one lane's value to active lanes. -/
  | vbcast (f : LaneF)
  /-- VSCAN (R100): Writes an inclusive prefix fold over active lanes. -/
  | vscan (f : LaneF)
  /-- VRED (R100): Folds active lanes in ascending order into a V or S register. -/
  | vred (f : LaneF)
  /-- VBALLOT (R99): Writes two ballot words of active non-zero lanes to an S register. -/
  | vballot (f : LaneF)
  /-- VLD (R105): Loads per lane from a space into a register group, completing a token. -/
  | vld (f : LaneF)
  /-- VST (R105): Stores a register group per lane, completing a token when performed. -/
  | vst (f : LaneF)
  /-- VLDS (R226): Loads speculatively from local copies, making watch entries. -/
  | vlds (f : LaneF)
  /-- VAMO (R107): Performs an atomic per lane and returns the old value, completing a token. -/
  | vamo (f : LaneF)
  /-- VRMO (R107): Performs a reduction per lane at memory without return, completing a token. -/
  | vrmo (f : LaneF)
  /-- VPRF (R110): Asks that lines be brought into the near cache, never faulting. -/
  | vprf (f : LaneF)
  /-- MMA (R172): Pops A and B tiles and accumulates their masked product into a tile on every member core. -/
  | mma (f : MatF)
  /-- MMAZ (R172): Pops tiles and writes their masked product into a zeroed tile. -/
  | mmaz (f : MatF)
  /-- MDIST (R172): Pops tiles and accumulates masked squared differences. -/
  | mdist (f : MatF)
  /-- MTOPK (R174): Merges a tile's rows into the top-k set. -/
  | mtopk (f : MatF)
  /-- MZERO (R173): Zeroes masked elements of a tile. -/
  | mzero (f : MatF)
  /-- MATRIX_MMOV (R173): Copies a tile, or writes the top-k set into a tile, under a mask. -/
  | matrixMmov (f : MatF)
  /-- MEPI (R176): Runs a tile through bias, activation and requantisation and writes it out or back. -/
  | mepi (f : MatF)
  /-- MTAB (R175): Loads the activation table from scratchpad on each member core. -/
  | mtab (f : MatF)
  /-- MBIAS (R175): Loads column biases from scratchpad. -/
  | mbias (f : MatF)
  /-- MSCL (R175): Loads column scales and zero points from scratchpad. -/
  | mscl (f : MatF)
  /-- FSKIP (R173): Pops n entries of a FIFO with no effect. -/
  | fskip (f : MatF)
  /-- MKSET (R177): Writes one part of a K mask register. -/
  | mkset (f : MatF)
  /-- MATRIX_MSET (R178): Sets a sequencer counter from an immediate, a constant word or the matrix flags. -/
  | matrixMset (f : MatF)
  /-- MADD (R178): Adds an immediate or another counter to a counter. -/
  | madd (f : MatF)
  /-- MBNZ (R178): Branches the sequencer when a counter is non-zero. -/
  | mbnz (f : MatF)
  /-- MJ (R178): Jumps the sequencer unconditionally. -/
  | mj (f : MatF)
  /-- MARR (R179): Arrives at a gang barrier once every earlier matrix instruction has completed. -/
  | marr (f : MatF)
  /-- MWAIT (R179): Waits for a gang barrier phase as member 256. -/
  | mwait (f : MatF)
  /-- MTOK (R180): Claims or completes a token of a named team. -/
  | mtok (f : MatF)
  /-- MHALT (R181): Waits for earlier instructions, leaves every group and stops the sequencer. -/
  | mhalt (f : MatF)
  /-- MNOP (R181): Does nothing. -/
  | mnop (f : MatF)
  /-- REGISTER_WRITE (R307): A host write to a management register without behaviour of its own, such as ACCEPT, APBASE or CMD, stores the value. Operands: x = offset in BAR 0, w = value. -/
  | registerWrite
  /-- FEATURE_NEGOTIATION (R309): A write of 1 to STATUS[1:0] checks ACCEPT against OFFER and sets STATUS running or refused. -/
  | featureNegotiation
  /-- CONFIGURE_PARTITION (R310): Creates a partition from a configuration block and zeroes its counters and rings. -/
  | configurePartition
  /-- DESTROY_PARTITION (R308): Halts every context of a partition and removes it. -/
  | destroyPartition
  /-- SET_GROUP (R315): Writes a multicast group entry. -/
  | setGroup
  /-- EXPORT_WINDOW (R316): Exports an import window to other devices. -/
  | exportWindow
  /-- REVOKE_WINDOW (R316): Marks a window revoked and answers once in-flight segments have drained. -/
  | revokeWindow
  /-- CLEAR_TRIGGER (R308): Makes a LATCHED trigger slot IDLE. -/
  | clearTrigger
  /-- SET_POWER_CAP (R308): Sets the module power cap. -/
  | setPowerCap
  /-- SET_FABRIC (R308): Sets this device's pod number and the leaf switch table. -/
  | setFabric
  /-- SET_TRACE (R321): Places the throttle-reason trace ring. -/
  | setTrace
  /-- LOAD_BUNDLE (R317): In recovery, accepts a new firmware bundle through CMD code 0x0A. -/
  | loadBundle
  /-- MANAGEMENT_COMMAND_DONE (R308): The Bench finishes a command, writes RESP, clears BUSY and raises MSI-X vector 0. -/
  | managementCommandDone
  /-- ATTACH (R376): Attaches a debug session to a context. -/
  | attach
  /-- DETACH (R376): Detaches the session, resuming a stopped context or halting it after a replay. -/
  | detach
  /-- STOP (R376): Raises the context's halt line as a debug stop. -/
  | stop
  /-- STEP (R360): Runs one team of a stopped context for one retirement or until it blocks. -/
  | step
  /-- RESUME (R361): Resumes a stopped context, performing held requests once. -/
  | resume
  /-- SET_SPWATCH (R356): Installs a scratchpad watchpoint descriptor on a core. -/
  | setSpwatch
  /-- SET_L2WATCH (R374): Installs an L2 watchpoint descriptor on a slice. -/
  | setL2watch
  /-- SET_JOURNAL (R368): Replaces the session partition's journal area. -/
  | setJournal
  /-- CHECKPOINT (R366): Makes a gang take a checkpoint. -/
  | checkpoint
  /-- REPLAY_TO (R369): Restores a gang from a checkpoint and replays it from the journal to a count. -/
  | replayTo
  /-- SET_SAMPLE (R377): Turns latency sampling on or off and places its buffer. -/
  | setSample
  /-- SET_COUNTER (R378): Chooses the event a core counter counts. -/
  | setCounter
  /-- GET_MEASUREMENTS (R318): Answers an SPDM request with a signed measurement report. Operands: data = nonce. -/
  | getMeasurements
  /-- HOST_WRITE (R306): A host write through a BAR 2 aperture is performed at the line's home and pushed to sharers. Operands: x = function (8 for the physical one), y = offset in the aperture, data = bytes. -/
  | hostWrite
  /-- HOST_READ (R306): A host read through a BAR 2 aperture returns the home's data. Operands: x = function (8 for the physical one), u = BAR (0 or 2), y = offset, z = number of bytes. -/
  | hostRead
  /-- FUNCTION_LEVEL_RESET (R312): A Function Level Reset of a virtual function halts and clears its partition's contexts, launches, slots, windows and rings. Operands: x = partition. -/
  | functionLevelReset
  /-- FLR_COMPLETE (R312): The reset of a partition finishes and its state reads running. Operands: x = partition. -/
  | flrComplete
  /-- PF_FUNCTION_LEVEL_RESET (R309): A Function Level Reset of the physical function halts every context and unfixes ACCEPT. -/
  | pfFunctionLevelReset
  /-- POWER_GOOD (R317): At power-good the Security core verifies and measures firmware and starts the Bench, or enters recovery. Operands: ok = a junction sensor reads 85 °C or more. -/
  | powerGood
  /-- FUNDAMENTAL_RESET (R322): A fundamental reset restarts the device, held in reset above 85 °C. Operands: ok = a junction sensor reads 85 °C or more. -/
  | fundamentalReset
  /-- THERMAL (R320): A junction sensor reaching 95 °C throttles the die. Operands: x = die, y = MHz, z = mV, u = limit in percent. -/
  | thermal
  /-- CURRENT (R320): A regulator reaching its current limit throttles the die. Operands: x = die, y = MHz, z = mV, u = limit in percent. -/
  | current
  /-- DROOP (R320): A core rail dip over 25 mV stretches the clock within 2 ns. Operands: x = die, y = MHz, z = mV, u = limit in percent. -/
  | droop
  /-- BUDGET (R320): Module power over the cap in a 1 ms window throttles the die. Operands: x = die, y = MHz, z = mV, u = limit in percent. -/
  | budget
  /-- THROTTLE_RESTORE (R320): A cause cleared for 1 ms lets the Power core restore settings by a step. Operands: x = die, y = cause, z = MHz, u = mV, v = limit in percent. -/
  | throttleRestore
  /-- THERMAL_STOP (R322): At 110 °C the device writes a THERMAL record, sets the trip flag and stops every clock. Operands: x = die. -/
  | thermalStop
  /-- LINK_TRAIN (R313): A UALink port trains at the Penura or standard rate. Operands: x = port, ok = both ends are Penura devices. -/
  | linkTrain
  /-- LANE_FAILURE (R313): A failed lane makes a port retrain at 2 lanes or stay down. Operands: x = port. -/
  | laneFailure
  /-- LINK_TIMEOUT (R232): A peer that does not answer within the link timeout refuses the segment as UNREACHABLE. Operands: x = operation, y = segment, z = the silent member of a multicast; with u = 1 x is a team, whose wait it is. -/
  | linkTimeout
  /-- MCAST_SEG (R230): A multicast segment arrives and is replicated or performed at members. Operands: x = device, y = its partition, z = window, u = offset, v and w = what names the segment and its command there, data, marks, slot = trigger slot, ok = the last segment, list = members. -/
  | mcastSeg
  /-- MEMBER_ACK (R230): A member's positive or negative answer reaches the sender. Operands: x = operation, y = device, z = cause (0 positive), u = offset of its first refused segment. -/
  | memberAck
  /-- TRIG_SEG (R233): A peer write segment naming a trigger slot arrives and latches or arms its firing. Operands: x = device, y = its partition, z = window, u = offset, v and w = what names the segment and its command there, data, marks, slot = trigger slot, ok = the last segment. -/
  | trigSeg
  /-- TRIGGER_FIRE (R233): Once all incoming segments are performed or refused, the armed command enters its queue or is poisoned. Operands: u = 1: operation y fires, ok = poisoned; else x = slot, y = device, z = the command there. -/
  | triggerFire
  /-- SEAL_QUERY (R234): A query for a sealed range's version arrives at the home device. Operands: x = device, y = its partition, z = window, u = offset, v and w = what names the segment and its command there, list = the length in bytes. -/
  | sealQuery
  /-- SEAL_REPLY (R234): The home's current version or unsealed state arrives and is installed. Operands: x = operation, y = version, z = run of pages, ok = sealed. -/
  | sealReply
  /-- STALE_NACK (R232): A refused sealed read arrives with cause STALE_VERSION. Operands: x = operation, y = segment. -/
  | staleNack
  /-- PBAR_EVENT (R220): A combined pod barrier arrival, expectation or credit arrives at the home device. Operands: x = device, y = its partition, z = window, u = offset, v and w = what names the segment and its command there, list = kind (0 arrival, 1 expectation, 2 credit, 3 wait, 4 a PINIT) and count, bytes, phase or operand, ok = poison, of a wait that it has run out. -/
  | pbarEvent
  /-- PBAR_RELEASE (R220): A pod barrier release with new PHASE and POISON arrives. Operands: x = device, z = window, u = offset, w = PHASE, ok = POISON. -/
  | pbarRelease
  /-- SEG_NACK (R229): A refused peer segment returns with its cause. Operands: x = operation, y = segment, z = cause; with u = 1 x is a team, whose wait it is. -/
  | segNack
  /-- RESERVED_MESSAGE (R314): A vendor message with a reserved code is dropped and counted. Operands: x = code. -/
  | reservedMessage
  /-- PEER_WRITE_SEGMENT (R316): An incoming peer write segment is performed through the window or refused. Operands: x = device, y = its partition, z = window, u = offset, v and w = what names the segment and its command there, data, marks. -/
  | peerWriteSegment
  /-- PEER_READ_SEGMENT (R229): An incoming peer read segment returns coherent or sealed data or is refused. Operands: x = device, y = its partition, z = window, u = offset, v and w = what names the segment and its command there, list = the number of bytes and the version a sealed read names. -/
  | peerReadSegment
  /-- PEER_WRITE_ACK (R229): A peer's write acknowledgement arrives and the segment's credit is applied. Operands: x = operation, y = segment. -/
  | peerWriteAck
  /-- SUBMISSION_BATCH (R138): A PUT store makes a batch of launch records visible; the Parser verifies them, enters waits and advances GET. Operands: x = partition, w = PUT. -/
  | submissionBatch
  /-- SUBMISSION_RESUME (R138): A freed context number or completion slot lets the Parser take the waiting records. Operands: x = partition. -/
  | submissionResume
  /-- HELD_COMPLETION_RELEASE (R136): As the host advances GET, held completion records enter the ring in order. Operands: x = partition, w = GET. -/
  | heldCompletionRelease
  /-- EVENT_SIGNAL (R147): The Scheduler applies a signal to an event counter and releases satisfied waiters. Operands: x = name, y = signalling context + 1 (0 for none), list = operations it comes after, slot = context whose record follows it, z and v = the retirement it belongs to and its place there. -/
  | eventSignal
  /-- GANG_PLACEMENT (R148): The Scheduler places an eligible gang on free cores and restores its image. Operands: x = partition. -/
  | gangPlacement
  /-- PRE_EMPTION (R149): An unplaced gang waiting past the threshold pre-empts lower-priority gangs. Operands: x = partition. -/
  | preEmption
  /-- SPILL_COMPLETE (R295): The spill engine finishes writing the outgoing context as an image. Operands: x = gang. -/
  | spillComplete
  /-- REPLY_PATCH (R298): A reply arriving after its image part is written is patched in and the awaited count falls. Operands: x = gang, y = operation, z = request; ok = the reply has reached the gang's own parts. -/
  | replyPatch
  /-- DEADLINE_EXPIRY (R150): At deadline expiry an unretired launch gets a DEADLINE_MISS record and its MISS signal. Operands: x = context. -/
  | deadlineExpiry
  /-- WAIT_FOR_WALK (R153): The Errors core walks the wait-for table for deadlocked sets. Operands: x = partition, z = due time. -/
  | waitForWalk
  /-- VGROW_GRANT (R133): The head blocking VGROW is granted when free units cover it. Operands: x = member core. -/
  | vgrowGrant
  /-- WAIT_LIMIT_EXPIRY (R65): A timed wait's limit expires and it returns its expired result. Operands: x = team. -/
  | waitLimitExpiry
  /-- PRECONDITIONS_MET (R61): An asynchronous operation starts, or inherits poison, once its precondition tokens are DONE or POISONED. Operands: x = operation. -/
  | preconditionsMet
  /-- LANE_BLOCK_ISSUE (R12): A queued lane block starts issuing once its preconditions and the previous block allow. Operands: x = team. -/
  | laneBlockIssue
  /-- LANE_BLOCK_COMPLETE (R12): A block's token becomes DONE when all its register results are written. Operands: x = team. -/
  | laneBlockComplete
  /-- LANE_MEMORY_COMPLETE (R105): A lane memory instruction's token becomes DONE or POISONED when its lanes complete. Operands: x = operation. -/
  | laneMemoryComplete
  /-- SCALAR_GLOBAL_COMPLETE (R62): An SLDG writes its register, or an SSTG is acknowledged, and the token completes. Operands: x = operation. -/
  | scalarGlobalComplete
  /-- COPY_START (R154): A queue's head command starts, reads and checks its snapshot, and is accepted. Operands: x = operation. -/
  | copyStart
  /-- COPY_SEGMENT (R160): The copy engine moves one segment of a command, epilogue or collective. Operands: x = operation, y = segment, z = 1: a read's answer arrives, with u = source offset, data and marks. -/
  | copySegment
  /-- COPY_SEGMENT_ACK (R163): A segment is performed, its line states and credits applied once. Operands: x = operation, y = segment. -/
  | copySegmentAck
  /-- COPY_ATTEMPT_FAIL (R211): A failed attempt is abandoned and the next attempt starts. Operands: x = operation. -/
  | copyAttemptFail
  /-- COPY_COMPLETE (R163): A command's token becomes DONE or POISONED when every segment is performed and credited. Operands: x = operation. -/
  | copyComplete
  /-- COLLECTIVE_STEP (R168): One step of a collective's ring moves or folds a chunk. Operands: x = operation, z = 1: a neighbour's elements arrive, with u = its rank and data; y = a send that is made again. -/
  | collectiveStep
  /-- COLLECTIVE_COMPLETE (R168): A collective arrives at its barrier and completes its token after the last local write. Operands: x = operation. -/
  | collectiveComplete
  /-- FIFO_ENTRY_LAND (R162): A FIFO entry lands and becomes visible to a waiting matrix engine. Operands: x = operation, y = entry. -/
  | fifoEntryLand
  /-- MATRIX_COMPLETE (R169): A matrix instruction completes on every member core and makes its BA arrival. Operands: x = gang. -/
  | matrixComplete
  /-- DIGIT_ARRIVAL (R330): A signed-digit producer delivers a header or digit to its links and chain consumers. Operands: x = team, y = link, or 16 + a V register, z = lane, u = the digit offered. -/
  | digitArrival
  /-- HOME_WRITE (R248): A write is performed at its home slice, bumping VERSION and pushing updates to sharers. Operands: x = operation, y = request. -/
  | homeWrite
  /-- SHARER_UPDATE (R248): A sharer applies an update to its copy and acknowledges it. Operands: x = core, y = write. -/
  | sharerUpdate
  /-- UPDATE_ACK (R248): The last sharer acknowledgement lets the home acknowledge the writer. Operands: x = write. -/
  | updateAck
  /-- HOME_ATOMIC (R250): A global atomic or reduction is performed at its home slice as one write. Operands: x = operation, y = request. -/
  | homeAtomic
  /-- ROUTER_MERGE (R251): Two matching atomics meeting in a router queue merge into one request. Operands: x, y = operation and request that takes in z, u. -/
  | routerMerge
  /-- NEAR_CACHE_FILL (R244): A fill reply enters a near-cache line VALID or SEALED, replacing the LRU way. Operands: x = operation, y = request. -/
  | nearCacheFill
  /-- DIRECTORY_EVICTION (R249): A slice evicts a directory entry by sending lapse notices. Operands: x = slice, y = line. -/
  | directoryEviction
  /-- LAPSE_NOTICE (R249): A sharer receiving a lapse notice makes its copy LAPSED. Operands: x = core, y = line, z = slice. -/
  | lapseNotice
  /-- EVICTION_COMPLETE (R249): All lapse notices acknowledged, the eviction completes and the epoch rises. Operands: x = slice, y = line, z = 1: the wrap notices have been sent. -/
  | evictionComplete
  /-- EPOCH_WRAP_NOTICE (R247): A notice at epoch wrap invalidates every LAPSED copy homed on the slice. Operands: x = core, y = slice. -/
  | epochWrapNotice
  /-- SETTLE_NOTICE (R273): The home reports to sharers that a write is acknowledged. Operands: x = line. -/
  | settleNotice
  /-- CONSTANT_FILL (R246): A constant-cache miss fills a line from its home. Operands: slot = operation, z = request. -/
  | constantFill
  /-- PATROL_SCRUB (R242): The scrub reads a granule, marking poison and recording an uncorrectable error. Operands: x = granule, ok = the error is corrected. -/
  | patrolScrub
  /-- PAGE_WALK_COMPLETE (R257): A walk ending in a leaf fills both TLBs and lets the access proceed. Operands: x = operation, y = request. -/
  | pageWalkComplete
  /-- TRANSLATION_FAULT (R258): A walk ending not present parks the agent and hands the fault to the Memory core. Operands: x = operation, y = request. -/
  | translationFault
  /-- PAGE_RESPONSE (R311): A driver's response resolves or refuses a forwarded translation fault. Operands: x = partition, w = tag, ok = RESOLVED. -/
  | pageResponse
  /-- TRANSLATION_TIMEOUT (R258): An unanswered fault becomes unresolvable at FTIMEOUT. Operands: x = partition, w = tag. -/
  | translationTimeout
  /-- WATCH_REQUEST (R345): A watch request is confirmed or struck at the home in the line's order. Operands: x = team, y = entry. -/
  | watchRequest
  /-- WATCH_ANSWER (R345): A watch answer reaches the core and resolves the entry. Operands: x = team, y = entry. -/
  | watchAnswer
  /-- SEALED_WATCH_EXPIRY (R347): A sealed watch entry resolves 64 cycles after its pass. Operands: x = team, y = entry. -/
  | sealedWatchExpiry
  /-- SCRATCHPAD_ACCESS (R124): A requester's access is performed in its scratchpad slot. Operands: x = operation, y = request. -/
  | scratchpadAccess
  /-- EMPTY_LINE_WAKE (R127): A request waiting on an EMPTY line proceeds once the line is FULL or POISONED. Operands: x = operation, y = request. -/
  | emptyLineWake
  /-- BARRIER_UNIT_EVENT (R131): The barrier unit applies the arrival and membership events of a cycle in member order. Operands: x = gang. -/
  | barrierUnitEvent
  /-- BARRIER_RELEASE (R131): A completion's release reaches waiters on a member core. Operands: x = team. -/
  | barrierRelease
  /-- PHASE_BARRIER_EVENT (R219): The home applies an arrival, expectation or credit to a phase barrier. Operands: x = operation. -/
  | phaseBarrierEvent
  /-- PHASE_RELEASE (R220): A phase barrier release message reaches waiters. Operands: x = team. -/
  | phaseRelease
  /-- HALT_LINE_ARRIVAL (R289): The halt line reaches an agent, which stops within its skid and writes stop records. Operands: agent. -/
  | haltLineArrival
  /-- DUMP (R293): Once every agent has stopped, the Errors core writes the dump and a CONTEXT_HALTED record. Operands: x = context. -/
  | dump
  /-- FAULT_RECORD_DRAIN (R285): Held fault records enter the fault ring as the host advances GET. Operands: x = partition, w = GET, ok = the management ring. -/
  | faultRecordDrain
  /-- L2_WATCH_REPORT (R375): The Debug core receives an L2 hit and raises the context's halt line. Operands: x = slice. -/
  | l2WatchReport
  /-- STEP_END (R381): A step ends by retirement, blocking or a hit and is answered in RESP. Operands: x = team. -/
  | stepEnd
  /-- CHECKPOINT_DUE (R366): After 2^20 retired scalar instructions a gang takes a checkpoint into the journal. Operands: x = gang, ok = commanded. -/
  | checkpointDue
  /-- JOURNAL_SUSPEND (R368): When the current interval no longer fits, recording is suspended with a source-6 record. Operands: x = gang. -/
  | journalSuspend
  /-- REPLAY_STOP (R370): Replay stops when the named team retires its count-th instruction. Operands: x = gang, y = 0: a breakpoint, with w = PC, v = word, list = team; 1: a fatal fault of kind z; 2: the count. -/
  | replayStop
  /-- SAMPLE_RECORD (R377): A marked request's reply writes a latency sample record. Operands: x = operation, y = request, z = cycle of issue, u = kind, v = core, data = the words known at issue. -/
  | sampleRecord
  /-- DOORBELL_WHILE_BUSY (R308): A doorbell rung while STATUS.BUSY is 1 is not carried out, leaves RESP alone and sets STATUS.DROPPED. -/
  | doorbellWhileBusy
  /-- UNLISTED_COMMAND_CODE (R308): A doorbell whose CMD code no table lists is refused with RESP status 1 and changes nothing. -/
  | unlistedCommandCode
  /-- MODULE_POWER_REMOVAL (R322): The host removes module power, losing every context, cache, scratchpad and memory content and taking the PCIe link and every port down. -/
  | modulePowerRemoval
  /-- JUNCTION_BELOW_85C (R322): A device held in reset because a junction sensor read 85 °C or more restarts under R317 once every sensor reads below 85 °C. -/
  | junctionBelow85c
deriving DecidableEq, Repr

end Sys2Proof
end

