-- ==== Sys2Proof/Decode.lean ====
section
/-! DEFINITION. The decoder of the three streams, total on any word and rejecting by the reason of spec/02 R46, and
an encoder written from the same tables (spec/01 R25 to R30, spec/02 R37 to R47). Words are read as numbers: field
`[hi:lo]` of a word is `bits w lo (hi - lo + 1)`. -/

namespace Sys2Proof

/-- The reasons of an illegal-instruction trap, in the order of the checks (spec/02 R46). -/
inductive Reason where
  /-- 1: reserved opcode. -/
  | opcode
  /-- 2: reserved FN or FN2. -/
  | fn
  /-- 3: reserved operand code or trapping position. -/
  | operand
  /-- 4: non-zero reserved field or bit. -/
  | reserved
  /-- 5: reserved value in a used field, or a combination that is not admitted. -/
  | value
  /-- 6: a state condition. -/
  | state
deriving DecidableEq, Repr

/-- The code of a reason (spec/02 R46). -/
def Reason.code : Reason → Nat
  | .opcode => 1
  | .fn => 2
  | .operand => 3
  | .reserved => 4
  | .value => 5
  | .state => 6

/-- Field `[lo+len-1:lo]` of a word. -/
def bits (w lo len : Nat) : Nat := w / 2 ^ lo % 2 ^ len

/-- A field as a bit vector. -/
def fld (w lo len : Nat) : BitVec len := BitVec.ofNat len (bits w lo len)

/-- A signed field widened to 64 bits. -/
def sext64 {n : Nat} (b : BitVec n) : W64 := b.signExtend 64

/-- Accept `i` if the reserved fields are 0 (reason 4) and the values are admitted (reason 5). -/
def permit (zero ok : Bool) (i : Instr) : Except Reason Instr :=
  if !zero then .error .reserved else if !ok then .error .value else .ok i

/-! ## Scalar words (spec/01 R25, spec/02 R37, R38) -/

/-- The special registers that SRD reads (spec/01 R24). -/
def srdNumbers : List Nat :=
  [0x000, 0x001, 0x002, 0x003, 0x008, 0x009, 0x00A, 0x00B, 0x00C, 0x010, 0x011, 0x012, 0x013, 0x014, 0x015, 0x016]

/-- The special registers that SWR writes (spec/01 R24). -/
def swrNumbers : List Nat := [0x009]

/-- Opcode 0x01 (spec/02 R37, spec/03 R50). -/
def decodeAlu (fn : Nat) (sd sa sb : BitVec 6) : Except Reason Instr :=
  match fn with
  | 0x00 => .ok (.sadd sd sa sb)
  | 0x01 => .ok (.ssub sd sa sb)
  | 0x02 => .ok (.sand sd sa sb)
  | 0x03 => .ok (.sor sd sa sb)
  | 0x04 => .ok (.sxor sd sa sb)
  | 0x05 => .ok (.sshl sd sa sb)
  | 0x06 => .ok (.sshr sd sa sb)
  | 0x07 => .ok (.ssra sd sa sb)
  | 0x08 => .ok (.sminS sd sa sb)
  | 0x09 => .ok (.smaxS sd sa sb)
  | 0x0A => .ok (.sminN sd sa sb)
  | 0x0B => .ok (.smaxN sd sa sb)
  | 0x0C => .ok (.ssltS sd sa sb)
  | 0x0D => .ok (.ssltN sd sa sb)
  | 0x0E => .ok (.sseq sd sa sb)
  | 0x0F => .ok (.ssne sd sa sb)
  | 0x10 => permit (sb == 0) true (.sclz sd sa)
  | 0x11 => permit (sb == 0) true (.spop sd sa)
  | _ => .error .fn

/-- Opcode 0x02 (spec/03 R51). -/
def decodeMul (fn : Nat) (sd sa sb : BitVec 6) : Except Reason Instr :=
  match fn with
  | 0 => .ok (.smul sd sa sb)
  | 1 => .ok (.smulhS sd sa sb)
  | 2 => .ok (.smulhN sd sa sb)
  | 3 => .ok (.sdivS sd sa sb)
  | 4 => .ok (.sdivN sd sa sb)
  | 5 => .ok (.sremS sd sa sb)
  | 6 => .ok (.sremN sd sa sb)
  | _ => .error .fn

/-- Opcode 0x38 (spec/03 R64). -/
def decodeTok (fn : Nat) (sd sa sb : BitVec 6) : Except Reason Instr :=
  match fn with
  | 0 => permit (sd == 0 && sb == 0) true (.twait sa)
  | 1 => permit (sb == 0) true (.ttry sd sa)
  | 2 => .ok (.twaitt sd sa sb)
  | 3 => permit (sd == 0 && sb == 0) true (.tclr sa)
  | 4 => permit (sb == 0) true (.tstat sd sa)
  | 5 => permit (sb == 0) true (.tany sd sa)
  | _ => .error .fn

/-- Opcode 0x39 (spec/03 R66): barrier numbers 16 to 63 and group numbers 8 to 63 are reserved values. -/
def decodeBar (fn : Nat) (sd sa sb : BitVec 6) : Except Reason Instr :=
  let b := BitVec.ofNat 4 sa.toNat
  let g := BitVec.ofNat 3 sa.toNat
  match fn with
  | 0 => permit (sd == 0 && sb == 0) (decide (sa.toNat < 16)) (.barArr b)
  | 1 => permit (sd == 0 && sb == 0) (decide (sa.toNat < 16)) (.barWait b)
  | 2 => permit (sd == 0 && sb == 0) (decide (sa.toNat < 16)) (.barSync b)
  | 3 => permit (sd == 0 && sb == 0) (decide (sa.toNat < 8)) (.join g)
  | 4 => permit (sd == 0 && sb == 0) (decide (sa.toNat < 8)) (.leave g)
  | 5 => permit (sd == 0) (decide (sa.toNat < 16) && decide (sb.toNat < 8)) (.bind b (BitVec.ofNat 3 sb.toNat))
  | 6 => permit (sd == 0 && sb == 0) true (.evsig sa)
  | 7 => permit (sb == 0) (decide (sa.toNat < 8)) (.grp sd g)
  | _ => .error .fn

/-- Opcodes 0x3A and 0x3B (spec/03 R68, R69). -/
def decodeBudget (fn : Nat) (sd sa sb : BitVec 6) : Except Reason Instr :=
  match fn with
  | 0 => permit (sb == 0) true (.vgrow sd sa)
  | 1 => permit (sb == 0) true (.vgrowT sd sa)
  | 2 => permit (sd == 0 && sb == 0) true (.vshrink sa)
  | _ => .error .fn

/-- Opcode 0x3B (spec/03 R69). -/
def decodeFmt (fn : Nat) (sd sa sb : BitVec 6) : Except Reason Instr :=
  match fn with
  | 0 => permit (sd == 0 && sb == 0) true (.fmtset sa)
  | 1 => permit (sa == 0 && sb == 0) true (.fmtget sd)
  | 2 => permit (sd == 0 && sa == 0 && decide (sb.toNat < 32)) true (.fmtseti (BitVec.ofNat 5 sb.toNat))
  | _ => .error .fn

/-- The SX words of opcodes 0x28, 0x29, 0x31, 0x40, 0x41, 0x48 and 0x50 (spec/02 R37). -/
def decodeSx (op fn : Nat) (td : BitVec 5) (sp sa sb : BitVec 6) : Except Reason Instr :=
  match op, fn with
  | 0x28, 0 => .ok (.sldg td sp sa sb false)
  | 0x28, 1 => .ok (.sldg td sp sa sb true)
  | 0x29, 0 => .ok (.sstg td sp sa sb false)
  | 0x29, 1 => .ok (.sstg td sp sa sb true)
  | 0x31, 0 => permit (sb == 0) true (.lrunr td sp sa)
  | 0x40, 0 => permit true (decide (sb.toNat < 4)) (.cpy td sp sa (BitVec.ofNat 2 sb.toNat))
  | 0x40, 1 => permit true (decide (sb.toNat < 8)) (.cbld td sp sa (BitVec.ofNat 3 sb.toNat))
  | 0x40, 2 => permit (sb == 0) true (.cpbi td sp sa)
  | 0x41, 0 => permit (sb == 0) true (.xred td sp sa)
  | 0x41, 1 => permit (sb == 0) true (.xgat td sp sa)
  | 0x41, 2 => permit (sb == 0) true (.xa2a td sp sa)
  | 0x48, 0 => .ok (.pinit td sp sa sb)
  | 0x48, 1 => .ok (.pexp td sp sa sb)
  | 0x48, 2 => permit (sb == 0) true (.parr td sp sa)
  | 0x48, 3 => permit (sb == 0) true (.texp td sp sa)
  | 0x50, 0 => .ok (.trig td sp sa sb)
  | 0x50, 1 => .ok (.seal td sp sa sb)
  | 0x50, 2 => permit (sb == 0) true (.unseal td sp sa)
  | 0x50, 3 => permit (sb == 0) true (.vref td sp sa)
  | _, _ => .error .fn

/-- Opcode 0x59 (spec/02 R37, spec/01 R24). -/
def decodeSys (fn : Nat) (sd sa sb : BitVec 6) : Except Reason Instr :=
  let num := sa.toNat * 64 + sb.toNat
  let none3 := sd == 0 && sa == 0 && sb == 0
  match fn with
  | 0 => permit none3 true .tret
  | 1 => permit none3 true .exit
  | 2 => permit none3 true .brk
  | 3 => permit none3 true .nop
  | 4 => permit true (srdNumbers.contains num) (.srd sd (BitVec.ofNat 12 num))
  | 5 => permit true (swrNumbers.contains num) (.swr sd (BitVec.ofNat 12 num))
  | _ => .error .fn

/-- Opcodes 0x03 to 0x0B, 0x20 to 0x24 and 0x58: the SI form. -/
def decodeSi (op : Nat) (sd sa : BitVec 6) (imm : BitVec 13) : Except Reason Instr :=
  let sh := BitVec.ofNat 6 imm.toNat
  let shOk := decide (imm.toNat < 64)
  match op with
  | 0x03 => .ok (.saddi sd sa imm)
  | 0x04 => .ok (.sandi sd sa imm)
  | 0x05 => .ok (.sori sd sa imm)
  | 0x06 => .ok (.sxori sd sa imm)
  | 0x07 => .ok (.sslti sd sa imm)
  | 0x08 => permit shOk true (.sshli sd sa sh)
  | 0x09 => permit shOk true (.sshri sd sa sh)
  | 0x0A => permit shOk true (.ssrai sd sa sh)
  | 0x0B =>
    permit true (decide (bits imm.toNat 6 6 + bits imm.toNat 0 6 + 1 ≤ 64))
      (.sbfx sd sa (decide (bits imm.toNat 12 1 = 1)) (fld imm.toNat 6 6) (fld imm.toNat 0 6))
  | 0x20 => .ok (.sldD sd sa imm)
  | 0x21 => .ok (.sldW sd sa imm)
  | 0x22 => .ok (.sstD sd sa imm)
  | 0x23 => .ok (.sstW sd sa imm)
  | 0x24 => .ok (.sldc sd sa imm)
  | 0x58 => permit (sd == 0 && sa == 0) true (.strap imm)
  | _ => .error .opcode

/-- Opcodes 0x10 to 0x15, 0x18 to 0x1A and 0x4B: the SB form. -/
def decodeSb (op : Nat) (sa sb : BitVec 6) (off : BitVec 13) : Except Reason Instr :=
  match op with
  | 0x10 => .ok (.sbeq sa sb off)
  | 0x11 => .ok (.sbne sa sb off)
  | 0x12 => .ok (.sbltS sa sb off)
  | 0x13 => .ok (.sbgeS sa sb off)
  | 0x14 => .ok (.sbltN sa sb off)
  | 0x15 => .ok (.sbgeN sa sb off)
  | 0x18 => permit (sb == 0) (decide (sa.toNat < 16)) (.sbany (BitVec.ofNat 4 sa.toNat) off)
  | 0x19 => permit (sb == 0) (decide (sa.toNat < 16)) (.sball (BitVec.ofNat 4 sa.toNat) off)
  | 0x1A => permit (sb == 0) (sa != 0) (.sloop sa off)
  | 0x4B =>
    permit true (decide (sa.toNat < 4) && decide (sb.toNat < 16) && sb != 0)
      (.chk (BitVec.ofNat 2 sa.toNat) (BitVec.ofNat 4 sb.toNat) off)
  | _ => .error .opcode

/-- The scalar word `w`, with the word after it for SIMM (spec/01 R25, R26, spec/02 R37, R46). Whether SIMM may
precede its word is checked where the pair issues (spec/02 R45). -/
def decodeScalar (w next : BitVec 32) : Except Reason Instr :=
  let n := w.toNat
  let op := bits n 25 7
  let sd : BitVec 6 := fld n 19 6
  let sa : BitVec 6 := fld n 13 6
  let sb : BitVec 6 := fld n 7 6
  let fn := bits n 0 7
  let sx := decodeSx op (bits n 0 2) (fld n 20 5) (fld n 14 6) (fld n 8 6) (fld n 2 6)
  let si := decodeSi op sd sa (fld n 0 13)
  let sbf := decodeSb op sd sa (fld n 0 13)
  match op with
  | 0x01 => decodeAlu fn sd sa sb
  | 0x02 => decodeMul fn sd sa sb
  | 0x03 => si
  | 0x04 => si
  | 0x05 => si
  | 0x06 => si
  | 0x07 => si
  | 0x08 => si
  | 0x09 => si
  | 0x0A => si
  | 0x0B => si
  | 0x0C => .ok (.simm (fld n 0 25) next)
  | 0x10 => sbf
  | 0x11 => sbf
  | 0x12 => sbf
  | 0x13 => sbf
  | 0x14 => sbf
  | 0x15 => sbf
  | 0x16 => .ok (.sjal sd (fld n 0 19))
  | 0x17 => if fn = 0 then permit (sb == 0) true (.sjr sd sa) else .error .fn
  | 0x18 => sbf
  | 0x19 => sbf
  | 0x1A => sbf
  | 0x20 => si
  | 0x21 => si
  | 0x22 => si
  | 0x23 => si
  | 0x24 => si
  | 0x25 => if fn = 0 then permit (sd == 0) true (.sempty sa sb) else .error .fn
  | 0x28 => sx
  | 0x29 => sx
  | 0x30 => .ok (.lrun (fld n 20 5) (fld n 14 6) (fld n 0 14))
  | 0x31 => sx
  | 0x38 => decodeTok fn sd sa sb
  | 0x39 => decodeBar fn sd sa sb
  | 0x3A => decodeBudget fn sd sa sb
  | 0x3B => decodeFmt fn sd sa sb
  | 0x40 => sx
  | 0x41 => sx
  | 0x48 => sx
  | 0x49 =>
    match fn with
    | 0 => .ok (.pwait sd sa sb)
    | 1 => .ok (.ptry sd sa sb)
    | _ => .error .fn
  | 0x4A =>
    permit (sd == 0 && sa == 0 && sb == 0 && decide (bits n 6 1 = 0))
      (decide (bits n 0 3 < 4) && decide (bits n 3 3 < 4)) (.fence (fld n 0 2) (fld n 3 2))
  | 0x4B => sbf
  | 0x4C =>
    if fn = 0 then permit (sd == 0 && sb == 0) (decide (sa.toNat < 4)) (.wclr (BitVec.ofNat 2 sa.toNat))
    else .error .fn
  | 0x50 => sx
  | 0x58 => si
  | 0x59 => decodeSys fn sd sa sb
  | _ => .error .opcode

/-- Whether a scalar word is of the SI form and may follow SIMM (spec/01 R26, spec/02 R38). -/
def simmAdmits (w : BitVec 32) : Bool :=
  let op := bits w.toNat 25 7
  (decide (0x03 ≤ op) && decide (op ≤ 0x0A)) || (decide (0x20 ≤ op) && decide (op ≤ 0x24))

/-! ## Lane words (spec/01 R27 to R29, spec/02 R39 to R43) -/

/-- What an operand position admits (spec/01 R29, spec/04 R81, R90, R98, R99, R101). -/
inductive Role where
  /-- Not read: must be 0. -/
  | none
  /-- Any source. -/
  | src
  /-- V or M1 to M15. -/
  | dst
  /-- V, L or M1 to M15. -/
  | fdst
  /-- V or a link: what spec/04 R85 admits, so that M1 to M15 are trapping positions (spec/01 R29). -/
  | vlink
  /-- M1 to M15. -/
  | mdst
  /-- M0 to M15. -/
  | msrc
  /-- L0 to L7. -/
  | link
  /-- The immediate only. -/
  | imm
  /-- S or the immediate. -/
  | simm
  /-- V or S. -/
  | vs
  /-- S only. -/
  | s
  /-- V only. -/
  | v
  /-- V, S or a special value. -/
  | vsx
  /-- A format pair: bit 8 must be 0. -/
  | fmts
  /-- A token: bits [8:5] must be 0. -/
  | tok
deriving DecidableEq, Repr

/-- A code between two bounds. -/
def codeIn (c : BitVec 9) (lo hi : Nat) : Bool := decide (lo ≤ c.toNat) && decide (c.toNat ≤ hi)

/-- A code that some source position admits (spec/01 R29). -/
def isSource (c : BitVec 9) : Bool :=
  codeIn c 0 263 || codeIn c 272 365 || codeIn c 511 511

/-- Whether a position's role is kept as far as reason 3 goes. -/
def Role.codeOk (r : Role) (c : BitVec 9) : Bool :=
  match r with
  | .none => true
  | .src => isSource c
  | .dst => codeIn c 0 255 || codeIn c 273 287
  | .fdst => codeIn c 0 263 || codeIn c 273 287
  | .vlink => codeIn c 0 263
  | .mdst => codeIn c 273 287
  | .msrc => codeIn c 272 287
  | .link => codeIn c 256 263
  | .imm => codeIn c 511 511
  | .simm => codeIn c 288 351 || codeIn c 511 511
  | .vs => codeIn c 0 255 || codeIn c 288 351
  | .s => codeIn c 288 351
  | .v => codeIn c 0 255
  | .vsx => codeIn c 0 255 || codeIn c 288 365
  | .fmts => true
  | .tok => true

/-- Whether a position's reserved bits are 0 (reason 4). -/
def Role.zeroOk (r : Role) (c : BitVec 9) : Bool :=
  match r with
  | .none => c == 0
  | .fmts => decide (c.toNat < 256)
  | .tok => decide (c.toNat < 32)
  | _ => true

/-- Whether the position reads the immediate through code 511. -/
def Role.readsImm (r : Role) (c : BitVec 9) : Bool :=
  match r with
  | .src => c == 511
  | .imm => c == 511
  | .simm => c == 511
  | _ => false

/-- The groups of lane opcodes (spec/02 R41). -/
inductive LGroup where
  | int | float | cvt | div | mask | cross | mem
deriving DecidableEq, Repr

/-- How a lane opcode uses its operand fields: group, then DST, SA, SB and SC. -/
structure LSpec where
  grp : LGroup
  d : Role
  a : Role
  b : Role
  c : Role
deriving DecidableEq, Repr

/-- The operand fields of each lane opcode (spec/02 R39, R40, spec/04). -/
def laneSpec (opc : Nat) : Option LSpec :=
  match opc with
  | 0x000 => some ⟨.int, .dst, .src, .src, .none⟩
  | 0x001 => some ⟨.int, .dst, .src, .src, .none⟩
  | 0x002 => some ⟨.int, .dst, .src, .src, .none⟩
  | 0x003 => some ⟨.int, .dst, .src, .src, .none⟩
  | 0x004 => some ⟨.int, .dst, .src, .src, .src⟩
  | 0x005 => some ⟨.int, .dst, .src, .src, .none⟩
  | 0x006 => some ⟨.int, .dst, .src, .src, .none⟩
  | 0x007 => some ⟨.int, .dst, .src, .none, .none⟩
  | 0x008 => some ⟨.int, .dst, .src, .none, .none⟩
  | 0x009 => some ⟨.int, .dst, .src, .src, .none⟩
  | 0x00A => some ⟨.int, .dst, .src, .src, .none⟩
  | 0x00B => some ⟨.int, .dst, .src, .src, .none⟩
  | 0x00C => some ⟨.int, .dst, .src, .none, .none⟩
  | 0x00D => some ⟨.int, .dst, .src, .src, .none⟩
  | 0x00E => some ⟨.int, .dst, .src, .src, .none⟩
  | 0x00F => some ⟨.int, .dst, .src, .src, .none⟩
  | 0x010 => some ⟨.int, .dst, .src, .src, .none⟩
  | 0x011 => some ⟨.int, .dst, .src, .none, .none⟩
  | 0x012 => some ⟨.int, .dst, .src, .none, .none⟩
  | 0x013 => some ⟨.int, .dst, .src, .src, .src⟩
  | 0x014 => some ⟨.int, .dst, .src, .src, .src⟩
  | 0x015 => some ⟨.int, .dst, .src, .src, .src⟩
  | 0x016 => some ⟨.int, .dst, .src, .none, .none⟩
  | 0x017 => some ⟨.int, .dst, .src, .src, .none⟩
  | 0x040 => some ⟨.float, .vlink, .src, .src, .none⟩
  | 0x041 => some ⟨.float, .vlink, .src, .src, .none⟩
  | 0x042 => some ⟨.float, .vlink, .src, .src, .none⟩
  | 0x043 => some ⟨.float, .vlink, .src, .src, .src⟩
  | 0x044 => some ⟨.float, .vlink, .src, .src, .src⟩
  | 0x045 => some ⟨.float, .vlink, .src, .src, .src⟩
  | 0x046 => some ⟨.float, .fdst, .src, .src, .none⟩
  | 0x047 => some ⟨.float, .fdst, .src, .src, .none⟩
  | 0x048 => some ⟨.float, .vlink, .src, .src, .none⟩
  | 0x049 => some ⟨.float, .vlink, .src, .none, .none⟩
  | 0x04A => some ⟨.float, .vlink, .src, .none, .none⟩
  | 0x04B => some ⟨.float, .vlink, .src, .none, .none⟩
  | 0x04C => some ⟨.float, .fdst, .src, .none, .none⟩
  | 0x04D => some ⟨.float, .fdst, .src, .none, .none⟩
  | 0x04E => some ⟨.float, .fdst, .src, .src, .none⟩
  | 0x04F => some ⟨.float, .dst, .link, .src, .none⟩
  | 0x050 => some ⟨.float, .none, .link, .none, .none⟩
  | 0x051 => some ⟨.float, .fdst, .src, .none, .none⟩
  | 0x052 => some ⟨.float, .vlink, .src, .none, .none⟩
  | 0x053 => some ⟨.float, .vlink, .src, .none, .none⟩
  | 0x080 => some ⟨.cvt, .dst, .src, .none, .fmts⟩
  | 0x081 => some ⟨.cvt, .dst, .src, .none, .fmts⟩
  | 0x082 => some ⟨.cvt, .dst, .src, .src, .fmts⟩
  | 0x083 => some ⟨.cvt, .dst, .src, .none, .fmts⟩
  | 0x084 => some ⟨.cvt, .dst, .src, .none, .fmts⟩
  | 0x0A0 => some ⟨.div, .none, .src, .none, .none⟩
  | 0x0A1 => some ⟨.div, .none, .none, .none, .none⟩
  | 0x0A2 => some ⟨.div, .none, .none, .none, .none⟩
  | 0x0A3 => some ⟨.div, .none, .none, .none, .none⟩
  | 0x0A4 => some ⟨.div, .none, .src, .none, .none⟩
  | 0x0A5 => some ⟨.div, .none, .src, .none, .none⟩
  | 0x0A6 => some ⟨.div, .none, .none, .none, .none⟩
  | 0x0A7 => some ⟨.mask, .mdst, .msrc, .msrc, .none⟩
  | 0x0A8 => some ⟨.mask, .mdst, .msrc, .msrc, .none⟩
  | 0x0A9 => some ⟨.mask, .mdst, .msrc, .msrc, .none⟩
  | 0x0AA => some ⟨.mask, .mdst, .msrc, .msrc, .none⟩
  | 0x0AB => some ⟨.mask, .mdst, .msrc, .none, .none⟩
  | 0x0AC => some ⟨.mask, .mdst, .msrc, .none, .none⟩
  | 0x0AD => some ⟨.mask, .mdst, .imm, .none, .none⟩
  | 0x0C0 => some ⟨.cross, .v, .src, .src, .none⟩
  | 0x0C1 => some ⟨.cross, .v, .src, .simm, .none⟩
  | 0x0C2 => some ⟨.cross, .v, .src, .none, .none⟩
  | 0x0C3 => some ⟨.cross, .vs, .src, .none, .none⟩
  | 0x0C4 => some ⟨.cross, .s, .src, .none, .none⟩
  | 0x0E0 => some ⟨.mem, .v, .vs, .none, .tok⟩
  | 0x0E1 => some ⟨.mem, .v, .vs, .none, .tok⟩
  | 0x0E2 => some ⟨.mem, .v, .vs, .none, .tok⟩
  | 0x0E3 => some ⟨.mem, .v, .vs, .vsx, .tok⟩
  | 0x0E4 => some ⟨.mem, .none, .vs, .vsx, .tok⟩
  | 0x0E5 => some ⟨.mem, .none, .vs, .none, .none⟩
  | _ => none

/-- The constructor of each lane opcode (spec/02 R39). -/
def laneInstr (opc : Nat) (f : LaneF) : Option Instr :=
  match opc with
  | 0x000 => some (.vadd f)
  | 0x001 => some (.vsub f)
  | 0x002 => some (.vmul f)
  | 0x003 => some (.vmulh f)
  | 0x004 => some (.vmad f)
  | 0x005 => some (.vmin f)
  | 0x006 => some (.vmax f)
  | 0x007 => some (.vabs f)
  | 0x008 => some (.vneg f)
  | 0x009 => some (.vand f)
  | 0x00A => some (.vor f)
  | 0x00B => some (.vxor f)
  | 0x00C => some (.vnot f)
  | 0x00D => some (.vshl f)
  | 0x00E => some (.vshr f)
  | 0x00F => some (.vsra f)
  | 0x010 => some (.vrot f)
  | 0x011 => some (.vclz f)
  | 0x012 => some (.vpop f)
  | 0x013 => some (.vbfx f)
  | 0x014 => some (.vbfi f)
  | 0x015 => some (.vsel f)
  | 0x016 => some (.vmov f)
  | 0x017 => some (.vcmp f)
  | 0x040 => some (.vfadd f)
  | 0x041 => some (.vfsub f)
  | 0x042 => some (.vfmul f)
  | 0x043 => some (.vfma f)
  | 0x044 => some (.vfms f)
  | 0x045 => some (.vfnma f)
  | 0x046 => some (.vfmin f)
  | 0x047 => some (.vfmax f)
  | 0x048 => some (.vfdiv f)
  | 0x049 => some (.vfsqrt f)
  | 0x04A => some (.vfrcp f)
  | 0x04B => some (.vfrsq f)
  | 0x04C => some (.vfabs f)
  | 0x04D => some (.vfneg f)
  | 0x04E => some (.vfcmp f)
  | 0x04F => some (.vfcmpd f)
  | 0x050 => some (.vtrim f)
  | 0x051 => some (.vfcls f)
  | 0x052 => some (.vfexp2 f)
  | 0x053 => some (.vflog2 f)
  | 0x080 => some (.vcvt f)
  | 0x081 => some (.vcvti f)
  | 0x082 => some (.vpack f)
  | 0x083 => some (.vunpk f)
  | 0x084 => some (.vcbd f)
  | 0x0A0 => some (.vif f)
  | 0x0A1 => some (.velse f)
  | 0x0A2 => some (.vendif f)
  | 0x0A3 => some (.vloop f)
  | 0x0A4 => some (.vbrk f)
  | 0x0A5 => some (.vcont f)
  | 0x0A6 => some (.vendlp f)
  | 0x0A7 => some (.mand f)
  | 0x0A8 => some (.mor f)
  | 0x0A9 => some (.mxor f)
  | 0x0AA => some (.mandn f)
  | 0x0AB => some (.mnot f)
  | 0x0AC => some (.mmov f)
  | 0x0AD => some (.mset f)
  | 0x0C0 => some (.vshuf f)
  | 0x0C1 => some (.vbcast f)
  | 0x0C2 => some (.vscan f)
  | 0x0C3 => some (.vred f)
  | 0x0C4 => some (.vballot f)
  | 0x0E0 => some (.vld f)
  | 0x0E1 => some (.vst f)
  | 0x0E2 => some (.vlds f)
  | 0x0E3 => some (.vamo f)
  | 0x0E4 => some (.vrmo f)
  | 0x0E5 => some (.vprf f)
  | _ => none

/-- IMM [31:24] of a lane memory instruction (spec/02 R42). -/
def LaneF.xm (f : LaneF) : Nat := bits f.imm.toNat 24 8
/-- MOD [7:5]: type of the integer and cross-lane groups, rounding of the conversions (spec/02 R41). -/
def LaneF.hi3 (f : LaneF) : Nat := bits f.md.toNat 5 3
/-- MOD [4:2]: comparison or operation code (spec/02 R41). -/
def LaneF.mid3 (f : LaneF) : Nat := bits f.md.toNat 2 3
/-- MOD [7:6]: float format or memory space (spec/02 R41). -/
def LaneF.hi2 (f : LaneF) : Nat := bits f.md.toNat 6 2
/-- MOD [5:3]: rounding, comparison of VFCMP, or memory width (spec/02 R41). -/
def LaneF.up3 (f : LaneF) : Nat := bits f.md.toNat 3 3
/-- SC [7:4] and SC [3:0]: destination and source format (spec/02 R43). -/
def LaneF.dfmt (f : LaneF) : Nat := bits f.sc.toNat 4 4
/-- SC [3:0]: source format (spec/02 R43). -/
def LaneF.sfmt (f : LaneF) : Nat := bits f.sc.toNat 0 4

/-- The format pairs a conversion admits (spec/04 R94). -/
def cvtPairOk (opc d s : Nat) : Bool :=
  match opc with
  | 0x080 => decide (d < 5) && decide (s < 5)
  | 0x081 =>
    (decide (5 ≤ d) && decide (d < 11) && decide (s < 3)) || (decide (d < 3) && decide (5 ≤ s) && decide (s < 11))
  | 0x082 =>
    (decide (1 ≤ d) && decide (d < 5) && s == 0) || ((d == 7 || d == 9) && s == 5) || ((d == 8 || d == 10) && s == 6)
  | 0x083 =>
    (d == 0 && decide (1 ≤ s) && decide (s < 5)) || (d == 5 && (s == 7 || s == 9)) || (d == 6 && (s == 8 || s == 10))
  | 0x084 => (d == 0 || d == 2) && s == 11
  | _ => false

/-- The greatest IMM a conversion admits beside an operand code of 511: the bits above it are reserved whatever the
format pair, so that reason 4 comes before reason 5 (spec/04 R94, spec/02 R46). -/
def cvtImmMax (opc d s : Nat) : Nat :=
  match opc with
  | 0x082 => if d = 1 ∨ d = 2 ∨ d = 7 ∨ d = 8 then 0 else 1
  | 0x083 => if s = 1 ∨ s = 2 ∨ s = 7 ∨ s = 8 then 1 else 3
  | 0x084 => 63
  | _ => 0xFFFFFFFF

/-- Whether a description reads IMM apart from an operand code (spec/02 R40, spec/04). -/
def immRead (opc : Nat) (g : LGroup) : Bool :=
  g == .mem || opc == 0x082 || opc == 0x083 || opc == 0x084 || opc == 0x0C4

/-- The modifier bits that must be 0 (reason 4, spec/02 R41, R42). -/
def laneZero (opc : Nat) (g : LGroup) (f : LaneF) : Bool :=
  let low2 := bits f.md.toNat 0 2 == 0
  match g with
  | .int => low2 && (opc == 0x017 || f.mid3 == 0)
  | .float =>
    low2 && (opc != 0x050 || f.md == 0) && (opc == 0x04F || bits f.md.toNat 2 1 == 0)
  | .cvt => bits f.md.toNat 0 5 == 0 && decide (f.imm.toNat ≤ cvtImmMax opc f.dfmt f.sfmt)
  | .div => f.md == 0 && f.imm == 0
  | .mask => f.md == 0
  | .cross => low2 && (opc == 0x0C2 || opc == 0x0C3 || f.mid3 == 0) && (opc != 0x0C4 || decide (f.imm.toNat < 32))
  | .mem => bits f.xm 0 1 == 0 || opc == 0x0E2

/-- A register group starts where its width allows (spec/04 R103). -/
def groupOk (width n : Nat) : Bool :=
  match width with
  | 3 => n % 2 == 0
  | 4 => n % 4 == 0
  | _ => true

/-- What a lane memory instruction accepts (spec/04 R102 to R104, spec/12 R226). -/
def memOk (opc : Nat) (f : LaneF) : Bool :=
  let space := f.hi2
  let width := f.up3
  let order := bits f.md.toNat 1 2
  let nf := bits f.md.toNat 0 1 == 1
  let xe := bits f.xm 5 1 == 1
  let scope := bits f.xm 6 2
  let aop := bits f.xm 1 4
  let common := decide (width < 5) && (order != 0 || scope == 0) && !(nf && xe)
    && (!nf || space == 1 || space == 2) && (!xe || (opc == 0x0E0 && (space == 1 || space == 2)))
    && (space != 0 || decide (256 ≤ f.sa.toNat) || f.sa.toNat % 2 == 0)
  let dgrp := groupOk width f.dst.toNat
  let bgrp := decide (256 ≤ f.sb.toNat) || groupOk width f.sb.toNat
  common && match opc with
    | 0x0E0 => dgrp && aop == 0 && (order == 0 || (order == 1 && space != 3))
    | 0x0E1 => dgrp && aop == 0 && space != 3 && (order == 0 || order == 2)
    | 0x0E2 => dgrp && space == 0 && order == 0 && !nf && f.xm % 2 == 0 && decide (aop < 4)
    | 0x0E3 =>
      dgrp && bgrp && space != 3 && (width == 0 || width == 3) && decide (aop < 11) && (decide (aop < 8) || width == 0)
        && (aop != 7 || (f.sb != 351 && f.sb != 365))
    | 0x0E4 =>
      bgrp && space != 3 && (width == 0 || width == 3) && (order == 0 || order == 2) && decide (aop < 11)
        && aop != 6 && aop != 7 && (decide (aop < 8) || width == 0)
    | 0x0E5 => space == 0 && width == 0 && order == 0 && !nf && aop == 0
    | _ => false

/-- Some source names a link. -/
def linkOperand (sp : LSpec) (f : LaneF) : Bool :=
  codeIn f.sa 256 263 || codeIn f.sb 256 263 || (sp.c == .src && codeIn f.sc 256 263) || codeIn f.dst 256 263

/-- The values of used fields that a lane instruction admits (reason 5). -/
def laneValue (opc : Nat) (sp : LSpec) (f : LaneF) : Bool :=
  match sp.grp with
  | .int =>
    decide (f.hi3 < 6) && (opc != 0x017 || decide (f.mid3 < 6))
      && (!(opc == 0x007 || opc == 0x008) || f.hi3 % 2 == 0) && (opc != 0x013 || decide (f.hi3 < 2))
      && (opc != 0x014 || f.hi3 == 1)
  | .float =>
    opc == 0x050 ||
      ((if opc == 0x04E || opc == 0x04F then decide (f.up3 < 6) else decide (f.up3 < 5))
        && (decide (f.hi2 < 2) || !(linkOperand sp f || f.ch || opc == 0x04F)))
  | .cvt => decide (f.hi3 < 5) && cvtPairOk opc f.dfmt f.sfmt
  | .div => true
  | .mask => true
  | .cross =>
    f.hi3 != 7 && (f.hi3 != 6 || opc == 0x0C2 || opc == 0x0C3)
      && (!(opc == 0x0C2 || opc == 0x0C3) || (decide (f.mid3 < 6) && (f.hi3 != 6 || decide (f.mid3 < 3))))
  | .mem => memOk opc f

/-- The first failing check of a lane instruction that its word alone decides (spec/02 R46). -/
def laneReason (opc : Nat) (f : LaneF) : Option Reason :=
  match laneSpec opc with
  | none => some .opcode
  | some sp =>
    if !(sp.d.codeOk f.dst && sp.a.codeOk f.sa && sp.b.codeOk f.sb && sp.c.codeOk f.sc) then some .operand
    else if !(sp.d.zeroOk f.dst && sp.a.zeroOk f.sa && sp.b.zeroOk f.sb && sp.c.zeroOk f.sc
        && (!f.ch || sp.grp == .float)
        && (f.imm == 0 || immRead opc sp.grp || sp.a.readsImm f.sa || sp.b.readsImm f.sb || sp.c.readsImm f.sc)
        && laneZero opc sp.grp f) then some .reserved
    else if !laneValue opc sp f then some .value
    else none

/-- The fields of a lane word (spec/01 R27). -/
def laneFields (n : Nat) : LaneF :=
  { e := decide (bits n 85 1 = 1), stall := fld n 81 4, ch := decide (bits n 80 1 = 1), msk := fld n 76 4,
    dst := fld n 67 9, sa := fld n 58 9, sb := fld n 49 9, sc := fld n 40 9, md := fld n 32 8, imm := fld n 0 32 }

/-- A lane word (spec/01 R27, spec/02 R46). -/
def decodeLane (w : BitVec 96) : Except Reason Instr :=
  let opc := bits w.toNat 86 10
  let f := laneFields w.toNat
  match laneReason opc f, laneInstr opc f with
  | none, some i => .ok i
  | some r, _ => .error r
  | none, none => .error .opcode

/-! ## Matrix words (spec/01 R30, spec/02 R44) -/

/-- Which fields beside OPC a matrix opcode reads. -/
structure MSpec where
  c : Bool
  fa : Bool
  fb : Bool
  k : Bool
  fmt : Bool
  epi : Bool
  bw : Bool
  ba : Bool
deriving DecidableEq, Repr

/-- The fields of each matrix opcode (spec/02 R44); IFMT and HOLD go together. -/
def matSpec (opc : Nat) : Option MSpec :=
  match opc with
  | 0x00 => some ⟨true, true, true, true, true, false, true, true⟩
  | 0x01 => some ⟨true, true, true, true, true, false, true, true⟩
  | 0x02 => some ⟨true, true, true, true, true, false, true, true⟩
  | 0x03 => some ⟨true, false, false, true, false, false, true, true⟩
  | 0x04 => some ⟨true, false, false, true, false, false, true, true⟩
  | 0x05 => some ⟨true, false, false, true, false, false, true, true⟩
  | 0x06 => some ⟨true, false, false, true, false, true, true, true⟩
  | 0x07 => some ⟨false, false, false, false, false, false, true, true⟩
  | 0x08 => some ⟨false, false, false, false, false, false, true, true⟩
  | 0x09 => some ⟨false, false, false, false, false, false, true, true⟩
  | 0x0A => some ⟨false, true, false, false, false, false, true, true⟩
  | 0x0B => some ⟨false, false, false, true, false, false, false, false⟩
  | 0x0C => some ⟨false, false, false, false, false, false, false, false⟩
  | 0x0D => some ⟨false, false, false, false, false, false, false, false⟩
  | 0x0E => some ⟨false, false, false, false, false, false, false, false⟩
  | 0x0F => some ⟨false, false, false, false, false, false, false, false⟩
  | 0x10 => some ⟨false, false, false, false, false, false, false, true⟩
  | 0x11 => some ⟨false, false, false, false, false, false, true, false⟩
  | 0x12 => some ⟨false, false, false, false, false, false, false, false⟩
  | 0x13 => some ⟨false, false, false, false, false, false, false, false⟩
  | 0x14 => some ⟨false, false, false, false, false, false, false, false⟩
  | _ => none

/-- The constructor of each matrix opcode (spec/02 R44). -/
def matInstr (opc : Nat) (f : MatF) : Option Instr :=
  match opc with
  | 0x00 => some (.mma f)
  | 0x01 => some (.mmaz f)
  | 0x02 => some (.mdist f)
  | 0x03 => some (.mtopk f)
  | 0x04 => some (.mzero f)
  | 0x05 => some (.matrixMmov f)
  | 0x06 => some (.mepi f)
  | 0x07 => some (.mtab f)
  | 0x08 => some (.mbias f)
  | 0x09 => some (.mscl f)
  | 0x0A => some (.fskip f)
  | 0x0B => some (.mkset f)
  | 0x0C => some (.matrixMset f)
  | 0x0D => some (.madd f)
  | 0x0E => some (.mbnz f)
  | 0x0F => some (.mj f)
  | 0x10 => some (.marr f)
  | 0x11 => some (.mwait f)
  | 0x12 => some (.mtok f)
  | 0x13 => some (.mhalt f)
  | 0x14 => some (.mnop f)
  | _ => none

/-- A barrier field whose valid bit is 0 holds 0 (spec/01 R30). -/
def barFieldOk (b : BitVec 5) : Bool := decide (16 ≤ b.toNat) || b == 0

/-- The reserved bits of each matrix opcode's IMM (reason 4, spec/08 R173 to R180). -/
def matImmZero (opc : Nat) (f : MatF) : Bool :=
  let n := f.imm.toNat
  match opc with
  | 0x03 => bits n 9 8 == 0
  | 0x05 => bits n 8 7 == 0 && (bits n 15 2 == 0 || bits n 0 8 == 0)
  | 0x06 => bits n 10 4 == 0
  | 0x07 => bits n 4 13 == 0
  | 0x08 => bits n 4 13 == 0
  | 0x09 => bits n 4 13 == 0
  | 0x0A => bits n 16 1 == 0
  | 0x0B => if bits n 13 2 = 0 then bits n 5 8 == 0 else bits n 4 9 == 0
  | 0x0C => bits n 11 2 != 2 || bits n 0 11 == 0
  | 0x0D => bits n 12 1 == 0 || bits n 4 8 == 0
  | 0x0E => true
  | 0x0F => true
  | 0x12 => bits n 14 3 == 0
  | _ => n == 0

/-- The values of used fields that each matrix opcode admits (reason 5, spec/08 R171 to R180). -/
def matValue (opc : Nat) (f : MatF) : Bool :=
  let n := f.imm.toNat
  let mma := decide (f.ifmt.toNat < 8) && f.fa != f.fb
  match opc with
  | 0x00 => mma
  | 0x01 => mma
  | 0x02 => mma
  | 0x05 => bits n 15 2 != 3
  | 0x06 =>
    let ofmt := bits n 14 3
    let rq := bits f.epi.toNat 3 1 == 1
    let out := bits f.epi.toNat 1 1 == 1
    let zero := bits f.epi.toNat 0 1 == 1
    decide (ofmt < 6) && (rq == decide (ofmt ≠ 0)) && decide (bits n 8 2 < 2) && (out || (ofmt == 0 && !zero))
  | 0x0B =>
    f.k != 0 && bits n 15 2 != 3 && bits n 13 2 != 3 && (bits n 13 2 != 0 || decide (bits n 0 5 ≤ 16))
  | 0x0C => bits n 11 2 != 3
  | 0x10 => decide (16 ≤ f.ba.toNat)
  | 0x11 => decide (16 ≤ f.bw.toNat)
  | _ => true

/-- The first failing check of a matrix instruction that its word alone decides (spec/02 R46). -/
def matReason (opc : Nat) (f : MatF) : Option Reason :=
  match matSpec opc with
  | none => some .opcode
  | some sp =>
    if !((sp.c || f.c == 0) && (sp.fa || f.fa == 0) && (sp.fb || f.fb == 0) && (sp.k || f.k == 0)
        && (sp.fmt || (f.ifmt == 0 && f.hold == 0)) && (sp.epi || f.epi == 0) && (sp.bw || f.bw == 0)
        && (sp.ba || f.ba == 0) && barFieldOk f.bw && barFieldOk f.ba && matImmZero opc f) then some .reserved
    else if !matValue opc f then some .value
    else none

/-- The fields of a matrix word (spec/01 R30). -/
def matFields (n : Nat) : MatF :=
  { c := fld n 48 8, fa := fld n 45 3, fb := fld n 42 3, k := fld n 39 3, ifmt := fld n 35 4, hold := fld n 33 2,
    epi := fld n 27 6, bw := fld n 22 5, ba := fld n 17 5, imm := fld n 0 17 }

/-- A matrix word (spec/01 R30, spec/02 R46). -/
def decodeMatrix (w : BitVec 64) : Except Reason Instr :=
  let opc := bits w.toNat 56 8
  let f := matFields w.toNat
  match matReason opc f, matInstr opc f with
  | none, some i => .ok i
  | some r, _ => .error r
  | none, none => .error .opcode

/-! ## The table's numbering -/

/-- The instruction read from an instruction whose bits are `w`, numbered as the opcode table numbers them; a
scalar word is followed by a word of zeros. -/
def decodeTableWord (nbits w : Nat) : Option Instr :=
  match nbits with
  | 32 => (decodeScalar (BitVec.ofNat 32 w) 0).toOption
  | 64 => (decodeMatrix (BitVec.ofNat 64 w)).toOption
  | 96 => (decodeLane (BitVec.ofNat 96 w)).toOption
  | _ => none

/-! ## The encoder -/

/-- The words of an instruction, by stream; a SIMM pair has two. -/
inductive Code where
  | scalar (w : BitVec 32)
  | pair (w next : BitVec 32)
  | lane (w : BitVec 96)
  | matrix (w : BitVec 64)
deriving DecidableEq, Repr

/-- Form SR (spec/01 R25). -/
def encSr (op fn : Nat) (sd sa sb : BitVec 6) : Code :=
  .scalar (BitVec.ofNat 32 (op * 2 ^ 25 + sd.toNat * 2 ^ 19 + sa.toNat * 2 ^ 13 + sb.toNat * 2 ^ 7 + fn))

/-- Form SI. -/
def encSi (op : Nat) (sd sa : BitVec 6) (imm : Nat) : Code :=
  .scalar (BitVec.ofNat 32 (op * 2 ^ 25 + sd.toNat * 2 ^ 19 + sa.toNat * 2 ^ 13 + imm))

/-- Form SX. -/
def encSx (op fn : Nat) (td : BitVec 5) (sp sa : BitVec 6) (sb : Nat) : Code :=
  .scalar (BitVec.ofNat 32
    (op * 2 ^ 25 + td.toNat * 2 ^ 20 + sp.toNat * 2 ^ 14 + sa.toNat * 2 ^ 8 + sb * 2 ^ 2 + fn))

/-- A lane word (spec/01 R27). -/
def encLane (opc : Nat) (f : LaneF) : Code :=
  .lane (BitVec.ofNat 96 (opc * 2 ^ 86 + f.e.toNat * 2 ^ 85 + f.stall.toNat * 2 ^ 81 + f.ch.toNat * 2 ^ 80
    + f.msk.toNat * 2 ^ 76 + f.dst.toNat * 2 ^ 67 + f.sa.toNat * 2 ^ 58 + f.sb.toNat * 2 ^ 49 + f.sc.toNat * 2 ^ 40
    + f.md.toNat * 2 ^ 32 + f.imm.toNat))

/-- A matrix word (spec/01 R30). -/
def encMat (opc : Nat) (f : MatF) : Code :=
  .matrix (BitVec.ofNat 64 (opc * 2 ^ 56 + f.c.toNat * 2 ^ 48 + f.fa.toNat * 2 ^ 45 + f.fb.toNat * 2 ^ 42
    + f.k.toNat * 2 ^ 39 + f.ifmt.toNat * 2 ^ 35 + f.hold.toNat * 2 ^ 33 + f.epi.toNat * 2 ^ 27
    + f.bw.toNat * 2 ^ 22 + f.ba.toNat * 2 ^ 17 + f.imm.toNat))

/-- Form SB. -/
def encSb (op sa sb : Nat) (off : BitVec 13) : Code :=
  .scalar (BitVec.ofNat 32 (op * 2 ^ 25 + sa * 2 ^ 19 + sb * 2 ^ 13 + off.toNat))

/-- The words of a scalar instruction, and nothing for any other row (spec/02 R37). -/
def encodeScalar (i : Instr) : Option Code :=
  match i with
  | .sadd sd sa sb => some (encSr 0x01 0 sd sa sb)
  | .ssub sd sa sb => some (encSr 0x01 1 sd sa sb)
  | .sand sd sa sb => some (encSr 0x01 2 sd sa sb)
  | .sor sd sa sb => some (encSr 0x01 3 sd sa sb)
  | .sxor sd sa sb => some (encSr 0x01 4 sd sa sb)
  | .sshl sd sa sb => some (encSr 0x01 5 sd sa sb)
  | .sshr sd sa sb => some (encSr 0x01 6 sd sa sb)
  | .ssra sd sa sb => some (encSr 0x01 7 sd sa sb)
  | .sminS sd sa sb => some (encSr 0x01 8 sd sa sb)
  | .smaxS sd sa sb => some (encSr 0x01 9 sd sa sb)
  | .sminN sd sa sb => some (encSr 0x01 10 sd sa sb)
  | .smaxN sd sa sb => some (encSr 0x01 11 sd sa sb)
  | .ssltS sd sa sb => some (encSr 0x01 12 sd sa sb)
  | .ssltN sd sa sb => some (encSr 0x01 13 sd sa sb)
  | .sseq sd sa sb => some (encSr 0x01 14 sd sa sb)
  | .ssne sd sa sb => some (encSr 0x01 15 sd sa sb)
  | .sclz sd sa => some (encSr 0x01 0x10 sd sa 0)
  | .spop sd sa => some (encSr 0x01 0x11 sd sa 0)
  | .smul sd sa sb => some (encSr 0x02 0 sd sa sb)
  | .smulhS sd sa sb => some (encSr 0x02 1 sd sa sb)
  | .smulhN sd sa sb => some (encSr 0x02 2 sd sa sb)
  | .sdivS sd sa sb => some (encSr 0x02 3 sd sa sb)
  | .sdivN sd sa sb => some (encSr 0x02 4 sd sa sb)
  | .sremS sd sa sb => some (encSr 0x02 5 sd sa sb)
  | .sremN sd sa sb => some (encSr 0x02 6 sd sa sb)
  | .saddi sd sa imm => some (encSi 3 sd sa imm.toNat)
  | .sandi sd sa imm => some (encSi 4 sd sa imm.toNat)
  | .sori sd sa imm => some (encSi 5 sd sa imm.toNat)
  | .sxori sd sa imm => some (encSi 6 sd sa imm.toNat)
  | .sslti sd sa imm => some (encSi 7 sd sa imm.toNat)
  | .sshli sd sa sh => some (encSi 8 sd sa sh.toNat)
  | .sshri sd sa sh => some (encSi 9 sd sa sh.toNat)
  | .ssrai sd sa sh => some (encSi 10 sd sa sh.toNat)
  | .sbfx sd sa sx lo wd => some (encSi 0x0B sd sa (sx.toNat * 2 ^ 12 + lo.toNat * 2 ^ 6 + wd.toNat))
  | .simm imm25 word => some (.pair (BitVec.ofNat 32 (0x0C * 2 ^ 25 + imm25.toNat)) word)
  | .sbeq sa sb off => some (encSb 16 sa.toNat sb.toNat off)
  | .sbne sa sb off => some (encSb 17 sa.toNat sb.toNat off)
  | .sbltS sa sb off => some (encSb 18 sa.toNat sb.toNat off)
  | .sbgeS sa sb off => some (encSb 19 sa.toNat sb.toNat off)
  | .sbltN sa sb off => some (encSb 20 sa.toNat sb.toNat off)
  | .sbgeN sa sb off => some (encSb 21 sa.toNat sb.toNat off)
  | .sjal sd off => some (.scalar (BitVec.ofNat 32 (0x16 * 2 ^ 25 + sd.toNat * 2 ^ 19 + off.toNat)))
  | .sjr sd sa => some (encSr 0x17 0 sd sa 0)
  | .sbany m off => some (encSb 0x18 m.toNat 0 off)
  | .sball m off => some (encSb 0x19 m.toNat 0 off)
  | .sloop sa off => some (encSb 0x1A sa.toNat 0 off)
  | .sldD sd sa imm => some (encSi 32 sd sa imm.toNat)
  | .sldW sd sa imm => some (encSi 33 sd sa imm.toNat)
  | .sstD sd sa imm => some (encSi 34 sd sa imm.toNat)
  | .sstW sd sa imm => some (encSi 35 sd sa imm.toNat)
  | .sldc sd sa imm => some (encSi 36 sd sa imm.toNat)
  | .sempty sa sb => some (encSr 0x25 0 0 sa sb)
  | .sldg td sp sa sb word => some (encSx 0x28 word.toNat td sp sa sb.toNat)
  | .sstg td sp sa sb word => some (encSx 0x29 word.toNat td sp sa sb.toNat)
  | .lrun td sp lidx => some (.scalar (BitVec.ofNat 32 (0x30 * 2 ^ 25 + td.toNat * 2 ^ 20 + sp.toNat * 2 ^ 14 + lidx.toNat)))
  | .lrunr td sp sa => some (encSx 0x31 0 td sp sa 0)
  | .twait sa => some (encSr 0x38 0 0 sa 0)
  | .ttry sd sa => some (encSr 0x38 1 sd sa 0)
  | .twaitt sd sa sb => some (encSr 0x38 2 sd sa sb)
  | .tclr sa => some (encSr 0x38 3 0 sa 0)
  | .tstat sd sa => some (encSr 0x38 4 sd sa 0)
  | .tany sd sa => some (encSr 0x38 5 sd sa 0)
  | .barArr b => some (encSr 0x39 0 0 (BitVec.ofNat 6 b.toNat) 0)
  | .barWait b => some (encSr 0x39 1 0 (BitVec.ofNat 6 b.toNat) 0)
  | .barSync b => some (encSr 0x39 2 0 (BitVec.ofNat 6 b.toNat) 0)
  | .join g => some (encSr 0x39 3 0 (BitVec.ofNat 6 g.toNat) 0)
  | .leave g => some (encSr 0x39 4 0 (BitVec.ofNat 6 g.toNat) 0)
  | .bind b g => some (encSr 0x39 5 0 (BitVec.ofNat 6 b.toNat) (BitVec.ofNat 6 g.toNat))
  | .evsig sa => some (encSr 0x39 6 0 sa 0)
  | .grp sd g => some (encSr 0x39 7 sd (BitVec.ofNat 6 g.toNat) 0)
  | .vgrow sd sa => some (encSr 0x3A 0 sd sa 0)
  | .vgrowT sd sa => some (encSr 0x3A 1 sd sa 0)
  | .vshrink sa => some (encSr 0x3A 2 0 sa 0)
  | .fmtset sa => some (encSr 0x3B 0 0 sa 0)
  | .fmtget sd => some (encSr 0x3B 1 sd 0 0)
  | .fmtseti v => some (encSr 0x3B 2 0 0 (BitVec.ofNat 6 v.toNat))
  | .cpy td sp sa q => some (encSx 0x40 0 td sp sa q.toNat)
  | .cbld td sp sa f => some (encSx 0x40 1 td sp sa f.toNat)
  | .cpbi td sp sa => some (encSx 0x40 2 td sp sa 0)
  | .xred td sp sa => some (encSx 0x41 0 td sp sa 0)
  | .xgat td sp sa => some (encSx 0x41 1 td sp sa 0)
  | .xa2a td sp sa => some (encSx 0x41 2 td sp sa 0)
  | .pinit td sp sa sb => some (encSx 0x48 0 td sp sa sb.toNat)
  | .pexp td sp sa sb => some (encSx 0x48 1 td sp sa sb.toNat)
  | .parr td sp sa => some (encSx 0x48 2 td sp sa 0)
  | .texp td sp sa => some (encSx 0x48 3 td sp sa 0)
  | .pwait sd sa sb => some (encSr 0x49 0 sd sa sb)
  | .ptry sd sa sb => some (encSr 0x49 1 sd sa sb)
  | .fence kind scope => some (encSr 0x4A (kind.toNat + scope.toNat * 2 ^ 3) 0 0 0)
  | .chk w mask off => some (encSb 0x4B w.toNat mask.toNat off)
  | .wclr w => some (encSr 0x4C 0 0 (BitVec.ofNat 6 w.toNat) 0)
  | .trig td sp sa sb => some (encSx 0x50 0 td sp sa sb.toNat)
  | .seal td sp sa sb => some (encSx 0x50 1 td sp sa sb.toNat)
  | .unseal td sp sa => some (encSx 0x50 2 td sp sa 0)
  | .vref td sp sa => some (encSx 0x50 3 td sp sa 0)
  | .strap code => some (encSi 0x58 0 0 code.toNat)
  | .tret => some (encSr 0x59 0 0 0 0)
  | .exit => some (encSr 0x59 1 0 0 0)
  | .brk => some (encSr 0x59 2 0 0 0)
  | .nop => some (encSr 0x59 3 0 0 0)
  | .srd sd num => some (encSr 0x59 4 sd (fld num.toNat 6 6) (fld num.toNat 0 6))
  | .swr sd num => some (encSr 0x59 5 sd (fld num.toNat 6 6) (fld num.toNat 0 6))
  | _ => none

/-- The opcode and fields of a lane instruction, and nothing for any other row (spec/02 R39). -/
def laneParts (i : Instr) : Option (Nat × LaneF) :=
  match i with
  | .vadd f => some (0x000, f)
  | .vsub f => some (0x001, f)
  | .vmul f => some (0x002, f)
  | .vmulh f => some (0x003, f)
  | .vmad f => some (0x004, f)
  | .vmin f => some (0x005, f)
  | .vmax f => some (0x006, f)
  | .vabs f => some (0x007, f)
  | .vneg f => some (0x008, f)
  | .vand f => some (0x009, f)
  | .vor f => some (0x00A, f)
  | .vxor f => some (0x00B, f)
  | .vnot f => some (0x00C, f)
  | .vshl f => some (0x00D, f)
  | .vshr f => some (0x00E, f)
  | .vsra f => some (0x00F, f)
  | .vrot f => some (0x010, f)
  | .vclz f => some (0x011, f)
  | .vpop f => some (0x012, f)
  | .vbfx f => some (0x013, f)
  | .vbfi f => some (0x014, f)
  | .vsel f => some (0x015, f)
  | .vmov f => some (0x016, f)
  | .vcmp f => some (0x017, f)
  | .vfadd f => some (0x040, f)
  | .vfsub f => some (0x041, f)
  | .vfmul f => some (0x042, f)
  | .vfma f => some (0x043, f)
  | .vfms f => some (0x044, f)
  | .vfnma f => some (0x045, f)
  | .vfmin f => some (0x046, f)
  | .vfmax f => some (0x047, f)
  | .vfdiv f => some (0x048, f)
  | .vfsqrt f => some (0x049, f)
  | .vfrcp f => some (0x04A, f)
  | .vfrsq f => some (0x04B, f)
  | .vfabs f => some (0x04C, f)
  | .vfneg f => some (0x04D, f)
  | .vfcmp f => some (0x04E, f)
  | .vfcmpd f => some (0x04F, f)
  | .vtrim f => some (0x050, f)
  | .vfcls f => some (0x051, f)
  | .vfexp2 f => some (0x052, f)
  | .vflog2 f => some (0x053, f)
  | .vcvt f => some (0x080, f)
  | .vcvti f => some (0x081, f)
  | .vpack f => some (0x082, f)
  | .vunpk f => some (0x083, f)
  | .vcbd f => some (0x084, f)
  | .vif f => some (0x0A0, f)
  | .velse f => some (0x0A1, f)
  | .vendif f => some (0x0A2, f)
  | .vloop f => some (0x0A3, f)
  | .vbrk f => some (0x0A4, f)
  | .vcont f => some (0x0A5, f)
  | .vendlp f => some (0x0A6, f)
  | .mand f => some (0x0A7, f)
  | .mor f => some (0x0A8, f)
  | .mxor f => some (0x0A9, f)
  | .mandn f => some (0x0AA, f)
  | .mnot f => some (0x0AB, f)
  | .mmov f => some (0x0AC, f)
  | .mset f => some (0x0AD, f)
  | .vshuf f => some (0x0C0, f)
  | .vbcast f => some (0x0C1, f)
  | .vscan f => some (0x0C2, f)
  | .vred f => some (0x0C3, f)
  | .vballot f => some (0x0C4, f)
  | .vld f => some (0x0E0, f)
  | .vst f => some (0x0E1, f)
  | .vlds f => some (0x0E2, f)
  | .vamo f => some (0x0E3, f)
  | .vrmo f => some (0x0E4, f)
  | .vprf f => some (0x0E5, f)
  | _ => none

/-- The opcode and fields of a matrix instruction, and nothing for any other row (spec/02 R44). -/
def matParts (i : Instr) : Option (Nat × MatF) :=
  match i with
  | .mma f => some (0x00, f)
  | .mmaz f => some (0x01, f)
  | .mdist f => some (0x02, f)
  | .mtopk f => some (0x03, f)
  | .mzero f => some (0x04, f)
  | .matrixMmov f => some (0x05, f)
  | .mepi f => some (0x06, f)
  | .mtab f => some (0x07, f)
  | .mbias f => some (0x08, f)
  | .mscl f => some (0x09, f)
  | .fskip f => some (0x0A, f)
  | .mkset f => some (0x0B, f)
  | .matrixMset f => some (0x0C, f)
  | .madd f => some (0x0D, f)
  | .mbnz f => some (0x0E, f)
  | .mj f => some (0x0F, f)
  | .marr f => some (0x10, f)
  | .mwait f => some (0x11, f)
  | .mtok f => some (0x12, f)
  | .mhalt f => some (0x13, f)
  | .mnop f => some (0x14, f)
  | _ => none

/-- The words of an instruction of one of the three streams; a step of the machine has none. -/
def encode (i : Instr) : Option Code :=
  match encodeScalar i, laneParts i, matParts i with
  | some c, _, _ => some c
  | none, some (opc, f), _ => some (encLane opc f)
  | none, none, some (opc, f) => some (encMat opc f)
  | none, none, none => none

/-- Read back what `encode` writes. -/
def decodeCode (c : Code) : Except Reason Instr :=
  match c with
  | .scalar w => decodeScalar w 0
  | .pair w next => decodeScalar w next
  | .lane w => decodeLane w
  | .matrix w => decodeMatrix w

end Sys2Proof
end

