-- ==== Sys2Proof/Machine/State.lean ====
section
/-! DEFINITION. The whole state of the device as plain data, the reasons a step can stop, and the state after
reset (spec/01 R13, spec/06, spec/07, spec/08, spec/11, spec/12, spec/14, spec/16, spec/18, spec/20, spec/22,
spec/24). Tables are finite maps by number: a team's key is its gang's key times 512 plus its number, a gang's key
is its context's key times 2^20 plus its gang index, a context's key is its partition times 256 plus its number, a
member core's key is its gang's key times 4 plus its number. -/

namespace Sys2Proof.Machine

/-- Why the machine as a whole stops. Every failure that the spec gives a program is a next state: a fatal fault
halts its context and leaves the others as they were (spec/16 R280, R288), and a device whose clocks have stopped
stays as it is (spec/18 R322). So no reason is left. Safe. -/
inductive Fault where
deriving DecidableEq, Repr

/-- Why a step has no meaning. -/
inductive Refusal where
  /-- Raised by an arm of `exec` whose instruction has no meaning yet. Safe. -/
  | notModelled (mnemonic : String)
deriving DecidableEq, Repr

/-- The four states of a token (spec/11 R205). -/
inductive TokSt where
  | free | pending | done | poisoned
deriving DecidableEq, Repr

/-- A token with its origin record (spec/11 R206). -/
structure Tok where
  /-- [1:0] -/
  st : TokSt
  /-- [2]: pending under a claim of the sequencer. -/
  claimed : Bool
  /-- [15:8] -/
  cause : BitVec 8
  /-- [127:64] -/
  origin : W64
deriving DecidableEq, Repr

/-- The value of a token register in a blank (spec/01 R13). -/
def Tok.blank : Tok := { st := .free, claimed := false, cause := 0, origin := 0 }

/-- The four states of a digit link (spec/01 R19). -/
inductive LinkSt where
  | idle | streaming | complete | trimmed
deriving DecidableEq, Repr

/-- One lane of a digit link, with the fields of its saved form (spec/20 R337) and the value its stream will
complete to. -/
structure Link where
  st : LinkSt
  /-- The header has arrived. -/
  hdr : Bool
  /-- Trimmed, and its producer still owes digits to earlier readers. -/
  pend : Bool
  /-- Digits delivered so far, first first. -/
  digits : List (BitVec 3)
  /-- The completed value `r` of the stream (spec/20 R328); known to the model from the start, to a reader only
  through the digits. -/
  value : W32
  /-- The producer's rounding code, 1 to 4; 0 for none. -/
  rm : BitVec 3
  /-- The producer's opcode; 0 for none. -/
  opc : BitVec 10
  /-- The values of the producer's sources. -/
  srcA : W32
  srcB : W32
  srcC : W32
  /-- How each source was taken: 0 none, 1 by value, 8 to 15 a link of the lane. -/
  tagA : BitVec 4
  tagB : BitVec 4
  tagC : BitVec 4
  /-- V registers of the lane whose streams the producer takes digit by digit (spec/20 R331). -/
  vsrc : List Nat
  /-- The dispatch of the producer. -/
  disp : Nat
  /-- An in-flight V result that was saved: its register is interlocked until it is written (spec/20 R338). -/
  lock : Bool
deriving DecidableEq, Repr

/-- A link that was never written (spec/01 R13, R19). -/
def Link.blank : Link :=
  { st := .idle, hdr := false, pend := false, digits := [], value := 0, rm := 0, opc := 0,
    srcA := 0, srcB := 0, srcC := 0, tagA := 0, tagB := 0, tagC := 0, vsrc := [], disp := 0, lock := false }

/-- A VFCMPD that has issued and has not decided in every active lane (spec/04 R90, spec/20 R334, R338). -/
structure CmpdE where
  f : LaneF
  /-- The dispatch of its block. -/
  disp : Nat
  /-- Its active lanes, those that have not decided, and those that have decided true. -/
  act : Mask
  left : Mask
  hit : Mask
  /-- What SB gives the undecided lanes where it is one value, and the lanes in which it follows the stream of a V register. -/
  vals : Sparse W32
  vb : Mask
deriving DecidableEq, Repr

/-- The three states of a watch entry (spec/22 R344). -/
inductive WatchSt where
  | unresolved | confirmed | struck
deriving DecidableEq, Repr

/-- A watch entry (spec/22 R344, R352). -/
structure WatchE where
  id : Nat
  st : WatchSt
  set : BitVec 2
  isSealed : Bool
  /-- The core's cycle at which the entry was made; the age of a sealed entry runs from it (spec/22 R347). -/
  born : Nat
  /-- The number of the physical line. -/
  line : Nat
  version : BitVec 16
  epoch : BitVec 16
  mask : Mask
  /-- The virtual page a sealed entry depends on. -/
  page : Nat
  /-- The page was invalidated while the entry was unresolved (spec/22 R347). -/
  struckSeal : Bool
  /-- The home's result on its way to the core: confirmed or struck (spec/22 R345). -/
  answer : Option Bool
  /-- The retired-work count when its VLDS issued, and the dispatch number of its block. -/
  rwc : W64
  disp : Nat
  /-- The line's home slice. -/
  home : Nat
  /-- The number of its VLDS. -/
  op : Nat
deriving DecidableEq, Repr

/-- The kinds of a reconvergence-stack entry (spec/04 R95). -/
inductive StackKind where
  | ifk | elsek | loop
deriving DecidableEq, Repr

/-- An entry of the reconvergence stack (spec/01 R18, spec/04 R95). -/
structure StackE where
  kind : StackKind
  mask : Mask
  fmt : W32
  /-- LOOP: the lane index after the VLOOP. -/
  start : Nat
  /-- LOOP: the dispatch that pushed it. -/
  block : Nat
  /-- LOOP: the lanes that have continued. -/
  cont : Mask
  /-- The number of the first operation issued in the region (spec/15 R263, reconvergence). -/
  mark : Nat
deriving DecidableEq, Repr

/-- A dispatched lane block (spec/01 R12). -/
structure Block where
  /-- The number of the dispatch: each LRUN or LRUNR is a distinct block. -/
  disp : Nat
  /-- The index of the next lane instruction. -/
  idx : Nat
  /-- The block's token. -/
  tok : Nat
  /-- The precondition set. -/
  set : W32
  /-- The tokens of the precondition set that have not yet been DONE or POISONED since the dispatch. -/
  waiting : W32
  /-- The lowest POISONED token of the set so far, with the origin it carried. -/
  pois : Option (Nat × W64)
  /-- The scalar registers as they stood at the dispatch. -/
  snap : Sparse W64
  /-- Newer values that a read of the block may give as well, for registers that a lane block or an SLDG writes before the
  scalar stream has observed its token (spec/04 R79, spec/03 R62). -/
  later : Sparse W64
  /-- Scalar registers that an unobserved SLDG loaded at the dispatch (spec/03 R62). -/
  unsure : List Nat
  /-- Accesses an earlier fence holds the block behind (spec/12 R224). -/
  after : List Nat
  /-- The register budget at the dispatch (spec/03 R68). -/
  budget : Nat
deriving DecidableEq, Repr

/-- What stands in a team's lane-block queue (spec/03 R69). -/
inductive QItem where
  /-- A dispatched block. -/
  | block (b : Block)
  /-- A change of FMT between two blocks. -/
  | fmt (v : W32)
deriving DecidableEq, Repr

/-- The object of a wait-for entry (spec/07 R152, spec/16 R287). -/
inductive WaitObj where
  | tokens (set : W32)
  | barrier (n : BitVec 4)
  | line (addr : Nat)
  | fifoEmpty (f : Nat)
  | fifoFull (f : Nat)
  | pool (blocks : Nat)
  | queue
  | phaseBar (word : W64)
  | watch
  | fabric
  | host
  | copyQueue (q : Nat)
  /-- An access that an earlier fence holds (spec/12 R224): its signallers are open. -/
  | fence
  /-- A release waits for writes it has read to be acknowledged (spec/15 R273): its signallers are open. -/
  | settle
  /-- A parked translation fault (spec/03 R59): its signallers are open. -/
  | fault
deriving DecidableEq, Repr

/-- A team's wait-for entry (spec/03 R75, spec/07 R152). -/
structure Wait where
  obj : WaitObj
  /-- The cycle in which the wait instruction issued (spec/03 R65). -/
  since : Nat
  /-- The time limit in cycles, where the wait has one. -/
  limit : Option Nat
  /-- The instruction has already made its arrival (BAR.SYNC), request (VGROW) or checks. -/
  phase : Nat
  /-- What the wait's event brought: the release, the grant or the refusal. -/
  result : Option W64
deriving DecidableEq, Repr

/-- A lane register write whose STALL promise still runs (spec/04 R77, spec/20 R332). -/
structure PendW where
  /-- The operand code of the register: V 0 to 255, M 272 to 287. -/
  reg : Nat
  /-- Cycles of STALL still owed to a full reader. -/
  left : Nat
  /-- Cycles of STALL still owed to a chained reader; equal to `left` where no chain offset applies. -/
  chain : Nat
  /-- What each lane that it wrote held before; a mask bit as all ones or 0. -/
  old : Sparse W32
deriving DecidableEq, Repr

/-- A load whose destination is not yet covered by its token (spec/03 R62, spec/04 R105). -/
structure LoadE where
  op : Nat
  tok : Nat
  /-- The destination is a scalar register (SLDG). -/
  scal : Bool
  reg : Nat
  n : Nat
  /-- The load has written its destination. -/
  done : Bool
  /-- The lanes it loads. -/
  lanes : Mask
  /-- Another instruction has written the scalar destination meanwhile. -/
  clob : Bool
  /-- Register times 1024 plus lane of what other instructions have written meanwhile. -/
  isOver : List Nat
  /-- Blocks from this dispatch number on may read it. -/
  cover : Option Nat
  /-- What the destination held when the load wrote it, by register times 1024 plus lane, and for SLDG. -/
  old : Sparse W32
  oldS : W64
deriving DecidableEq, Repr

/-- A fence whose later accesses may still be held (spec/12 R224). -/
structure FenceE where
  /-- In-flight operations it covers. -/
  cover : List Nat
  /-- `.cst`: the constant-path copies are to be discarded (spec/12 R225). -/
  cst : Bool
deriving DecidableEq, Repr

/-- A register that a lane block has written and whose write the scalar stream need not see yet (spec/01 R12). -/
structure Dirty where
  /-- The dispatch number of the block. -/
  disp : Nat
  /-- A mask register, or else a scalar register. -/
  isMask : Bool
  reg : Nat
  /-- What the register held before the block's first write to it. -/
  old : W64
  oldM : Mask
deriving DecidableEq, Repr

/-- A team (spec/01 R13, spec/06 R115, spec/07 R141). -/
structure Team where
  /-- S0 to S63; a register not listed holds 0. -/
  s : Sparse W64
  /-- V registers by register times 1024 plus lane; a register not listed holds 0. -/
  v : Sparse W32
  /-- Links by link times 1024 plus lane; a link not listed is IDLE. -/
  links : Sparse Link
  /-- FP32 results on their way to V registers, by register times 1024 plus lane; one not listed has arrived (spec/20 R331). -/
  vs : Sparse Link
  /-- VFCMPDs with undecided lanes, oldest first. -/
  cmpd : List CmpdE
  /-- M0 to M15. -/
  m : Sparse Mask
  tok : Sparse Tok
  watch : List WatchE
  fmt : W32
  stack : List StackE
  /-- Stack depth (`.team stack=`). -/
  depth : Nat
  pc : W64
  lcb : W64
  /-- The end of the lane code section: lane indexes are below it (spec/01 R10). -/
  lanes : Nat
  hstat : W64
  epc : W64
  tword : W64
  twordh : W64
  rwc : W64
  copy : Bool
  wcode : BitVec 3
  /-- The member core and quarter. -/
  core : Nat
  quarter : Nat
  budget : Nat
  launchBudget : Nat
  exited : Bool
  queue : List QItem
  running : Option Block
  /-- Blocks whose last instruction has issued and whose token is not yet DONE. -/
  ended : List Block
  /-- The number of the next dispatch. -/
  disp : Nat
  /-- The dispatch whose token each token last completed. -/
  tokDisp : Sparse Nat
  wait : Option Wait
  /-- The wait-for entry of a lane release (spec/22 R350). -/
  lwait : Option Wait
  pend : List PendW
  loads : List LoadE
  dirty : List Dirty
  /-- Home writes, not yet acknowledged, whose values the team has read (spec/15 R273). -/
  unsettled : List Nat
  /-- Accesses of a region that has reconverged: later lane accesses follow them (spec/15 R263). -/
  recon : List Nat
  fences : List FenceE
  /-- A DEADLINE trap to be taken at the next issue slot (spec/16 R282, R284). -/
  deadlineDue : Bool
  /-- The halt line has reached the team (spec/16 R289). -/
  stopped : Bool
  /-- The halt line is known to have reached the team; it may still issue up to 6 instructions. -/
  reached : Bool
  /-- Instructions issued since the halt line reached it. -/
  skid : Nat
  /-- The lane stream has stopped. -/
  laneStopped : Bool
  /-- CYCLE when the scalar and the lane stream stopped (spec/16 R290). -/
  stopAt : W64
  laneStopAt : W64
  /-- Passes that the lane stream issued after the halt line reached it (spec/16 R289). -/
  laneSkid : Nat
deriving DecidableEq, Repr

/-- A team before any image gives it content. -/
def Team.blank : Team :=
  { s := [], v := [], links := [], vs := [], cmpd := [], m := [], tok := [], watch := [], fmt := 0, stack := [], depth := 32, pc := 0,
    lcb := 0, lanes := 0, hstat := 0, epc := 0, tword := 0, twordh := 0, rwc := 0, copy := false, wcode := 0,
    core := 0, quarter := 0, budget := 1, launchBudget := 1, exited := false, queue := [], running := none,
    ended := [], disp := 0, tokDisp := [], wait := none, lwait := none, pend := [], loads := [], dirty := [], unsettled := [], recon := [], fences := [],
    deadlineDue := false, stopped := false, reached := false, skid := 0, laneStopped := false,
    stopAt := 0, laneStopAt := 0, laneSkid := 0 }

/-- A gang barrier (spec/06 R129 to R131, spec/07 R142). -/
structure Bar where
  bound : Option (BitVec 3)
  phase : W32
  arrivals : BitVec 257
  /-- The open phase's poison flag. -/
  pois : Bool
  /-- Completed phases whose flag was set. -/
  poisoned : List W32
  /-- The phase of each member's last arrival, and whether a wait has consumed it. -/
  last : Sparse (W32 × Bool)
  /-- A BIND that waits for the open phase to complete. -/
  rebind : Option (BitVec 3)
deriving DecidableEq, Repr

/-- A barrier in a blank (spec/06 R130). -/
def Bar.blank : Bar :=
  { bound := none, phase := 0, arrivals := 0, pois := false, poisoned := [], last := [], rebind := none }

/-- The kinds of event on their way to the barrier unit (spec/06 R129, R131). -/
inductive BEvKind where
  | arrive (b : BitVec 4) (pois : Bool)
  | join (g : BitVec 3)
  | leave (g : BitVec 3)
  /-- EXIT or MHALT: leaves every group. -/
  | leaveAll
deriving DecidableEq, Repr

/-- An event on its way to the barrier unit, with the accesses its release orders before it. -/
structure BEv where
  mem : Nat
  kind : BEvKind
  after : List Nat
deriving DecidableEq, Repr

/-- A matrix instruction that has been issued and is not complete on every member core (spec/08 R169). -/
structure MInstr where
  seq : Nat
  pc : W64
  word : W64
  ba : Option (BitVec 4)
  /-- Members on which it is not complete. -/
  left : List Nat
  /-- The outbound epilogue operations it waits for. -/
  ops : List Nat
deriving DecidableEq, Repr

/-- Where a gang is (spec/07 R148, R149, spec/16 R295). -/
inductive GangSt where
  | unplaced | resident | spilling | spilled | stopped | retired
deriving DecidableEq, Repr

/-- A gang with its sequencer (spec/01 R20, R23, spec/06 R119 to R131, spec/07 R140, R142). -/
structure Gang where
  part : Nat
  ctx : Nat
  idx : Nat
  st : GangSt
  /-- Device-wide core numbers of the members. -/
  cores : List Nat
  nteams : Nat
  lanesU : Nat
  scratch : Nat
  acc : Nat
  haddr : W64
  ttryi : Nat
  constb : W64
  consts : Nat
  check : Bool
  record : Bool
  bars : Sparse Bar
  groups : Sparse (BitVec 257)
  bevents : List BEv
  /-- The gang has a sequencer. -/
  hasSeq : Bool
  /-- The matrix code section, as the bytes from the first address to below the second (spec/08 R169). -/
  secLo : Nat
  secHi : Nat
  /-- The sequencer has executed MHALT. -/
  halted : Bool
  spc : W64
  n : Sparse W32
  /-- K registers; one that is not listed holds all ones. -/
  k : Sparse (BitVec 48)
  /-- The top-k set by row: value and index, best first. -/
  topk : Sparse (List (W32 × W32))
  topkLargest : Bool
  topkPois : Bool
  topkOrigin : W64
  underflow : Bool
  spois : Bool
  sorigin : W64
  /-- Matrix instructions issued and not complete, oldest first. -/
  minstrs : List MInstr
  /-- The number of the next matrix instruction. -/
  mseq : Nat
  swait : Option Wait
  sstopped : Bool
  /-- CYCLE when the sequencer stopped (spec/16 R290). -/
  sstopAt : W64
  interval : W32
  /-- Scalar instructions retired since the last checkpoint (spec/24 R366). -/
  ckCount : Nat
  suspended : Bool
  /-- When the gang was placed, or went unplaced (spec/07 R149). -/
  since : Nat
  /-- The order of placement among all gangs. -/
  order : Nat
  /-- Replies its image still awaits (spec/16 R298). -/
  awaits : Nat
  /-- Where its image stands, once spilled or as launched. -/
  image : Nat
  /-- How many stores memory had taken when the gang's image was last restored (spec/01 R11). -/
  codeFrom : Nat
deriving DecidableEq, Repr

/-- A gang before any image gives it content. -/
def Gang.blank : Gang :=
  { part := 0, ctx := 0, idx := 0, st := .unplaced, cores := [], nteams := 0, lanesU := 0, scratch := 0, acc := 0,
    haddr := 0, ttryi := 2048, constb := 0, consts := 0, check := false, record := false, bars := [], groups := [],
    bevents := [], hasSeq := false, secLo := 0, secHi := 0, halted := false, spc := 0, n := [], k := [], topk := [], topkLargest := false,
    topkPois := false, topkOrigin := 0, underflow := false, spois := false, sorigin := 0, minstrs := [], mseq := 0,
    swait := none, sstopped := false, sstopAt := 0, interval := 0, ckCount := 0, suspended := false, since := 0, order := 0,
    awaits := 0, image := 0, codeFrom := 0 }

/-- One entry of an operand FIFO: its 256 elements as codes of the FIFO's format (spec/01 R22, spec/11 R209). -/
structure FEntry where
  elems : List Nat
  /-- Elements landed so far. -/
  got : Nat
  landed : Bool
  pois : Bool
  origin : W64
deriving DecidableEq, Repr

/-- An operand FIFO of a member core (spec/01 R22, spec/08 R162, R166, spec/11 R209). -/
structure Fifo where
  declared : Bool
  fmt : BitVec 3
  depth : Nat
  reserved : W32
  popped : W32
  entries : Sparse FEntry
  code : List (BitVec 16)
  /-- A CBLD in progress: its switch position, new codebook and operation. -/
  cbld : Option (W32 × List (BitVec 16) × Nat)
deriving DecidableEq, Repr

/-- A FIFO that no `.fifo` declares. -/
def Fifo.blank : Fifo :=
  { declared := false, fmt := 0, depth := 0, reserved := 0, popped := 0, entries := [],
    code := List.replicate 16 0, cbld := none }

/-- An accumulator tile of 256 elements, row-major (spec/01 R13, spec/08 R172). -/
structure Tile where
  elems : List W32
  int : Bool
  pois : Bool
  origin : W64
deriving DecidableEq, Repr

/-- The content of a tile that nothing gives a value (DESIGN CHOICE, log entry 2). -/
def Tile.blank : Tile := { elems := List.replicate 256 0, int := false, pois := false, origin := 0 }

/-- An epilogue parameter set (spec/08 R175). -/
structure ParSet where
  words : List W32
  pois : Bool
  origin : W64
deriving DecidableEq, Repr

/-- A parameter set that nothing has loaded (DESIGN CHOICE, log entry 2). -/
def ParSet.blank : ParSet := { words := [], pois := false, origin := 0 }

/-- A matrix instruction in the engine of a member core, with the K and N values it took at issue (spec/08
R184). -/
structure MIns where
  seq : Nat
  opc : Nat
  f : MatF
  kv : BitVec 48
  nv : W32
  nv2 : W32
deriving DecidableEq, Repr

/-- What a gang holds on one of its member cores (spec/06 R122 to R127, spec/08). -/
structure Member where
  /-- Scratchpad bytes; one not listed holds 0 (DESIGN CHOICE, log entry 1). -/
  pad : Sparse Byte
  /-- Line states 0 EMPTY, 1 FULL, 2 POISONED; a line not listed is FULL. -/
  line : Sparse (BitVec 2)
  /-- Who wrote each line last: 1 to 4 quarters, 5 copy engine, 6 to 9 other cores, 10 matrix engine (spec/24 R367). -/
  tag : Sparse Nat
  fifos : Sparse Fifo
  tiles : Sparse Tile
  tab : ParSet
  bias : ParSet
  scl : ParSet
  /-- Copy queues 0 to 3: commands in issue order. -/
  queues : Sparse (List Nat)
  /-- Cached copy parameter blocks, most recently used first: SPACE times 2^54 plus ADDR, and the block. -/
  bcache : List (Nat × List W64)
  mq : List MIns
  /-- A scratchpad watchpoint holds the engine's first instruction (spec/23 R357), or it goes past one (R361). -/
  mheld : Option Nat
  mskip : Option Nat
  /-- Scratchpad watchpoints. -/
  spw : Sparse W64
  /-- Counters: event and value. -/
  ctr : Sparse (Nat × W64)
  /-- Teams with a blocking VGROW, in issue order. -/
  vq : List Nat
  /-- The halt line has stopped its engines. -/
  stopped : Bool
  /-- CYCLE when it did (spec/16 R290), and the cycles that the matrix engine went on after the line had reached it (R289). -/
  stopAt : W64
  skid : Nat
deriving DecidableEq, Repr

/-- A member core in a blank without contents. -/
def Member.blank : Member :=
  { pad := [], line := [], tag := [], fifos := [], tiles := [], tab := .blank, bias := .blank, scl := .blank,
    queues := [], bcache := [], mq := [], mheld := none, mskip := none, spw := [], ctr := [], vq := [], stopped := false, stopAt := 0, skid := 0 }

/-- The states of a near-cache line (spec/14 R244). -/
inductive NearSt where
  | valid | lapsed | sealedc
deriving DecidableEq, Repr

/-- A line of a near cache (spec/14 R244). A line not listed is INVALID. -/
structure NLine where
  st : NearSt
  version : BitVec 16
  epoch : BitVec 16
  bytes : List Byte
  /-- The poison markers of its two granules. -/
  marks : List Bool
  /-- The order of last use. -/
  used : Nat
  /-- The line's home slice. -/
  slice : Nat
  /-- Home writes numbered below this are in the copy already. -/
  filled : Nat
deriving DecidableEq, Repr

/-- A translation held by a TLB: the leaf's two doublewords and its page size in bits (spec/14 R257). -/
structure Tlb where
  part : Nat
  vpage : Nat
  bits : Nat
  dw0 : W64
  dw1 : W64
deriving DecidableEq, Repr

/-- What a physical core holds for itself (spec/14 R244, R246, R257, spec/16 R295, spec/24 R377). -/
structure CoreHw where
  /-- Near-cache lines by physical line number. -/
  near : Sparse NLine
  /-- Constant-cache lines by virtual line number: bytes and markers. -/
  cc : Sparse (List Byte × List Bool)
  tlb : List Tlb
  /-- What CYCLE stands at above the die's cycle count. -/
  base : W64
  issuing : Option Nat
  shadow : Option Nat
  /-- Sampled requests counted (spec/24 R377). -/
  sample : Nat
  /-- The cycle in which a VLDS last sought watch entries, and the rank of the last that did: its quarter times 512 plus its
  team (spec/22 R349). -/
  sought : Option (Nat × Nat)
deriving DecidableEq, Repr

/-- A core at power-on. -/
def CoreHw.blank : CoreHw :=
  { near := [], cc := [], tlb := [], base := 0, issuing := none, shadow := none, sample := 0, sought := none }

/-- A directory entry (spec/14 R247). -/
structure Dir where
  version : BitVec 16
  wrap : Bool
  epoch : BitVec 16
  /-- MODE 1: sharers are quads. -/
  quads : Bool
  sharers : List Nat
  /-- An eviction under way: the cores that have not acknowledged their lapse notice. -/
  evict : Option (List Nat)
deriving DecidableEq, Repr

/-- A home slice (spec/14 R247, spec/24 R374). -/
structure Slice where
  dir : Sparse Dir
  epoch : BitVec 16
  /-- L2 watchpoints. -/
  l2w : Sparse (W64 × W64)
deriving DecidableEq, Repr

/-- A slice at power-on (DESIGN CHOICE, log entry 2). -/
def Slice.blank : Slice := { dir := [], epoch := 0, l2w := [] }

/-- What an asynchronous operation is (spec/03 R62, spec/04 R101, spec/08, spec/12). -/
inductive OpKind where
  | sldg (word : Bool) | sstg (word : Bool)
  | vld | vst | vlds | vamo | vrmo | vprf
  | copy | cbld (f : Nat) | cpbi
  | xred | xgat | xa2a
  | pinit | pexp | parr | texp (td : Nat)
  | trig | seal | unseal | vref
  /-- An outbound epilogue of a member core. -/
  | mepi
  /-- A credit of a command or epilogue on its way to a phase barrier. -/
  | credit
deriving DecidableEq, Repr

/-- Where a memory request of an operation stands. -/
inductive ReqSt where
  /-- Not yet translated, or ready in its space. -/
  | ready
  /-- Handed to the Memory core as a translation fault with this tag (spec/14 R258). -/
  | parked (tag : Nat)
  /-- Waits for an EMPTY line (spec/04 R106). -/
  | line
  /-- Performed at its home, with the home write whose acknowledgements are awaited. -/
  | home (wr : Nat)
  /-- Handed to a fabric port and not acknowledged (spec/16 R291). -/
  | port
  /-- Performed, its line state and credit not yet applied (spec/08 R163). -/
  | performed
  /-- Held by a scratchpad watchpoint (spec/23 R357). -/
  | held (wp : Nat)
  /-- Merged into another request (spec/14 R251): operation and request. -/
  | merged (op req : Nat)
  /-- Done. -/
  | done
deriving DecidableEq, Repr

/-- A memory request: a lane of a lane memory instruction, or a segment of a command (spec/04 R101, spec/08
R154). -/
structure Req where
  /-- The lane, or the position of the segment's first element. -/
  id : Nat
  /-- The address in its space. -/
  addr : Nat
  /-- The number of bytes. -/
  n : Nat
  /-- The bytes to store, or the operand of an atomic. -/
  data : List Byte
  /-- The comparand of a compare-and-swap; of a segment, 1 for each byte that carries poison. -/
  cmp : List Byte
  /-- The bytes carry poison. -/
  pois : Bool
  /-- 1 plus the watchpoint that the request goes past; of a VLDS lane, 1 plus its watch entry's line. -/
  count : Nat
  /-- How far a segment has come: 0 nothing read, 1 its source read, 2 its destination read too, 3 written. -/
  stage : Nat
  /-- The destination of a segment, in its space. -/
  dst : Nat
  st : ReqSt
  /-- Reads poison, or could not be translated: what it adds to the token. -/
  cause : BitVec 8
deriving DecidableEq, Repr

/-- An asynchronous operation in flight (spec/03 R61, spec/08 R154 to R168, spec/11 R211 to R213). -/
structure Op where
  kind : OpKind
  gang : Nat
  team : Nat
  member : Nat
  tok : Nat
  queue : Nat
  /-- The instruction and its address, for fault records. -/
  pc : W64
  word : W64
  wordh : W32
  lidx : Nat
  /-- Precondition tokens that have not been DONE or POISONED since issue. -/
  waiting : W32
  pois : Option (Nat × W64)
  /-- In-flight accesses that an earlier fence or release orders before it. -/
  after : List Nat
  /-- S[SA], S[SB] and the destination register. -/
  a : W64
  b : W64
  reg : Nat
  /-- Lane memory: width in bytes, operation code, modifier byte and XM. -/
  width : Nat
  aop : Nat
  md : BitVec 8
  xm : BitVec 8
  /-- The order dispatch numbers give lane memory instructions. -/
  disp : Nat
  /-- The token of its block has been observed (spec/12 R224). -/
  cov : Bool
  started : Bool
  /-- The snapshot of the command: eight doublewords. -/
  snap : List W64
  /-- The next element position. -/
  pos : Nat
  attempt : Nat
  /-- The attempt under way has failed. -/
  failed : Bool
  cause : BitVec 8
  origin : W64
  /-- Elements whose segment has been applied in some attempt: a prefix and single positions. -/
  applied : List Nat
  /-- Elements committed by a reduction. -/
  commit : List Nat
  credited : Nat
  /-- Reserved FIFO positions, or the multicast group's members. -/
  list : List Nat
  /-- Members that have answered (spec/12 R231). -/
  pos2 : Nat
  neg : List (Nat × Nat)
  reqs : List Req
  /-- The retired-work count when it issued. -/
  rwc : W64
  /-- The operation waits for its completion event only. -/
  finished : Bool
  /-- Segments that were drained after the halt line had reached its engine (spec/16 R289). -/
  skid : Nat
deriving DecidableEq, Repr

/-- An operation with nothing in it yet. -/
def Op.blank : Op :=
  { kind := .cpbi, gang := 0, team := 0, member := 0, tok := 0, queue := 0, pc := 0, word := 0, wordh := 0, lidx := 0,
    waiting := 0, pois := none, after := [], a := 0, b := 0, reg := 0, width := 0, aop := 0, md := 0, xm := 0,
    disp := 0, cov := false, started := false, snap := [], pos := 0, attempt := 1, failed := false, cause := 0,
    origin := 0, applied := [], commit := [], credited := 0, list := [], pos2 := 0, neg := [], reqs := [], rwc := 0,
    finished := false, skid := 0 }

/-- An incoming segment of a peer that is to be answered (spec/12 R229, R230, spec/18 R316): the device and what names the
segment there, the window and offset, and the trigger slot and multicast it belongs to. -/
structure PeerW where
  dev : Nat
  tag : Nat
  req : Nat
  win : Nat
  off : Nat
  slot : Option Nat
  mcast : Bool
deriving DecidableEq, Repr

/-- A write performed at its home whose sharers have not all acknowledged (spec/14 R248). -/
structure HomeW where
  line : Nat
  /-- Offset in the line, bytes, and whether a granule is marked or cleared. -/
  off : Nat
  data : List Byte
  marks : List Bool
  version : BitVec 16
  /-- Cores whose update is on its way. -/
  await : List Nat
  /-- The operation and request that wait; none for a host or peer write. -/
  op : Option (Nat × Nat)
  /-- The segment of a peer that it performs. -/
  peer : Option PeerW := none
deriving DecidableEq, Repr

/-- A translation fault with the Memory core (spec/14 R258, spec/18 R311). -/
structure TFault where
  tag : Nat
  part : Nat
  ctx : Nat
  gang : Nat
  va : Nat
  /-- 0 load, 1 store, 2 atomic, 3 fetch, 4 copy read, 5 copy write. -/
  access : Nat
  /-- The operation and request that park; none for a scalar stream or sequencer. -/
  op : Option (Nat × Nat)
  /-- The stream that parks. -/
  agent : Option Agent
  /-- When it was handed over, in ns. -/
  since : Nat
  /-- Resolved: the access translates again. Refused or timed out: unresolvable, with its DETAIL code. -/
  answer : Option Nat
deriving DecidableEq, Repr

/-- A phase barrier's waiters are teams; its held arrivals are counted here by the physical place of the barrier
(spec/12 R219): arrivals held, and how many of them are poisoned, oldest first. -/
structure PBar where
  held : List Bool
deriving DecidableEq, Repr

/-- A message handed to the fabric (spec/18 R314). -/
structure Msg where
  code : Nat
  dev : Nat
  win : Nat
  off : Nat
  data : List Byte
  marks : List Bool
  slot : Option Nat
  /-- The operation and request it belongs to, and a code, count or cause; for code 0 and 3: 0 a write, 1 a read, 2 a
  write that only marks, 3 a read that names a sealed version in `slot`. -/
  tag : Nat
  arg : Nat
  req : Nat := 0
  /-- Bytes of the segment. -/
  len : Nat := 0
  /-- The last segment of its command. -/
  last : Bool := false
  /-- Members that a multicast segment is for, and the group. -/
  members : List Nat := []
  group : Nat := 0
deriving DecidableEq, Repr

/-- Bytes of a peer's sealed range that a copy has read, with the version of the translation under which it did (spec/12 R234). -/
structure SealedCopy where
  part : Nat
  dev : Nat
  win : Nat
  off : Nat
  version : Nat
  data : List Byte
deriving DecidableEq, Repr

/-- A command of another device that names a trigger slot, or a multicast, as far as it has come here (spec/12 R230,
R233). -/
structure Inc where
  dev : Nat
  win : Nat
  tag : Nat
  slot : Option Nat
  mcast : Bool
  /-- Segments that are being performed. -/
  open_ : List Nat
  /-- Its last segment has come. -/
  last : Bool
  /-- The cause and the offset of the first refused segment; 0 where none was. -/
  cause : Nat
  off : Nat
  /-- The answer that waits for the slot, once every segment has been performed or refused. -/
  held : Option Msg
deriving DecidableEq, Repr

/-- The states of a trigger slot (spec/12 R233). -/
inductive SlotSt where
  | idle | armed | latched
deriving DecidableEq, Repr

/-- A trigger slot (spec/12 R233). -/
structure Slot where
  st : SlotSt
  /-- The armed operation, with queue, team, token and block address in it. -/
  op : Nat
  /-- LATCHED: a segment of the incoming command was refused. -/
  refused : Bool
deriving DecidableEq, Repr

/-- A slot at power-on. -/
def Slot.blank : Slot := { st := .idle, op := 0, refused := false }

/-- A wait word with its target (spec/07 R137, R146). -/
structure EvWait where
  name : Nat
  target : W32
  /-- The order in which it was entered. -/
  order : Nat
deriving DecidableEq, Repr

/-- Where a launch stands. -/
inductive CtxSt where
  | waiting | eligible | halting | stopped | ended
deriving DecidableEq, Repr

/-- A context: one accepted launch (spec/07 R137, R138, R146, R150, R151, spec/16 R288, R293). -/
structure Ctx where
  part : Nat
  num : Nat
  st : CtxSt
  tag : W64
  prio : Nat
  gangs : Nat
  placed : Nat
  retired : Nat
  image : Nat
  /-- The image's header as read at verification: 32 doublewords. -/
  header : List W64
  signalOnly : Bool
  /-- GET has not yet passed the batch of its record (spec/07 R138). -/
  batch : Bool
  waits : List EvWait
  sigs : List (Option Nat)
  miss : Option Nat
  deadline : Nat
  /-- The device time at which it became eligible, in ns. -/
  since : Nat
  missed : Bool
  order : Nat
  coresAll : Bool
  /-- The halt line: raised, and why: a fatal fault or a debug stop. -/
  halt : Bool
  fatal : Bool
  haltTime : Nat
  /-- ERRSEQ of its fatal faults, and the number beyond 16. -/
  faults : List W32
  extra : Nat
  /-- A replay has been made while it is stopped (spec/24 R370). -/
  replayed : Bool
  /-- The final completion record has been produced but is held. -/
  held : Bool
  /-- It has become eligible. -/
  elig : Bool := false
deriving DecidableEq, Repr

/-- A partition's configuration (spec/18 R310). -/
structure PartCfg where
  quadsB : BitVec 128
  hbmBase : Nat
  hbmSize : Nat
  stBase : Nat
  stSize : Nat
  ptRoot : Nat
  subq : Nat
  compq : Nat
  faultq : Nat
  prq : Nat
  prs : Nat
  dumpB : Nat
  dumpS : Nat
  ev0 : Nat
  ev1 : Nat
  slot0 : Nat
  slot1 : Nat
  grp0 : Nat
  grp1 : Nat
  preempt : Nat
  walk : Nat
  ftimeout : Nat
  journB : Nat
  journS : Nat
deriving DecidableEq, Repr

/-- A step of a team (spec/23 R360). -/
structure StepRun where
  team : Nat
  /-- The team's retired-work count when the step began. -/
  from_ : W64
  /-- A watchpoint, a breakpoint or a fatal fault has ended it. -/
  hit : Bool
deriving DecidableEq, Repr

/-- A debug session (spec/24 R376). -/
structure Session where
  /-- The key of its context. -/
  ctx : Nat
  /-- A step under way. -/
  step : Option StepRun
  /-- The gang of a replay under way (spec/24 R369). -/
  replay : Option Nat
  /-- The dump area as the original stop wrote it, from the first replay on (spec/24 R370). -/
  dump : List Byte
  /-- A DETACH is under way. -/
  leave : Bool := false
deriving DecidableEq, Repr

/-- A partition (spec/07 R151, spec/16 R285, spec/18 R306, R310 to R312). -/
structure Part where
  cfg : PartCfg
  /-- The bytes of its configuration block, measured for attestation (spec/18 R318). -/
  block : List Byte
  /-- 1 running, 2 being destroyed, 3 being reset. -/
  state : Nat
  errseq : W32
  lost : Nat
  heldF : List (List W64)
  heldC : List (List W64)
  prTag : Nat
  session : Option Session
  /-- The next record that the Parser verifies, and the ends of the batches that PUT stores have made visible. -/
  taken : W32
  puts : List W32
deriving DecidableEq, Repr

/-- A journalled value, tagged with the agent and count at which it was received (spec/24 R367). -/
structure JEntry where
  agent : Agent
  count : W64
  val : List W64
deriving DecidableEq, Repr

/-- What a gang did, in the order in which it did it; kept beside the journal so that a replay counts as the recording did
(spec/24 R365, R370, DESIGN CHOICE, log entry 21). -/
inductive Ran where
  /-- An instruction of a stream retired, or one of the sequencer issued. -/
  | issue (a : Agent)
  /-- A team took DEADLINE. -/
  | deadline (t : Nat)
  /-- A fatal fault of this KIND. -/
  | fatal (kind : Nat)
deriving DecidableEq, Repr

/-- A saved gang: a blank as read at verification, a stop image or a checkpoint (spec/07 R140 to R142, DESIGN CHOICE, log entry 10).
Teams and members are listed by their numbers in the gang. -/
structure Image where
  kind : Nat
  gangKey : Nat
  gang : Gang
  teams : Sparse Team
  members : Sparse Member
  ops : Sparse Op
  /-- The journal of the interval that the checkpoint begins, once that interval is over, and what the gang did in it. -/
  journal : List JEntry
  order : List Ran := []
deriving DecidableEq, Repr

/-- The power state of the device (spec/18 R317, R322). -/
inductive Power where
  /-- No module power. -/
  | off
  /-- Power is good and the Security core has not yet run the boot. -/
  | boot
  | recovery
  | running
  /-- A reset applied above 85 degrees holds the device. -/
  | heldReset
  /-- A thermal stop has stopped every clock. -/
  | stopped
deriving DecidableEq, Repr

/-- A UALink port (spec/18 R313). -/
structure Port where
  up : Bool
  lanes : Nat
  failed : Nat
  /-- The Penura lane rate. -/
  penura : Bool
deriving DecidableEq, Repr

/-- A die's settings (spec/18 R319, R320). -/
structure Die where
  mhz : Nat
  mv : Nat
  limit : Nat
  /-- Throttle causes that have not cleared. -/
  causes : List Nat
deriving DecidableEq, Repr

/-- Who moves next: a turn of an agent, one of the machine's steps, or the passing of time in cycles of each die
and in ns (DESIGN CHOICE, log entries 4, 5). -/
inductive Turn where
  | agent (a : Agent)
  | event (i : Instr) (x : Args)
  | tick (c0 c1 ns : Nat)
deriving DecidableEq, Repr

/-- Which turn comes next where the spec leaves the order open (DESIGN CHOICE, log entry 4). -/
inductive Choice where
  /-- The item of the agenda at this place, counted around it. -/
  | item (n : Nat)
  /-- Time passes, or the world outside acts. -/
  | input (t : Turn)
deriving DecidableEq, Repr

/-- The whole machine. -/
structure State where
  /-- Whose instruction `exec` runs: a team's key, and a gang's key for matrix instructions. -/
  cur : Nat
  curGang : Nat
  /-- The operands of the step of the machine that runs. -/
  arg : Args
  /-- The words of the instruction that runs, for traps and fault records. -/
  word : W64
  wordh : W32
  agenda : List Turn
  /-- The order of the next turns; when it is used up, the agenda goes on from its first item. -/
  schedule : List Choice
  /-- Cycles of the arithmetic clock of each die since power-on, and device time in ns. -/
  cyc0 : Nat
  cyc1 : Nat
  ns : Nat
  /-- The counter of free values. -/
  free : Nat
  nextOp : Nat
  teams : Sparse Team
  gangs : Sparse Gang
  members : Sparse Member
  cores : Sparse CoreHw
  slices : Sparse Slice
  ops : Sparse Op
  /-- Physical memory: the bytes listed; one not listed reads 0. -/
  mem : List Host.Cell
  /-- How many stores memory has taken, and by page frame what each has overwritten, latest first: its number, place and bytes
  (spec/01 R11, DEDUCED, log entry 8). -/
  stored : Nat
  overwrites : Sparse (List (Nat × Nat × List Byte))
  /-- Poison markers of granules, by granule number. -/
  marks : Sparse Bool
  /-- Granules with an uncorrectable error: how many more reads meet it; none for an error that stays. -/
  ecc : Sparse (Option Nat)
  /-- Corrected errors counted. -/
  corrected : Nat
  dieTlb : Sparse (List Tlb)
  hw : Sparse HomeW
  tfaults : List TFault
  pbars : Sparse PBar
  /-- Waits of other devices on pod barriers homed here: place, device, window, offset and phase (spec/12 R220). -/
  podWaits : List (Nat × Nat × Nat × Nat × Nat)
  /-- What the device has handed to the fabric, oldest first. -/
  outbox : List Msg
  /-- Incoming commands that name a trigger slot, and multicasts. -/
  incoming : List Inc
  /-- Incoming segments that wait for a translation, by window. -/
  arriving : List PeerW
  /-- L2 watchpoint hits on their way to the Debug core: slice, physical address, DETAIL, partition. -/
  l2hits : List (Nat × Nat × W64 × Nat)
  slots : Sparse Slot
  parts : Sparse Part
  ctxs : Sparse Ctx
  evt : Sparse W32
  images : Sparse Image
  ckpts : Sparse (List Image)
  journals : Sparse (List JEntry)
  /-- What a replay has still to deliver, by gang (spec/24 R369). -/
  replayJ : Sparse (List JEntry)
  /-- What each recording gang has done in its interval, and what a replayed gang has still to do. -/
  orders : Sparse (List Ran)
  replayO : Sparse (List Ran)
  /-- In a replay: the stream that moves would run ahead of the recording; its turn does not take place. -/
  ahead : Bool
  /-- Host interface: the management registers (spec/18 R307). -/
  offer : BitVec 128
  accept : BitVec 128
  status : W64
  apbase : W64
  tracecnt : W64
  cmd : List W64
  resp : List W64
  /-- The latched command and its answer, while BUSY. -/
  run : Option (List W64 × Nat × List W64)
  mgmtq : Sparse Byte
  mgmtErrseq : W32
  mgmtHeld : List (List W64)
  mgmtLost : Nat
  /-- MSI-X vectors that have been raised, 64 for each function: function 8 is the physical one (spec/18 R305, R308). -/
  msix : Sparse (BitVec 64)
  /-- Group table, windows (with their revoked mark), pod number and leaf table (spec/18 R308, R315, R316). -/
  groupTab : Sparse (W64 × W64)
  windows : Sparse (List W64 × Bool)
  pod : Option Nat
  leaf : Sparse Nat
  dropped : Nat
  /-- What this device keeps of sealed ranges of its peers (spec/12 R234). -/
  sealedPeer : List SealedCopy
  /-- Power and boot (spec/18 R317 to R322). -/
  power : Power
  dies : Sparse Die
  cap : Nat
  traceB : Nat
  traceS : Nat
  trip : Bool
  hot : Bool
  flash : List Byte
  flashCfg : List Byte
  rollback : Nat
  measure : Sparse (BitVec 384)
  vfs : Bool
  /-- The permitted fabric rates: 224 Gb/s and 212.5 Gb/s per lane. -/
  penuraRate : Bool
  stdRate : Bool
  ports : Sparse Port
  pcie : Bool
  /-- Latency sampling (spec/24 R377): period, buffer base and size, records written. -/
  sampleN : Nat
  sampleB : Nat
  sampleS : Nat
  sampleC : Nat
  /-- The bytes that the last host read or report returned. -/
  hostData : List Byte
deriving DecidableEq, Repr

/-- The device right after reset, before the boot of spec/18 R317: nothing is configured, memory lists nothing, every register holds the value of
spec/18 R307, and the Bench has not started (spec/18 R317). Values that the spec does not give: DESIGN CHOICE, log entry 2. -/
def State.reset : State :=
  { cur := 0, curGang := 0, arg := .none, word := 0, wordh := 0, agenda := [], schedule := [], cyc0 := 0, cyc1 := 0, ns := 0, free := 0, nextOp := 1,
    teams := [], gangs := [], members := [], cores := [], slices := [], ops := [], mem := [], stored := 0, overwrites := [], marks := [], ecc := [],
    corrected := 0, dieTlb := [], hw := [], tfaults := [], pbars := [], podWaits := [], outbox := [], incoming := [], arriving := [], l2hits := [], slots := [], parts := [],
    ctxs := [], evt := [], images := [], ckpts := [], journals := [], replayJ := [], orders := [], replayO := [], ahead := false, offer := Config.offer, accept := 0, status := 0,
    apbase := 0, tracecnt := 0, cmd := List.replicate 8 0, resp := List.replicate 8 0, run := none, mgmtq := [],
    mgmtErrseq := 1, mgmtHeld := [], mgmtLost := 0, msix := [], groupTab := [], windows := [], pod := none, leaf := [], dropped := 0, sealedPeer := [],
    power := .boot, dies := [(0, { mhz := 3000, mv := 350, limit := 100, causes := [] }),
      (1, { mhz := 3000, mv := 350, limit := 100, causes := [] })], cap := 3200, traceB := 0, traceS := 0,
    trip := false, hot := false, flash := [], flashCfg := [], rollback := 0, measure := [], vfs := true,
    penuraRate := true, stdRate := true, ports := [], pcie := true, sampleN := 0, sampleB := 0, sampleS := 0, sampleC := 0,
    hostData := [] }

end Sys2Proof.Machine
end

