-- ==== Sys2Proof/Machine/Ops.lean ====
section
/-! DEFINITION. Named operations over the tables of the state: the current team and gang, registers, tokens,
the agenda, fault records, the halt line, taking an exception and returning from it (spec/01, spec/03, spec/11,
spec/16). -/

namespace Sys2Proof.Machine

/-- The outcome type of every meaning. -/
abbrev Out := Host.Outcome State Fault Refusal

/-! ## Keys and tables -/

/-- The gang of a team. -/
def gangOf (t : Nat) : Nat := t / 512
/-- A team's number in its gang; 256 is the sequencer. -/
def teamNum (t : Nat) : Nat := t % 512
/-- The context of a gang. -/
def ctxOf (g : Nat) : Nat := g / 2 ^ 20
/-- The partition of a context. -/
def partOf (c : Nat) : Nat := c / 256
/-- The key of a gang of a context. -/
def gangKey (c idx : Nat) : Nat := c * 2 ^ 20 + idx
/-- The key of a team of a gang. -/
def teamKey (g n : Nat) : Nat := g * 512 + n
/-- The key of a member core of a gang. -/
def memberKey (g m : Nat) : Nat := g * 4 + m

/-- The team with key `t`. -/
def State.team (s : State) (t : Nat) : Team := s.teams.get .blank t
/-- The state with another team at key `t`. -/
def State.setTeam (s : State) (t : Nat) (x : Team) : State := { s with teams := s.teams.set t x }
/-- The state with a team changed. -/
def State.modTeam (s : State) (t : Nat) (f : Team → Team) : State := s.setTeam t (f (s.team t))
/-- The gang with key `g`. -/
def State.gang (s : State) (g : Nat) : Gang := s.gangs.get .blank g
/-- The state with another gang at key `g`. -/
def State.setGang (s : State) (g : Nat) (x : Gang) : State := { s with gangs := s.gangs.set g x }
/-- The state with a gang changed. -/
def State.modGang (s : State) (g : Nat) (f : Gang → Gang) : State := s.setGang g (f (s.gang g))
/-- The member core with key `m`. -/
def State.member (s : State) (m : Nat) : Member := s.members.get .blank m
/-- The state with another member core at key `m`. -/
def State.setMember (s : State) (m : Nat) (x : Member) : State := { s with members := s.members.set m x }
/-- The state with a member core changed. -/
def State.modMember (s : State) (m : Nat) (f : Member → Member) : State := s.setMember m (f (s.member m))
/-- The physical core with number `c`. -/
def State.core (s : State) (c : Nat) : CoreHw := s.cores.get .blank c
/-- The state with a physical core changed. -/
def State.modCore (s : State) (c : Nat) (f : CoreHw → CoreHw) : State :=
  { s with cores := s.cores.set c (f (s.core c)) }
/-- The home slice with number `n`. -/
def State.slice (s : State) (n : Nat) : Slice := s.slices.get .blank n
/-- The state with a home slice changed. -/
def State.modSlice (s : State) (n : Nat) (f : Slice → Slice) : State :=
  { s with slices := s.slices.set n (f (s.slice n)) }
/-- The state with an operation changed, if it is in flight. -/
def State.modOp (s : State) (o : Nat) (f : Op → Op) : State :=
  match s.ops.find? o with
  | some x => { s with ops := s.ops.set o (f x) }
  | none => s
/-- The state with a context changed, if it exists. -/
def State.modCtx (s : State) (c : Nat) (f : Ctx → Ctx) : State :=
  match s.ctxs.find? c with
  | some x => { s with ctxs := s.ctxs.set c (f x) }
  | none => s
/-- The state with a partition changed, if it exists. -/
def State.modPart (s : State) (p : Nat) (f : Part → Part) : State :=
  match s.parts.find? p with
  | some x => { s with parts := s.parts.set p (f x) }
  | none => s

/-- The team whose instruction runs. -/
def State.tm (s : State) : Team := s.team s.cur
/-- The gang of the team whose instruction runs. -/
def State.tg (s : State) : Gang := s.gang (gangOf s.cur)
/-- The member core of a team. -/
def State.memberOf (s : State) (t : Nat) : Nat := memberKey (gangOf t) (s.team t).core
/-- The device-wide number of a member core of a gang (spec/00 R4, spec/06 R120). -/
def State.coreNum (s : State) (g m : Nat) : Nat := listGet 0 (s.gang g).cores m
/-- The device-wide number of a team's core. -/
def State.teamCore (s : State) (t : Nat) : Nat := s.coreNum (gangOf t) (s.team t).core
/-- The die of a core (spec/00 R4). -/
def dieOf (core : Nat) : Nat := core / 176
/-- The cycle count of a core's die. -/
def State.cycleOf (s : State) (core : Nat) : Nat := if dieOf core = 0 then s.cyc0 else s.cyc1
/-- CYCLE of a core (spec/01 R24). -/
def State.cycleReg (s : State) (core : Nat) : W64 := (s.core core).base + BitVec.ofNat 64 (s.cycleOf core)
/-- The team keys of a gang. -/
def State.teamsOf (s : State) (g : Nat) : List Nat := (List.range (s.gang g).nteams).map (teamKey g)
/-- The member keys of a gang. -/
def State.membersOf (s : State) (g : Nat) : List Nat := (List.range (s.gang g).cores.length).map (memberKey g)
/-- The gang keys of a context, in ascending order. -/
def State.gangsOf (s : State) (c : Nat) : List Nat :=
  (s.gangs.filter fun p => ctxOf p.1 == c).map Prod.fst

/-- A turn for one of the machine's steps about the objects with these numbers. -/
def turnOf (i : Instr) (x y : Nat) : Turn := .event i { Args.none with x := x, y := y }
/-- A turn for a step about an agent. -/
def turnFor (i : Instr) (a : Agent) : Turn := .event i { Args.none with agent := some a }
/-- Put turns at the end of the agenda. -/
def State.push (s : State) (l : List Turn) : State := { s with agenda := s.agenda ++ l }
/-- Put one of the machine's steps about one object at the end of the agenda. -/
def State.post (s : State) (i : Instr) (x : Nat) : State := s.push [turnOf i x 0]
/-- Put one of the machine's steps about two objects at the end of the agenda. -/
def State.post2 (s : State) (i : Instr) (x y : Nat) : State := s.push [turnOf i x y]
/-- The step that runs is not enabled yet: it is put at the end of the agenda again. -/
def State.defer (s : State) (i : Instr) : State := s.push [.event i s.arg]
/-- Take a fresh number for a choice or value that the spec leaves open (DESIGN CHOICE, log entry 6). -/
def State.fresh (s : State) : State := { s with free := s.free + 1 }

/-- Fold a change over a list of keys. -/
def State.each (s : State) (l : List Nat) (f : State → Nat → State) : State := l.foldl f s

/-- Put a pair into a list whose first components rise, after those that are equal. -/
def insertKey (a : Nat × Nat) : List (Nat × Nat) → List (Nat × Nat)
  | [] => [a]
  | b :: l => if a.1 < b.1 then a :: b :: l else b :: insertKey a l
/-- A list of pairs by rising first component, equals in their order. -/
def sortKeys (l : List (Nat × Nat)) : List (Nat × Nat) := l.foldl (fun acc a => insertKey a acc) []

/-! ## Team registers (spec/01 R13 to R18) -/

/-- S[r] as it stands; S0 reads 0 (spec/01 R13). -/
def Team.getS (t : Team) (r : BitVec 6) : W64 := if r = 0 then 0 else t.s.get 0 r.toNat
/-- Write S[r]; a write to S0 is discarded (spec/01 R13). -/
def Team.setS (t : Team) (r : BitVec 6) (v : W64) : Team := if r = 0 then t else { t with s := t.s.set r.toNat v }
/-- Lanes of the team: 32 times 2^WCODE; no image has a code above 5 (spec/06 R115). -/
def Team.width (t : Team) : Nat := if t.copy then 0 else 32 * 2 ^ min t.wcode.toNat 5
/-- All lanes of the team. -/
def Team.allLanes (t : Team) : Mask := BitVec.ofNat 1024 (2 ^ t.width - 1)
/-- M[k]: M0 of a team that has not been given one holds all its lanes (spec/01 R13); in a copy team every mask
reads 0 (spec/03 R56). -/
def Team.getM (t : Team) (k : Nat) : Mask :=
  if t.copy then 0 else t.m.get (if k = 0 then t.allLanes else 0) k
/-- Write M[k]; bits at or beyond the width stay 0 (spec/04 R98). -/
def Team.setM (t : Team) (k : Nat) (v : Mask) : Team := { t with m := t.m.set k (v &&& t.allLanes) }
/-- The summary word of a mask: bit i is 1 exactly when word i is not 0 (spec/01 R15). -/
def summary (m : Mask) : W32 :=
  (List.range 32).foldl (fun (a : W32) i =>
    if (m >>> (32 * i)).truncate 32 = (0 : W32) then a else a ||| (1 <<< i : W32)) 0
/-- A token register. -/
def Team.getT (t : Team) (n : Nat) : Tok := t.tok.get .blank n
/-- Write a token register. -/
def Team.setT (t : Team) (n : Nat) (x : Tok) : Team := { t with tok := t.tok.set n x }
/-- A link of a lane. -/
def Team.getL (t : Team) (l lane : Nat) : Link := t.links.get .blank (l * 1024 + lane)
/-- Write a link of a lane. -/
def Team.setL (t : Team) (l lane : Nat) (x : Link) : Team := { t with links := t.links.set (l * 1024 + lane) x }
/-- The unresolved watch entries of a set (spec/01 R24, WSTAT). -/
def Team.unresolved (t : Team) (set : BitVec 2) : Nat :=
  (t.watch.filter fun e => e.st == .unresolved && e.set == set).length
/-- HSTAT.HM (spec/01 R24). -/
def Team.hm (t : Team) : Bool := t.hstat.getLsbD 0

/-- Change the team whose instruction runs. -/
def State.modTm (s : State) (f : Team → Team) : State := s.modTeam s.cur f
/-- S[r] of the team whose instruction runs. -/
def State.rS (s : State) (r : BitVec 6) : W64 := s.tm.getS r
/-- Write S[r] of the team whose instruction runs. -/
def State.wS (s : State) (r : BitVec 6) (v : W64) : State := s.modTm fun t => t.setS r v

/-! ## Debug sessions (spec/24 R376) -/

/-- The gang of an agent. -/
def agentGang : Agent → Nat
  | .scalar t => gangOf t
  | .lane t => gangOf t
  | .seq g => g
  | .engines m => m / 4

/-- The debug session of a gang's partition. -/
def State.sessionOf (s : State) (g : Nat) : Option Session :=
  match s.parts.find? (partOf (ctxOf g)) with
  | some p => p.session
  | none => none

/-- The step of a team that is under way (spec/23 R360). -/
def State.stepRun (s : State) (t : Nat) : Option StepRun :=
  match s.sessionOf (gangOf t) with
  | some x => (match x.step with
    | some y => if y.team = t then some y else none
    | none => none)
  | none => none

/-- The gang is being replayed (spec/24 R369). -/
def State.replaying (s : State) (g : Nat) : Bool :=
  match s.sessionOf g with
  | some x => x.replay == some g
  | none => false

/-- The gang records, and its recording is not suspended (spec/24 R366, R368). -/
def State.recording (s : State) (g : Nat) : Bool := (s.gang g).record && !(s.gang g).suspended && !s.replaying g

/-- The fatal fault that stands first among what a replayed gang has still to do stops the replay there; its KIND goes with
it (spec/24 R371). -/
def State.meetFatal (s : State) (g : Nat) : State :=
  match s.replayO.get [] g with
  | .fatal k :: _ => s.push [.event .replayStop { Args.none with x := g, y := 1, z := k }]
  | _ => s

/-- A gang does something that its journal orders. A replay does it only in the recording's order, and with nothing left has
reached its count (spec/24 R369, R370, DESIGN CHOICE, log entry 21). -/
def State.ran (s : State) (g : Nat) (r : Ran) : State :=
  if s.replaying g then
    match s.replayO.get [] g with
    | [] => { s with ahead := true }
    | x :: rest =>
      if x ≠ r then { s with ahead := true }
      else
        let s := { s with replayO := s.replayO.set g rest }
        if rest.isEmpty then s.push [.event .replayStop { Args.none with x := g, y := 2 }] else s.meetFatal g
  else if s.recording g then { s with orders := s.orders.set g (s.orders.get [] g ++ [r]) }
  else s

/-- A counter event on a member core (spec/24 R378). -/
def State.count (s : State) (m event : Nat) : State :=
  if (s.member m).ctr.isEmpty then s
  else s.modMember m fun x => { x with ctr := x.ctr.map fun c => if c.2.1 = event then (c.1, c.2.1, c.2.2 + 1) else c }

/-- An instruction issues after the halt line has reached the stream: it counts in the skid; a wait counted when it began
(spec/16 R289). -/
def Team.skids (t : Team) : Team := if t.reached && t.wait.isNone then { t with skid := t.skid + 1 } else t

/-- The instruction retires: it and its SIMM count one (spec/03 R49), and a checkpoint may fall due (spec/24
R366). -/
def State.retire (s : State) : State :=
  let g := gangOf s.cur
  let s := ((s.modTm fun t => { t.skids with rwc := t.rwc + 1, wait := none }).count (s.memberOf s.cur) 2).ran g (.issue (.scalar s.cur))
  if (s.gang g).record && !s.replaying g then
    let s := s.modGang g fun x => { x with ckCount := x.ckCount + 1 }
    if (s.gang g).ckCount = 2 ^ 20 then s.post .checkpointDue g else s
  else s

/-- The instruction, of `len` bytes (8 for a SIMM pair, spec/01 R26), retires and the next one follows it. -/
def State.advanceBy (s : State) (len : W64) : State := (s.modTm fun t => { t with pc := t.pc + len }).retire

/-- A scalar word retires and the next one follows it. -/
def State.advance (s : State) : State := s.advanceBy 4

/-! ## Fault records (spec/16 R285 to R287) -/

/-- What a fault record says, beside its sequence number and time (spec/16 R286). -/
structure FRec where
  kind : Nat
  unit : Nat
  core : Nat
  team : Nat
  token : Nat
  queue : Nat
  attempts : Nat
  gang : Nat
  pc : W64
  word : W64
  wordh : W32
  lidx : Nat
  reason : Nat
  inner : Nat
  addr : W64
  detail : W64
  ranges : List W64
  /-- The partition of a record that names no context. -/
  part : Nat := 0
  /-- The snapshot of a command that fails a check (spec/08 R164). -/
  snap : List W64 := []
deriving DecidableEq, Repr

/-- A record with nothing in it. -/
def FRec.blank : FRec :=
  { kind := 0, unit := 0, core := 0, team := 0, token := 0, queue := 0, attempts := 0, gang := 0, pc := 0, word := 0,
    wordh := 0, lidx := 0, reason := 0, inner := 0, addr := 0, detail := 0, ranges := [] }

/-- An origin record (spec/11 R206). -/
def originWord (unit core team token queue attempts errseq : Nat) : W64 :=
  BitVec.ofNat 64 (unit * 2 ^ 60 + core * 2 ^ 51 + team * 2 ^ 43 + token * 2 ^ 38 + queue * 2 ^ 36 + attempts * 2 ^ 34
    + errseq)

/-- The sixteen doublewords of a fault record (spec/16 R286). -/
def FRec.words (f : FRec) (errseq : W32) (lost : Nat) (ctx : Option Nat) (ns : Nat) : List W64 :=
  let src := (originWord f.unit f.core f.team f.token f.queue f.attempts 0).toNat / 2 ^ 32
  let (cx, pt, v) := match ctx with
    | some c => (c % 256, c / 256, 1)
    | none => (0, f.part, 0)
  let head : List W64 :=
    [ BitVec.ofNat 64 (errseq.toNat * 2 ^ 32 + min lost 255 * 2 ^ 24 + cx * 2 ^ 16 + pt * 2 ^ 13 + v * 2 ^ 12 + f.kind),
      BitVec.ofNat 64 ns,
      BitVec.ofNat 64 (src * 2 ^ 32 + f.gang),
      f.pc, f.word,
      BitVec.ofNat 64 (f.lidx % 2 ^ 14 * 2 ^ 48 + f.inner * 2 ^ 40 + f.reason * 2 ^ 32 + f.wordh.toNat),
      f.addr, f.detail ]
  let ranges := if f.kind = 1 then (f.ranges ++ List.replicate 8 (BitVec.allOnes 64)).take 8
    else (f.snap ++ List.replicate 8 0).take 8
  head ++ ranges

/-- The bytes of doublewords, little-endian (spec/01 R10). -/
def wordBytes : List W64 → List Byte
  | [] => []
  | w :: l => (List.range 8).map (fun i => (w >>> (8 * i)).truncate 8) ++ wordBytes l

/-- The number that bytes hold, little-endian. -/
def bytesNat : List Byte → Nat
  | [] => 0
  | b :: l => b.toNat + 256 * bytesNat l

/-- The low `n` bytes of a number, little-endian. -/
def natBytes (n v : Nat) : List Byte := (List.range n).map fun i => BitVec.ofNat 8 (v / 2 ^ (8 * i))

/-! ## Physical memory (spec/14 R240): canonical, an unlisted byte reads 0 (DESIGN CHOICE, log entry 1) -/

/-- A physical address at which the spec places memory. -/
def physOk (pa : Nat) : Bool :=
  decide (pa < Config.hbmEnd) || (decide (Config.stBase ≤ pa) && decide (pa < Config.stEnd))

/-- The canonical form of memory: addresses strictly rising, and no entry equal to what an unlisted byte reads as. -/
def Memory.wf (m : List Host.Cell) : Bool := Sparse.canonical 0 m
/-- One byte of physical memory. -/
def State.memByte (s : State) (pa : Nat) : Byte := Sparse.get 0 s.mem pa
/-- Write one byte of physical memory. -/
def State.setByte (s : State) (pa : Nat) (b : Byte) : State := { s with mem := Sparse.put 0 s.mem pa b }
/-- `n` bytes of physical memory. -/
def State.memBytes (s : State) (pa n : Nat) : List Byte := (List.range n).map fun i => s.memByte (pa + i)
/-- Write bytes of physical memory. -/
def State.setBytes (s : State) (pa : Nat) : List Byte → State
  | [] => s
  | b :: l => (s.setByte pa b).setBytes (pa + 1) l
/-- A doubleword of physical memory. -/
def State.mem64 (s : State) (pa : Nat) : W64 := BitVec.ofNat 64 (bytesNat (s.memBytes pa 8))
/-- A word of physical memory. -/
def State.mem32 (s : State) (pa : Nat) : W32 := BitVec.ofNat 32 (bytesNat (s.memBytes pa 4))

/-! ## Homes and the directory (spec/14 R243, R247, R248) -/

/-- The XOR of the consecutive `n`-bit fields of a number (spec/14 R243). -/
def foldBits (n : Nat) : Nat → Nat → Nat
  | 0, _ => 0
  | fuel + 1, l => if l = 0 then 0 else (l % 2 ^ n) ^^^ foldBits n fuel (l / 2 ^ n)

/-- The home slice of a line on a page with this HOME (spec/14 R243). -/
def sliceOf (home line : Nat) : Nat :=
  match home with
  | 1 => foldBits 6 9 line
  | 2 => 64 + foldBits 6 9 line
  | _ => foldBits 7 9 line

/-- The slice that holds a line's directory entry, or the device-interleaved one where none does: for accesses that
no page names. -/
def State.findSlice (s : State) (line : Nat) : Nat :=
  if ((s.slice (sliceOf 1 line)).dir.find? line).isSome then sliceOf 1 line
  else if ((s.slice (sliceOf 2 line)).dir.find? line).isSome then sliceOf 2 line
  else sliceOf 0 line

/-- The cores that a directory entry's updates go to (spec/14 R247, R248). -/
def Dir.targets (d : Dir) : List Nat :=
  if d.quads then d.sharers.flatMap fun q => [4 * q, 4 * q + 1, 4 * q + 2, 4 * q + 3] else d.sharers

/-- A marker of a granule (spec/11 R214). -/
def State.marked (s : State) (granule : Nat) : Bool := s.marks.get false granule
/-- Set or clear the marker of a granule. -/
def State.setMark (s : State) (granule : Nat) (b : Bool) : State :=
  { s with marks := Sparse.put false s.marks granule b }

/-- An L2 watchpoint of a slice matches an access: the first that does (spec/24 R374). -/
def l2Match (sl : Slice) (pa n kind src : Nat) : Option Nat :=
  (List.range 8).find? fun i =>
    let (d0, d1) := sl.l2w.get (0, 0) i
    let len := 2 ^ bits d1.toNat 0 6
    let lo := bits d0.toNat 0 52
    d1.getLsbD 13 && d1.getLsbD (9 + src) && d1.getLsbD (6 + kind) && decide (pa < lo + len) && decide (lo < pa + n)

/-- Report an access at its home to the L2 watchpoints; `src` 0 core demand, 1 copies and epilogues, 2 fabric
ingress, 3 page walks and scrub; `kind` 0 read, 1 write, 2 atomic; `who` the core, port or peer (spec/24 R375). -/
def State.l2Watch (s : State) (slice pa n kind src who : Nat) : State :=
  match l2Match (s.slice slice) pa n kind src with
  | none => s
  | some _ =>
    { s with
      l2hits := s.l2hits ++ [(slice, pa, BitVec.ofNat 64 (1 * 2 ^ 60 + kind * 2 ^ 18 + src * 2 ^ 16 + who), 0)],
      agenda := s.agenda ++ [turnOf .l2WatchReport slice 0] }

/-- Keep what a store within one line overwrites: a fetch of code may see it still (spec/01 R11, DEDUCED, log entry 8). -/
def State.overwrite (s : State) (pa : Nat) (data : List Byte) : State :=
  if data.isEmpty then s
  else
    let frame := pa / 4096
    let entry := (s.stored, pa, s.memBytes pa data.length)
    { s with stored := s.stored + 1, overwrites := s.overwrites.set frame (entry :: s.overwrites.get [] frame) }

/-- The status of PWAIT and PTRY, from dw0 of the barrier, the phase asked for and whether the wait is over (spec/12
R222). -/
def phaseStatus (dw0 : W64) (p : W32) : W64 :=
  let phase : W32 := dw0.truncate 32
  let d := (phase - p).toNat
  let done := decide (1 ≤ d) && decide (d ≤ 2 ^ 31)
  let old := done && decide (d ≠ 1)
  let pois := done && decide (d = 1) && dw0.getLsbD 59
  BitVec.ofNat 64 (phase.toNat * 2 ^ 32 + old.toNat * 4 + pois.toNat * 2 + done.toNat)

/-- Waits of other devices on pod barriers in `[pa, pa + n)` are judged against what stands there now; those whose phase has
completed get their release (spec/12 R219, R220, R223, spec/18 R314). -/
def State.podRelease (s : State) (pa n : Nat) : State :=
  let due (w : Nat × Nat × Nat × Nat × Nat) : Bool :=
    decide (pa < w.1 + 16) && decide (w.1 < pa + n) && (phaseStatus (s.mem64 w.1) (BitVec.ofNat 32 w.2.2.2.2)).getLsbD 0
  let msg (w : Nat × Nat × Nat × Nat × Nat) : Msg :=
    { code := 0x07, dev := w.2.1, win := w.2.2.1, off := w.2.2.2.1, data := natBytes 4 (bits (s.mem64 w.1).toNat 0 32), marks := [],
      slot := none, tag := 0, arg := ((s.mem64 w.1).getLsbD 59).toNat }
  { s with podWaits := s.podWaits.filter fun w => !due w, outbox := s.outbox ++ (s.podWaits.filter due).map msg }

/-- The bytes of a write within one line and its granules' markers; phase-barrier objects it overlaps hold no arrival any more
and waits of other devices on them are judged again (spec/11 R214, spec/12 R223). `mark` names the granules to mark; a whole
granule written clean loses its marker when `whole` allows it. -/
def State.storeBytes (s : State) (pa : Nat) (data : List Byte) (mark : Nat → Bool) (whole : Bool) : State :=
  let n := data.length
  let s := (s.overwrite pa data).setBytes pa data
  let s := s.each [2 * (pa / 128), 2 * (pa / 128) + 1] fun s g =>
    let lo := g * 64
    if decide (pa < lo + 64) && decide (lo < pa + n) then
      if mark g then s.setMark g true
      else if whole && decide (pa ≤ lo) && decide (lo + 64 ≤ pa + n) then
        let s := s.setMark g false
        { s with ecc := s.ecc.del g }
      else s
    else s
  { s with pbars := s.pbars.filter fun p => !(decide (p.1 < pa + n) && decide (pa < p.1 + 16)) }.podRelease pa n

/-- VERSION of the line a write was performed in, and the update to every sharer: the acknowledgement follows the last sharer's
(spec/14 R248). -/
def State.sendUpdates (s : State) (slice pa : Nat) (data : List Byte) (op : Option (Nat × Nat)) : State :=
  let line := pa / 128
  let wr := s.nextOp
  let w : HomeW := { line := line, off := pa % 128, data := data, marks := [2 * line, 2 * line + 1].map s.marked, version := 0,
                         await := [], op := op }
  let s := { s with nextOp := s.nextOp + 1 }
  match (s.slice slice).dir.find? line with
  | none => { s with hw := s.hw.set wr w, agenda := s.agenda ++ [turnOf .updateAck wr 0] }
  | some d =>
    let v := d.version + 1
    let s := s.modSlice slice fun x =>
      { x with dir := x.dir.set line { d with version := v, wrap := d.wrap || v == 0 } }
    let tg := d.targets
    { s with hw := s.hw.set wr { w with version := v, await := tg },
              agenda := s.agenda ++ (tg.map fun c => turnOf .sharerUpdate c wr)
                ++ (if tg.isEmpty then [turnOf .updateAck wr 0] else []) }

/-- Perform a write of bytes within one line at its home (spec/14 R248, spec/11 R214, spec/12 R223). -/
def State.homeStore (s : State) (slice pa : Nat) (data : List Byte) (mark : Nat → Bool) (whole : Bool)
    (op : Option (Nat × Nat)) : State :=
  (s.storeBytes pa data mark whole).sendUpdates slice pa data op

/-- A notice of the eviction of a line, or its completion. -/
def evictionTurn (slice line : Nat) : Turn → Bool
  | .event .lapseNotice a => a.y == line && a.z == slice
  | .event .evictionComplete a => a.x == slice && a.y == line
  | _ => false

/-- A directory entry is evicted with its notices reaching every sharer at once (spec/14 R247, R249). -/
def State.evictNow (s : State) (slice line : Nat) (d : Dir) : State :=
  let lapse (c : NLine) : NLine := if c.st = .valid then { c with st := .lapsed } else c
  let notify (p : Nat × CoreHw) : Nat × CoreHw :=
    if d.targets.contains p.1 then
      (p.1, { p.2 with near := match p.2.near.find? line with
        | some c => p.2.near.set line (lapse c)
        | none => p.2.near })
    else p
  let wraps := (s.slice slice).epoch == 0xFFFF
  let forget (p : Nat × CoreHw) : Nat × CoreHw :=
    if wraps then (p.1, { p.2 with near := p.2.near.filter fun c => !(c.2.st == .lapsed && c.2.slice == slice) }) else p
  { s with cores := s.cores.map fun p => forget (notify p), agenda := s.agenda.filter fun t => !evictionTurn slice line t }.modSlice
    slice fun x => { x with dir := x.dir.del line, epoch := x.epoch + 1 }

/-- A write of the device's own cores or the host waits for the eviction of its line's entry, if one is under way (spec/14
R249). -/
def State.finishEviction (s : State) (slice line : Nat) : State :=
  match (s.slice slice).dir.find? line with
  | none => s
  | some d => if d.evict.isNone then s else s.evictNow slice line d

/-- Write bytes that may span lines, each line at its home, with nobody waiting: the Bench cores and the host. -/
def State.benchStore (s : State) : Nat → Nat → List Byte → State
  | 0, _, _ => s
  | fuel + 1, pa, data =>
    if data.isEmpty then s
    else
      let k := 128 - pa % 128
      let s := (s.finishEviction (s.findSlice (pa / 128)) (pa / 128)).homeStore (s.findSlice (pa / 128)) pa (data.take k) (fun _ => false) true none
      s.benchStore fuel (pa + k) (data.drop k)

/-- Write doublewords as the Bench does. -/
def State.benchWords (s : State) (pa : Nat) (ws : List W64) : State :=
  let b := wordBytes ws
  s.benchStore (b.length / 128 + 2) pa b

/-! ## The fault ring (spec/16 R285) -/

/-- Free slots of a ring with this many slots (spec/07 R136). -/
def State.ringFree (s : State) (base slots : Nat) : Bool :=
  decide ((s.mem32 base - s.mem32 (base + 4)).toNat < slots)

/-- Put a record into a ring whose PUT the device writes: the record, then PUT (spec/07 R136). -/
def State.ringPut (s : State) (base slots size : Nat) (ws : List W64) : State :=
  let put := s.mem32 base
  let s := s.benchWords (base + 0x80 + put.toNat % slots * size) ws
  s.benchStore 2 base (natBytes 4 (put + 1).toNat)

/-- Write a fault record of a partition: into its ring, or held while the ring is full, or dropped beyond 256 held
(spec/16 R285). Answers the state and the record's ERRSEQ. -/
def State.faultRecord (s : State) (p : Nat) (ctx : Option Nat) (f : FRec) : State × W32 :=
  match s.parts.find? p with
  | none => (s, 0)
  | some pt =>
    let e := pt.errseq
    let ws := { f with part := p }.words e pt.lost ctx s.ns
    if pt.heldF.isEmpty && s.ringFree pt.cfg.faultq 31 then
      let s := s.modPart p fun x => { x with errseq := e + 1, lost := 0 }
      (s.ringPut pt.cfg.faultq 31 128 ws, e)
    else if pt.heldF.length < 256 then
      (s.modPart p fun x => { x with errseq := e + 1, lost := 0, heldF := x.heldF ++ [ws] }, e)
    else (s.modPart p fun x => { x with errseq := e + 1, lost := x.lost + 1 }, e)

/-- Write bytes of the management fault ring (spec/18 R307). -/
def State.setMgmt (s : State) (at_ : Nat) : List Byte → State
  | [] => s
  | b :: l => { s with mgmtq := Sparse.put 0 s.mgmtq at_ b }.setMgmt (at_ + 1) l
/-- A word of the management fault ring. -/
def State.mgmt32 (s : State) (at_ : Nat) : W32 :=
  BitVec.ofNat 32 (bytesNat ((List.range 4).map fun i => s.mgmtq.get 0 (at_ + i)))
/-- The management ring has a free slot. -/
def State.mgmtFree (s : State) : Bool := decide ((s.mgmt32 0 - s.mgmt32 4).toNat < 31)
/-- Put a record into the management ring. -/
def State.mgmtPut (s : State) (ws : List W64) : State :=
  let put := s.mgmt32 0
  (s.setMgmt (0x80 + put.toNat % 31 * 128) (wordBytes ws)).setMgmt 0 (natBytes 4 (put + 1).toNat)
/-- Write a fault record that belongs to no partition (spec/16 R285). -/
def State.mgmtRecord (s : State) (f : FRec) : State :=
  let e := s.mgmtErrseq
  let ws := f.words e s.mgmtLost none s.ns
  let s := { s with mgmtErrseq := e + 1 }
  if s.mgmtHeld.isEmpty && s.mgmtFree then { s with mgmtLost := 0 }.mgmtPut ws
  else if s.mgmtHeld.length < 256 then { s with mgmtLost := 0, mgmtHeld := s.mgmtHeld ++ [ws] }
  else { s with mgmtLost := s.mgmtLost + 1 }

/-! ## Journal and replay (spec/24 R366 to R371) -/

/-- The count at which an agent receives a value (spec/24 R365, R367). -/
def State.countOf (s : State) : Agent → W64
  | .scalar t => (s.team t).rwc
  | .lane t => (s.team t).rwc
  | _ => 0


/-- The next journalled value of an agent at a count that meets a test, in a gang that is replayed (spec/24
R369). -/
def State.recallBy (s : State) (a : Agent) (count : W64) (p : List W64 → Bool) : Option (List W64 × State) :=
  if s.replaying (agentGang a) then
    let l := s.replayJ.get [] (agentGang a)
    match l.find? fun e => e.agent == a && e.count == count && p e.val with
    | some e => some (e.val, { s with replayJ := s.replayJ.set (agentGang a) (l.erase e) })
    | none => none
  else none

/-- The next journalled value of an agent at a count (spec/24 R369). -/
def State.recall (s : State) (a : Agent) (count : W64) : Option (List W64 × State) := s.recallBy a count fun _ => true

/-- Journal a value that an agent of a recording gang receives (spec/24 R367). -/
def State.note (s : State) (a : Agent) (count : W64) (v : List W64) : State :=
  if s.recording (agentGang a) then
    let e : JEntry := { agent := a, count := count, val := v }
    { s with journals := s.journals.set (agentGang a) (s.journals.get [] (agentGang a) ++ [e]) }
  else s

/-- A value that an agent observes: journalled, or in replay taken from the journal (spec/24 R367, R369). -/
def State.journal (s : State) (a : Agent) (count : W64) (v : List W64) : List W64 × State :=
  match s.recall a count with
  | some r => r
  | none => (v, s.note a count v)

/-- A word that the scalar stream observes now. -/
def State.journal1 (s : State) (v : W64) : W64 × State :=
  let r := s.journal (.scalar s.cur) s.tm.rwc [v]
  (r.1.headD 0, r.2)

/-! ## The halt line (spec/16 R288 to R294) -/

/-- The agents of a gang: scalar and lane streams, sequencer, engines. -/
def State.agentsOf (s : State) (g : Nat) : List Agent :=
  (s.teamsOf g).map .scalar ++ (s.teamsOf g).map .lane ++ (if (s.gang g).hasSeq then [.seq g] else [])
    ++ (s.membersOf g).map .engines

/-- A step under way ends (spec/23 R360). -/
def Session.stepHit (x : Session) : Session := { x with step := x.step.map fun y => { y with hit := true } }

/-- Raise the halt line of a context: it spreads to every agent of its resident gangs. A fatal fault of a context that a
debug stop holds ends the step under way and stops again what it ran (spec/16 R288, R289, spec/23 R362). -/
def State.raiseHalt (s : State) (c : Nat) (fatal : Bool) : State :=
  match s.ctxs.find? c with
  | none => s
  | some x =>
    if (x.halt && (x.fatal || !fatal)) || x.st == .ended then s
    else
      let stopped := x.st == .stopped
      let first := !x.halt
      let s := s.modCtx c fun x =>
        { x with halt := true, fatal := x.fatal || fatal, haltTime := if first then s.ns else x.haltTime, st := .halting }
      let ags := ((s.gangsOf c).filter fun g => (s.gang g).st == .resident).flatMap s.agentsOf
      let s := if first || stopped then s.push (ags.map (turnFor .haltLineArrival)) else s
      let s := if stopped then s.modPart (partOf c) fun p =>
          { p with session := p.session.map fun x => if x.ctx = c then x.stepHit else x }
        else s
      s.post .dump c

/-- The agent that a record names, by its unit (spec/11 R206). -/
def FRec.agent (f : FRec) (c : Nat) : Agent :=
  let g := gangKey c f.gang
  if f.unit = 2 then .lane (teamKey g f.team) else if f.unit = 4 then .seq g
  else if f.unit = 3 then .scalar (teamKey g f.team) else .engines (g * 4)

/-- A fatal fault of a context: its record, its place in the dump's list, the halt line (spec/16 R281, R286, R288,
R294). A recording journals its kind. A replay stops before it, and an agent that comes to it earlier waits; nothing is written
(spec/24 R367, R371). -/
def State.fatal (s : State) (c : Nat) (f : FRec) : State :=
  if s.replaying (gangKey c f.gang) then { s with ahead := true }
  else
  let s := s.note (f.agent c) (s.countOf (f.agent c)) [BitVec.ofNat 64 (2 ^ 63 + f.kind)]
  let s := s.ran (gangKey c f.gang) (.fatal f.kind)
  let (s, e) := s.faultRecord (partOf c) (some c) f
  let s := s.modCtx c fun x =>
    if !x.fatal then { x with faults := [e] }
    else if x.faults.length < 16 then { x with faults := x.faults ++ [e] } else { x with extra := x.extra + 1 }
  s.raiseHalt c true

/-- The codes of the fatal causes (spec/16 R281). -/
def kIllegal : Nat := 0x10
def kTokenBusy : Nat := 0x11
def kCheckStall : Nat := 0x12
def kCheckToken : Nat := 0x13
def kStrike : Nat := 0x14
def kProtection : Nat := 0x15
def kMisaligned : Nat := 0x16
def kOutOfPart : Nat := 0x17
def kHandler : Nat := 0x18
def kDeadlock : Nat := 0x19

/-- A fatal cause at the scalar instruction that runs: precise, so nothing changes but the halt, and the stream
stops at the instruction; inside a handler it is HANDLER_FAULT with the inner cause (spec/02 R45, spec/16 R281,
R284). -/
def State.scalarFault (s : State) (kind : Nat) (reason : Reason) (addr : W64) : State :=
  let t := s.tm
  let inner := t.hm
  let f : FRec := { FRec.blank with
    kind := if inner then kHandler else kind, inner := if inner then kind else 0,
    reason := if kind = kIllegal then reason.code else 0, unit := 3, core := s.teamCore s.cur, team := teamNum s.cur,
    gang := s.tg.idx, pc := t.pc, word := s.word, addr := if inner then 0 else addr }
  let s := s.modTm fun t => { t with stopped := true, stopAt := s.cycleReg (s.teamCore s.cur) }
  s.fatal (ctxOf (gangOf s.cur)) f

/-- The illegal-instruction trap of a scalar word (spec/02 R45, R46). -/
def illegal (s : State) (r : Reason) : Out := .next (s.scalarFault kIllegal r 0)
/-- A fatal cause of a scalar instruction that names an address. -/
def faultAt (s : State) (kind : Nat) (addr : W64) : Out := .next (s.scalarFault kind .state addr)

/-- A fatal cause at the lane instruction that runs (spec/02 R45, spec/16 R281): the block's token stays PENDING. -/
def State.laneFault (s : State) (kind : Nat) (reason : Reason) (addr detail : W64) : State :=
  let t := s.tm
  let b := t.running
  let idx := match b with
    | some x => x.idx
    | none => 0
  let tok := match b with
    | some x => x.tok
    | none => 0
  let f : FRec := { FRec.blank with
    kind := kind, reason := if kind = kIllegal then reason.code else 0, unit := 2, core := s.teamCore s.cur, team := teamNum s.cur,
    token := tok, gang := s.tg.idx, pc := t.lcb + BitVec.ofNat 64 (12 * idx), word := s.word, wordh := s.wordh, lidx := idx,
    addr := addr, detail := detail }
  let s := s.modTm fun t => { t with laneStopped := true, laneStopAt := s.cycleReg (s.teamCore s.cur) }
  s.fatal (ctxOf (gangOf s.cur)) f

/-- The illegal-instruction trap of a lane word. -/
def laneIllegal (s : State) (r : Reason) : Out := .next (s.laneFault kIllegal r 0 0)

/-- A fatal cause at the matrix word that runs (spec/02 R45, R47). -/
def State.seqFault (s : State) (kind : Nat) (reason : Reason) (addr : W64) : State :=
  let g := s.gang s.curGang
  let f : FRec := { FRec.blank with
    kind := kind, reason := if kind = kIllegal then reason.code else 0, unit := 4, core := s.coreNum s.curGang 0,
    gang := g.idx, pc := g.spc, word := s.word, addr := addr }
  let s := s.modGang s.curGang fun g => { g with sstopped := true, sstopAt := s.cycleReg (s.coreNum s.curGang 0) }
  s.fatal (ctxOf s.curGang) f

/-- The illegal-instruction trap of a matrix word. -/
def seqIllegal (s : State) (r : Reason) : Out := .next (s.seqFault kIllegal r 0)

/-! ## Taking an exception and returning (spec/03 R70, R71, spec/16 R282 to R284) -/

/-- The handler's entry: HADDR [53:0] (spec/16 R282). -/
def Gang.handler (g : Gang) : W64 := BitVec.ofNat 64 (bits g.haddr.toNat 0 54)

/-- HSTAT with HM, CAUSE and CODE (spec/01 R24). -/
def hstatWord (cause : Nat) (code : Nat) : W64 := BitVec.ofNat 64 (code % 2 ^ 13 * 2 ^ 16 + cause * 2 ^ 8 + 1)

/-- Take an exception: EPC holds where the team goes on, HSTAT the code, the cause and HM, and the PC is the
handler's entry (spec/03 R70, spec/16 R283). -/
def State.enterHandler (s : State) (t : Nat) (cause code : Nat) (epc tword twordh : W64) : State :=
  let h := (s.gang (gangOf t)).handler
  s.modTeam t fun x =>
    { x with epc := epc, hstat := hstatWord cause code, tword := tword, twordh := twordh, pc := h }

/-- The trap classes: bit of HADDR and HSTAT.CAUSE (spec/16 R282). -/
inductive TrapClass where
  | poisonRead | waitPoison | waitExpired | deadline
deriving DecidableEq, Repr

/-- The bit of HADDR that selects a class. -/
def TrapClass.bit : TrapClass → Nat
  | .poisonRead => 54
  | .waitPoison => 55
  | .waitExpired => 56
  | .deadline => 57

/-- HSTAT.CAUSE of a class. -/
def TrapClass.cause : TrapClass → Nat
  | .poisonRead => 2
  | .waitPoison => 3
  | .waitExpired => 4
  | .deadline => 5

/-- A team takes a class: the launch selects it and the team is not in handler mode (spec/16 R282, R284). -/
def State.takes (s : State) (t : Nat) (k : TrapClass) : Bool :=
  (s.gang (gangOf t)).haddr.getLsbD k.bit && !(s.team t).hm

/-- After an instruction of the current team has written its results and gone on: take a class if it is selected,
with EPC at the next instruction (spec/16 R282, R283). `s` already stands at the next instruction. -/
def State.classTrap (s : State) (k : TrapClass) (code : Nat) : State :=
  if s.takes s.cur k then s.enterHandler s.cur k.cause code s.tm.pc s.word 0 else s

/-- Return from an exception: PC := EPC, HSTAT and HM := 0; a DEADLINE held meanwhile is taken at the next issue
slot (spec/03 R71, spec/16 R284). -/
def State.leaveHandler (s : State) : State :=
  s.modTm fun t => { t with pc := t.epc, hstat := 0 }

/-! ## Tokens (spec/11 R205 to R207) -/

/-- Latch a token's completion in a waiting set: the token leaves the set, and the lowest POISONED one is kept
(spec/03 R61). -/
def latch (n : Nat) (x : Tok) (waiting : W32) (pois : Option (Nat × W64)) : W32 × Option (Nat × W64) :=
  if waiting.getLsbD n then
    let w := waiting &&& ~~~(1 <<< n : W32)
    if x.st = .poisoned then
      match pois with
      | some (m, o) => if n < m then (w, some (n, x.origin)) else (w, some (m, o))
      | none => (w, some (n, x.origin))
    else (w, pois)
  else (waiting, pois)

/-- Latch in a queued block. -/
def QItem.latch (n : Nat) (x : Tok) : QItem → QItem
  | .block b =>
    let (w, p) := Machine.latch n x b.waiting b.pois
    .block { b with waiting := w, pois := p }
  | .fmt v => .fmt v

/-- Latch in an operation. -/
def Op.latch (n : Nat) (x : Tok) (o : Op) : Op :=
  let (w, p) := Machine.latch n x o.waiting o.pois
  { o with waiting := w, pois := p }

/-- The precondition set of a new operation at issue: what it still waits for, and the lowest POISONED token
(spec/03 R61). -/
def Team.preconds (t : Team) (set : W32) : W32 × Option (Nat × W64) :=
  (List.range 32).foldl (fun (acc : W32 × Option (Nat × W64)) n =>
    let x := t.getT n
    if set.getLsbD n && (x.st == .done || x.st == .poisoned) then latch n x acc.1 acc.2 else acc) (set, none)

/-- A token completes: DONE, or POISONED with a cause and an origin; whoever waits on it latches that (spec/11 R205).
-/
def State.completeToken (s : State) (t n : Nat) (poison : Option (BitVec 8 × W64)) : State :=
  let x : Tok := match poison with
    | none => { st := .done, claimed := false, cause := 0, origin := 0 }
    | some (c, o) => { st := .poisoned, claimed := false, cause := c, origin := o }
  let s := s.modTeam t fun tm =>
    { (tm.setT n x) with queue := tm.queue.map (QItem.latch n x) }
  { s with ops := s.ops.map fun p => if p.2.team = t then (p.1, p.2.latch n x) else p }

/-- Causes of a POISONED token (spec/11 R206). -/
def cMemory : BitVec 8 := 1
def cTranslation : BitVec 8 := 2
def cPoisonData : BitVec 8 := 3
def cFabric : BitVec 8 := 4
def cInherited : BitVec 8 := 5

/-- The stronger of two causes: MEMORY and TRANSLATION above FABRIC_NACK above POISON_DATA, the first of equals
(spec/11 R215). -/
def causeRank (c : BitVec 8) : Nat :=
  if c = cMemory ∨ c = cTranslation then 3 else if c = cFabric then 2 else if c = cPoisonData then 1 else 0

/-- A cause met by an operation, with the origin of the event that gave it (spec/11 R215). -/
def Op.addCause (o : Op) (c : BitVec 8) (origin : W64) : Op :=
  if causeRank o.cause < causeRank c then { o with cause := c, origin := origin } else o

/-- A lane memory operation. -/
def Op.isLane (o : Op) : Bool :=
  match o.kind with
  | .vld => true
  | .vst => true
  | .vlds => true
  | .vamo => true
  | .vrmo => true
  | .vprf => true
  | _ => false

/-- An instruction of the team has observed a token: the loads it covers may be read, and the block's accesses are
covered by later fences (spec/03 R62, R64, spec/04 R105, spec/12 R224). -/
def State.observe (s : State) (t n : Nat) : State :=
  let tm := s.team t
  let d := tm.tokDisp.find? n
  let s := s.modTeam t fun x =>
    { x with
      dirty := match d with
        | some d => x.dirty.filter fun e => decide (d < e.disp)
        | none => x.dirty
      loads := (x.loads.filter fun e => !(e.scal && e.tok == n && e.done)).map fun e =>
        if e.tok == n && e.cover.isNone && e.done then { e with cover := some x.disp } else e }
  match d with
  | none => s
  | some d => { s with ops := s.ops.map fun p =>
      if p.2.team = t ∧ p.2.isLane = true ∧ p.2.disp = d then (p.1, { p.2 with cov := true }) else p }

/-- Observe every token of a set that is DONE or POISONED. -/
def State.observeSet (s : State) (t : Nat) (set : W32) : State :=
  (List.range 32).foldl (fun s n =>
    let st := ((s.team t).getT n).st
    if set.getLsbD n && (st == .done || st == .poisoned) then s.observe t n else s) s

/-! ## Waiting (spec/03 R75, spec/07 R152) -/

/-- The stream blocks: the instruction has not retired, and the team has a wait-for entry. The first time it blocks
the cycle is kept (spec/03 R65). -/
def State.block (s : State) (obj : WaitObj) (limit : Option Nat) (phase : Nat) : Out :=
  .next (s.modTm fun t => { t.skids with wait := some {
    obj := obj, since := match t.wait with
      | some w => w.since
      | none => s.cycleOf (s.teamCore s.cur)
    limit := limit, phase := phase, result := match t.wait with
      | some w => w.result
      | none => none } })

/-- The stream stays where it is for a turn, with no wait-for entry of its own: an interlock. -/
def stall (s : State) : Out := .next s

/-- Operations in flight of a team that its earlier accesses are: SLDG, SSTG, and every
operation whose token, or whose block's token, it has observed (spec/12 R224). -/
def State.covered (s : State) (t : Nat) : List Nat :=
  (s.ops.filter fun p => p.2.team == t && !p.2.finished && (p.2.cov || (match p.2.kind with
    | .sldg _ => true
    | .sstg _ => true
    | _ => false))).map Prod.fst

/-- An operation, or a home write, with this number is still under way. -/
def State.underWay (s : State) (o : Nat) : Bool := (s.ops.find? o).isSome || (s.hw.find? o).isSome

/-- Whether every operation of a list is over, and every home write of it acknowledged. -/
def State.allOver (s : State) (l : List Nat) : Bool := l.all fun o => !s.underWay o

/-- What a team's fences still hold its later accesses behind (spec/12 R224). -/
def State.fenced (s : State) (t : Nat) : List Nat :=
  ((s.team t).fences.flatMap fun f => f.cover).filter s.underWay

/-- Fences whose covered accesses are all over hold nothing more; a `.cst` one then discards the constant-path copies of
the team's core (spec/12 R224, R225). -/
def State.liftFences (s : State) (t : Nat) : State :=
  let isOver := (s.team t).fences.filter fun f => s.allOver f.cover
  if isOver.isEmpty then s
  else
    let s := if isOver.any (fun f => f.cst) then s.modCore (s.teamCore t) fun x => { x with cc := [] } else s
    s.modTeam t fun x => { x with fences := x.fences.filter fun f => !s.allOver f.cover }

/-- The context is stopping or stopped, or is being debugged. -/
def State.ctxHalted (s : State) (g : Nat) : Bool :=
  match s.ctxs.find? (ctxOf g) with
  | some c => c.halt
  | none => false

/-! ## Registers that the stream may read early (spec/01 R12, spec/03 R62) -/

/-- A load into a scalar register whose token the team has not observed. -/
def Team.uncovered (t : Team) (r : BitVec 6) : Bool := r != 0 && t.loads.any fun e => e.scal && e.reg == r.toNat

/-- A lane block whose token the team has not observed has written the register. -/
def Team.early (t : Team) (mask : Bool) (r : Nat) : Bool := t.dirty.any fun e => e.isMask == mask && e.reg == r

/-- The block with this dispatch number is issuing. -/
def Team.issuing (t : Team) (disp : Nat) : Bool :=
  match t.running with
  | some b => b.disp == disp
  | none => false

/-- The entry whose old value a read gives, where it gives an old one: any read before the block's token has been observed
gives the old or the new value, left open; while the block still issues, what it will leave is not there yet, and a read of
the new value waits for it (`State.awaitsBlock`), so that one that does not wait gives the old value (spec/01 R12, spec/03
R56, R79; DESIGN CHOICE, log entry 36). -/
def Team.earlyPick (t : Team) (free : Nat) (mask : Bool) (r : Nat) : Option Dirty :=
  t.dirty.find? fun e => e.isMask == mask && e.reg == r &&
    (t.issuing e.disp || Config.pick ((free + 1) * 2 ^ 32 + e.disp * 128 + mask.toNat * 64 + r))

/-- A read of these registers is to give what a block that still issues leaves in one of them: the stream waits for the block's
last instruction, a choice that is open anew in each of its turns (spec/01 R12, spec/03 R56, DESIGN CHOICE, log entry 36). -/
def State.awaitsBlock (s : State) (mask : Bool) (rs : List Nat) : Bool :=
  s.tm.dirty.any (fun e => e.isMask == mask && rs.contains e.reg && s.tm.issuing e.disp)
    && Config.pick ((s.free + 1) * 2 ^ 32 + 3 * 2 ^ 30 + mask.toNat)

/-- The value a read of S[r] gives: the register, or an older value that spec/01 R12 and spec/03 R62 allow. -/
def Team.seenS (t : Team) (free : Nat) (r : BitVec 6) : W64 :=
  match t.loads.find? fun e => e.scal && e.done && !e.clob && e.reg == r.toNat && r != 0 && Config.pick ((free + 1) * 2 ^ 32 + 2 ^ 31 + e.reg) with
  | some e => e.oldS
  | none =>
    match t.earlyPick free false r.toNat with
    | some e => if r = 0 then 0 else e.old
    | none => t.getS r

/-- The value a read of M[k] by the scalar stream gives. -/
def Team.seenM (t : Team) (free : Nat) (k : Nat) : Mask :=
  match t.earlyPick free true k with
  | some e => if t.copy then 0 else e.oldM
  | none => t.getM k

/-- The outcome with a change made to its next state. -/
def Out.thenDo (o : Out) (f : State → State) : Out :=
  match o with
  | .next s => .next (f s)
  | .fault x => .fault x
  | .refused x => .refused x

/-- Run a scalar instruction that reads and writes these registers: with CHECK on, one of them that an uncovered
SLDG loads raises CHECK_TOKEN; with CHECK off a read of it gives the old or the new value. So does a read of a
register that an unobserved lane block writes (spec/01 R12, spec/03 R62). -/
def State.withRegs (s : State) (rs ws : List (BitVec 6)) (k : State → Out) : Out :=
  let t := s.tm
  if (rs ++ ws).all (fun r => !t.uncovered r && !t.early false r.toNat) then k s
  else if (rs ++ ws).any t.uncovered && s.tg.check then .next (s.scalarFault kCheckToken .state 0)
  else if s.awaitsBlock false (rs.map BitVec.toNat) then stall s.fresh
  else
    let clob (e : LoadE) : LoadE := if e.scal && (ws.any fun r => r.toNat == e.reg) then { e with clob := true } else e
    let keep (e : Dirty) : Bool := e.isMask || !(ws.any fun r => r.toNat == e.reg)
    let seen := rs.foldl (fun (x : Team) r => x.setS r (t.seenS s.free r)) t
    let s1 := s.fresh.setTeam s.cur { seen with loads := t.loads.map clob, dirty := t.dirty.filter keep }
    let back (r : BitVec 6) (x : Team) : Team := if ws.contains r then x else x.setS r (t.getS r)
    Out.thenDo (k s1) fun s2 => s2.modTeam s.cur fun x => rs.foldl (fun x r => back r x) x

/-! ## Release-ordered actions (spec/22 R350, spec/15 R273) -/

/-- A newer value of a scalar register that some of the dispatched blocks may read (spec/04 R79, spec/03 R62). -/
def Block.hears (r : Nat) (v : W64) (p : Block → Bool) (b : Block) : Block := if p b then { b with later := b.later.set r v } else b
/-- The same in a queue. -/
def QItem.hears (r : Nat) (v : W64) (p : Block → Bool) : QItem → QItem
  | .block b => .block (b.hears r v p)
  | .fmt x => .fmt x
/-- A newer value of a scalar register reaches the blocks that have not issued their last instruction. -/
def Team.tellBlocks (t : Team) (r : Nat) (v : W64) (p : Block → Bool) : Team :=
  { t with running := t.running.map (Block.hears r v p), queue := t.queue.map (QItem.hears r v p) }

/-- Every dispatched lane block has issued its last instruction. -/
def Team.lanesIdle (t : Team) : Bool :=
  t.running.isNone && t.queue.all fun q => match q with
    | .block _ => false
    | .fmt _ => true

/-- Some watch entry is in a state. -/
def Team.watchAny (t : Team) (w : WatchSt) : Bool := t.watch.any fun e => e.st == w

/-- A release-ordered scalar instruction: it waits until earlier lane blocks have issued and the team's watch entries
are resolved, a struck one stops it, and values it has read are settled first (spec/22 R350, spec/15 R273). -/
def State.release (s : State) (k : State → Out) : Out :=
  let t := s.tm
  if !t.lanesIdle then s.block .queue none 0
  else if t.watchAny .unresolved then s.block .watch none 0
  else if t.watchAny .struck then .next (s.scalarFault kStrike .state 0)
  else if !t.unsettled.isEmpty then s.block .settle none 0
  else k s

/-! ## Time (DESIGN CHOICE, log entry 5) -/

/-- Every token of a set is DONE or POISONED. -/
def Team.settled (t : Team) (set : W32) : Bool :=
  (List.range 32).all fun n =>
    let st := (t.getT n).st
    !set.getLsbD n || st == .done || st == .poisoned

/-- A timed wait's condition holds. -/
def Team.met (t : Team) (w : Wait) : Bool :=
  match w.obj with
  | .tokens set => t.settled set
  | _ => w.result.isSome

/-- The result of a timed wait whose limit ends at or before a cycle: 1 met, 0 expired (spec/03 R65). -/
def Team.expire (t : Team) (cycle : Nat) : Team :=
  match t.wait with
  | some w =>
    match w.limit with
    | some l =>
      if w.result.isNone && decide (w.since + l ≤ cycle) && !t.met w then
        { t with wait := some { w with result := some 0 } } else t
    | none => t
  | none => t

/-- Cycles in which a team is not resident, or stopped, do not count toward its limit, nor toward the age of a sealed
watch entry (spec/03 R65, spec/22 R352, spec/23 R359). -/
def Team.pause (t : Team) (cycles : Nat) : Team :=
  let late (e : WatchE) : WatchE := if e.isSealed && e.st == .unresolved then { e with born := e.born + cycles } else e
  { t with wait := t.wait.map (fun w => { w with since := w.since + cycles }), watch := t.watch.map late }

/-- Time passes: a limit that runs out in it is decided by what holds before it passes (spec/03 R65). -/
def State.passTime (s : State) (c0 c1 ns : Nat) : State :=
  let first (t : Nat) : Bool := dieOf (s.teamCore t) = 0
  let late (t : Nat) : Nat := if first t then s.cyc0 + c0 - 1 else s.cyc1 + c1 - 1
  let live (g : Nat) : Bool := (s.gang g).st == .resident
  let pass (t : Nat) (x : Team) : Team :=
    if live (gangOf t) && !x.stopped then x.expire (late t) else x.pause (if first t then c0 else c1)
  let teams := s.teams.map fun (p : Nat × Team) => (p.1, pass p.1 p.2)
  let add (p : Nat × Member) : Member :=
    let c := if dieOf (s.coreNum (p.1 / 4) (p.1 % 4)) = 0 then c0 else c1
    { p.2 with ctr := p.2.ctr.map fun x => if x.2.1 = 1 then (x.1, 1, x.2.2 + BitVec.ofNat 64 c) else x }
  let members := s.members.map fun (p : Nat × Member) => if live (p.1 / 4) then (p.1, add p) else p
  { s with cyc0 := s.cyc0 + c0, cyc1 := s.cyc1 + c1, ns := s.ns + ns, teams := teams, members := members }

end Sys2Proof.Machine
end

