-- ==== Sys2Proof/Machine/Flags.lean ====
section
/-! DEFINITION. Comparisons and status computations: relations of the compare instructions (spec/02 R43, spec/03
R54, spec/04 R83, R87), the mask tests (spec/03 R56), and the status words that instructions return. -/

namespace Sys2Proof.Machine

/-- The conditions of the compare-and-branch instructions (spec/03 R54). -/
inductive Cond where
  | eq | ne | ltS | geS | ltN | geN
deriving DecidableEq, Repr

/-- Whether a condition holds between two register values (spec/03 R54). -/
def Cond.holds (c : Cond) (a b : W64) : Bool :=
  match c with
  | .eq => a == b
  | .ne => a != b
  | .ltS => a.slt b
  | .geS => !a.slt b
  | .ltN => a.ult b
  | .geN => !a.ult b

/-- A truth value as a register value. -/
def boolWord (b : Bool) : W64 := if b then 1 else 0

/-- The relations of VCMP, VFCMP and VFCMPD by code: eq, ne, lt, le, gt, ge (spec/02 R43). -/
def relHolds (code : Nat) (lt eq : Bool) : Bool :=
  match code with
  | 0 => eq
  | 1 => !eq
  | 2 => lt
  | 3 => lt || eq
  | 4 => !(lt || eq)
  | 5 => !lt
  | _ => false

/-- Whether any lane bit of a mask is 1 (SBANY, spec/03 R56). -/
def maskAny (m : Mask) : Bool := m != 0

/-- Whether all lane bits of a team's mask are 1; never in a copy team (SBALL, spec/03 R56). -/
def maskAll (t : Team) (m : Mask) : Bool := !t.copy && m == t.allLanes

/-- The status that TSTAT gives for a token (spec/03 R64). -/
def tokCode (x : TokSt) : Nat :=
  match x with
  | .free => 0
  | .pending => 1
  | .done => 2
  | .poisoned => 3

/-- The status of a phase-barrier wait whose translation fault is unresolvable (spec/12 R222). -/
def unreachedStatus : W64 := 8

/-- What the model keeps for a wait whose barrier on another device does not suit: no status of spec/12 R222 has this bit. -/
def deniedStatus : W64 := 0x10

end Sys2Proof.Machine
end

