-- ==== Sys2Proof/Machine/Mem.lean ====
section
/-! DEFINITION. Translation, scratchpads, near caches and debug stops: the shared operations of every access to
memory (spec/06 R124 to R128, spec/14 R244 to R258, spec/23 R356 to R358). -/

namespace Sys2Proof.Machine

/-! ## Translation (spec/14 R253 to R257) -/

/-- A leaf entry: its two doublewords and the page size in bits. -/
structure Leaf where
  bits : Nat
  dw0 : W64
  dw1 : W64
deriving DecidableEq, Repr

/-- X, W and R of a leaf (spec/14 R254). -/
def Leaf.x (l : Leaf) : Bool := l.dw0.getLsbD 5
def Leaf.w (l : Leaf) : Bool := l.dw0.getLsbD 4
def Leaf.r (l : Leaf) : Bool := l.dw0.getLsbD 3
/-- TYPE: 0 HBM4E, 1 second tier, 2 peer window. -/
def Leaf.type (l : Leaf) : Nat := Sys2Proof.bits l.dw1.toNat 18 2
/-- HOME: 0 device-interleaved, 1 and 2 die-homed. -/
def Leaf.home (l : Leaf) : Nat := Sys2Proof.bits l.dw1.toNat 16 2
/-- The page is sealed, and its version. -/
def Leaf.isSealed (l : Leaf) : Bool := l.dw1.getLsbD 47
def Leaf.version (l : Leaf) : Nat := Sys2Proof.bits l.dw1.toNat 48 16
/-- PEER and WINDOW of a TYPE 2 page. -/
def Leaf.peer (l : Leaf) : Nat := Sys2Proof.bits l.dw1.toNat 34 10
def Leaf.window (l : Leaf) : Nat := Sys2Proof.bits l.dw1.toNat 22 12
/-- The page base: ADDR [51:12]. -/
def Leaf.base (l : Leaf) : Nat := Sys2Proof.bits l.dw0.toNat 12 40 * 2 ^ 12
/-- The physical address, or the offset in a window, of a virtual address on the page. -/
def Leaf.pa (l : Leaf) (va : Nat) : Nat := l.base + va % 2 ^ l.bits

/-- How a walk ends. -/
inductive Walk where
  | leaf (l : Leaf)
  | absent
  /-- Malformed, with the entry's address (spec/14 R256). -/
  | bad (entry : Nat)
deriving DecidableEq, Repr

/-- VA bits below the index of a level (spec/14 R253). -/
def levelShift (level : Nat) : Nat := 12 + 9 * level

/-- The stack of a frame is one of die 0's (spec/14 R241). -/
def frameDie (frame : Nat) : Nat := (frame + frame / 288) % 12 / 6

/-- A leaf entry that breaks no rule of spec/14 R256. -/
def leafOk (secondTier : Bool) (level : Nat) (dw0 dw1 : W64) : Bool :=
  let n0 := dw0.toNat
  let n1 := dw1.toNat
  let size := levelShift level
  let l : Leaf := { bits := size, dw0 := dw0, dw1 := dw1 }
  let cont := bits n1 20 2
  let reserved := bits n0 52 12 == 0 && bits n0 8 4 == 0 && bits n0 0 3 == 0 && bits n1 44 3 == 0 && bits n1 0 16 == 0
  let contOk := match level with
    | 0 => cont != 3
    | 1 => cont == 0 || cont == 2
    | 2 => cont == 0 || cont == 2
    | _ => cont == 0
  let range := match l.type with
    | 0 => decide (l.base + 2 ^ size ≤ Config.hbmEnd)
    | 1 => secondTier && decide (Config.stBase ≤ l.base) && decide (l.base + 2 ^ size ≤ Config.stEnd)
    | 2 => true
    | _ => false
  let homed := match l.home with
    | 0 => true
    | 3 => false
    | h => l.type == 0 && decide (size ≤ 21) && frameDie (l.base / 2 ^ 21) == h - 1
  decide (level < 4) && reserved && contOk && l.base % 2 ^ size == 0 && (l.r || !l.w) && range && homed

/-- Walk from a table of a level: `fuel` is the level plus 1 (spec/14 R253, R254). -/
def State.walkFrom (s : State) (secondTier : Bool) (va : Nat) : Nat → Nat → Walk
  | 0, _ => .absent
  | fuel + 1, table =>
    let idx := if fuel = 4 then bits va 48 6 else bits va (levelShift fuel) 9
    let entry := table + 16 * idx
    let dw0 := s.mem64 entry
    let dw1 := s.mem64 (entry + 8)
    match bits dw0.toNat 6 2 with
    | 0 => .absent
    | 1 =>
      if bits dw0.toNat 52 12 = 0 ∧ bits dw0.toNat 8 5 = 0 ∧ bits dw0.toNat 0 6 = 0 ∧ dw1 = 0 ∧ fuel ≠ 0 then
        s.walkFrom secondTier va fuel (bits dw0.toNat 12 40 * 2 ^ 12)
      else .bad entry
    | 2 => if leafOk secondTier fuel dw0 dw1 then .leaf { bits := levelShift fuel, dw0 := dw0, dw1 := dw1 } else .bad entry
    | _ => .bad entry

/-- The translation that the first entry of the contiguity group of `2 ^ k` entries around an address gives, extended over the
group, where it is a leaf of this page size that declares the group (spec/14 R255). -/
def State.groupFirst (s : State) (part : Part) (secondTier : Bool) (va size k code : Nat) : Option Leaf :=
  let first := va / 2 ^ (size + k) * 2 ^ (size + k)
  match s.walkFrom secondTier first 5 part.cfg.ptRoot with
  | .leaf f =>
    if f.bits = size ∧ bits f.dw1.toNat 20 2 = code then
      some { f with dw0 := f.dw0 + BitVec.ofNat 64 (va / 2 ^ size % 2 ^ k * 2 ^ size) }
    else none
  | _ => none

/-- The translations that the groups around an address may give it: the groups that spec/14 R253 allows, and with a first
entry that declares none the group that the access's own entry declares. -/
def State.groupLeaves (s : State) (part : Part) (secondTier : Bool) (va : Nat) (own : Option Leaf) : List Leaf :=
  let first := s.groupFirst part secondTier va
  let declared := [first 12 2 1, first 12 4 2, first 21 4 2, first 30 4 2]
  let mine := match own with
    | some l => (match bits l.dw1.toNat 20 2 with
      | 0 => []
      | 1 => [0, 2].map (first l.bits 2)
      | _ => [0, 1].map (first l.bits 4))
    | none => []
  (declared ++ mine).filterMap id

/-- Two leaves translate alike. -/
def Leaf.same (l f : Leaf) : Bool :=
  f.bits == l.bits && f.base == l.base && Sys2Proof.bits f.dw0.toNat 3 3 == Sys2Proof.bits l.dw0.toNat 3 3 && f.version == l.version
    && f.isSealed == l.isSealed && f.type == l.type && f.home == l.home && f.peer == l.peer && f.window == l.window

/-- An access in a contiguity group whose entries break its rules takes its own entry, or the group's first entry extended over
the group: which is open (spec/14 R255, DESIGN CHOICE, log entry 6). -/
def State.groupAlt (s : State) (part : Part) (secondTier : Bool) (va : Nat) (own : Walk) : Walk :=
  let leaf := match own with
    | .leaf l => some l
    | _ => none
  let differs (f : Leaf) : Bool := match leaf with
    | some l => !l.same f
    | none => true
  match (s.groupLeaves part secondTier va leaf).find? differs with
  | some f => if Config.pick s.free then .leaf f else own
  | none => own

/-- Walk the page table of a partition (spec/14 R253 to R256). -/
def State.walk (s : State) (p va : Nat) : Walk :=
  match s.parts.find? p with
  | none => .absent
  | some part =>
    let tier := s.accept.getLsbD 1
    s.groupAlt part tier va (s.walkFrom tier va 5 part.cfg.ptRoot)

/-- The entries that a walk reads (spec/14 R254). -/
def State.walkReads (s : State) (va : Nat) : Nat → Nat → List Nat
  | 0, _ => []
  | fuel + 1, table =>
    let idx := if fuel = 4 then bits va 48 6 else bits va (levelShift fuel) 9
    let entry := table + 16 * idx
    let dw0 := s.mem64 entry
    entry :: (if bits dw0.toNat 6 2 = 1 then s.walkReads va fuel (bits dw0.toNat 12 40 * 2 ^ 12) else [])

/-- A TLB's entry for an address (spec/14 R257). -/
def tlbFind (l : List Tlb) (p va : Nat) : Option Leaf :=
  match l.find? fun e => e.part == p && e.vpage == va / 2 ^ e.bits with
  | some e => some { bits := e.bits, dw0 := e.dw0, dw1 := e.dw1 }
  | none => none

/-- The translation that a core's TLB or its die's TLB holds (spec/14 R257). -/
def State.lookup (s : State) (core p va : Nat) : Option Leaf :=
  match tlbFind (s.core core).tlb p va with
  | some l => some l
  | none => tlbFind (s.dieTlb.get [] (dieOf core)) p va

/-- The translation of an address: as a TLB holds it, or by a walk now. -/
def State.translate (s : State) (core p va : Nat) : Walk :=
  match s.lookup core p va with
  | some l => .leaf l
  | none => s.walk p va

/-- Fill both TLBs with a leaf (spec/14 R257). -/
def State.tlbFill (s : State) (core p va : Nat) (l : Leaf) : State :=
  let e : Tlb := { part := p, vpage := va / 2 ^ l.bits, bits := l.bits, dw0 := l.dw0, dw1 := l.dw1 }
  let s := s.modCore core fun c => { c with tlb := (e :: c.tlb.filter (· != e)).take 2048 }
  let d := dieOf core
  { s with dieTlb := s.dieTlb.set d ((e :: (s.dieTlb.get [] d).filter (· != e)).take 65536) }

/-- Invalidate the pages that meet `[lo, hi)` of a partition in every TLB, and strike the sealed watch entries that
depend on them (spec/14 R257, spec/22 R347). -/
def State.tlbInvalidate (s : State) (p lo hi : Nat) : State :=
  let keep (e : Tlb) : Bool := !(e.part == p && decide (e.vpage * 2 ^ e.bits < hi) && decide (lo < (e.vpage + 1) * 2 ^ e.bits))
  let strike (t : Nat) (e : WatchE) : WatchE :=
    if e.isSealed && e.st == .unresolved && decide (lo ≤ e.page) && decide (e.page < hi)
      && !((s.gang (gangOf t)).st == .resident && decide (e.born + 64 ≤ s.cycleOf (s.teamCore t))) then { e with struckSeal := true }
    else e
  let hit (q : Nat) : Bool := partOf (ctxOf (gangOf q)) == p
  { s with
    cores := s.cores.map fun c => (c.1, { c.2 with tlb := c.2.tlb.filter keep })
    dieTlb := s.dieTlb.map fun d => (d.1, d.2.filter keep)
    teams := s.teams.map fun t => if hit t.1 then (t.1, { t.2 with watch := t.2.watch.map (strike t.1) }) else t }

/-- A translation fills the TLBs, where none holds it (spec/14 R257). -/
def State.tlbTouch (s : State) (core p va : Nat) : State :=
  if (s.lookup core p va).isSome then s
  else match s.walk p va with
    | .leaf l => s.tlbFill core p va l
    | _ => s

/-- The Memory core has changed page tables for the host driver: what a TLB still holds of an entry that has changed or is gone
is invalidated (spec/14 R257). -/
def State.tlbRefresh (s : State) : State :=
  let held := (s.cores.flatMap fun c => c.2.tlb) ++ s.dieTlb.flatMap Prod.snd
  let stale (e : Tlb) : Bool :=
    match s.parts.find? e.part with
    | none => true
    | some part =>
      match s.walkFrom (s.accept.getLsbD 1) (e.vpage * 2 ^ e.bits) 5 part.cfg.ptRoot with
      | .leaf l => l.bits != e.bits || l.dw0 != e.dw0 || l.dw1 != e.dw1
      | _ => true
  held.eraseDups.foldl (fun (s : State) e =>
    if stale e then s.tlbInvalidate e.part (e.vpage * 2 ^ e.bits) ((e.vpage + 1) * 2 ^ e.bits) else s) s

/-! ## Scratchpads (spec/06 R124 to R128) -/

/-- Bytes of a member's scratchpad: 16 KiB times SCRATCH (spec/06 R122). -/
def State.padSize (s : State) (g : Nat) : Nat := (s.gang g).scratch * 16384
/-- The key a scratchpad address has among phase barriers. -/
def padKey (m addr : Nat) : Nat := 2 ^ 60 + m * 2 ^ 21 + addr
/-- Bytes of a scratchpad. -/
def Member.bytes (m : Member) (addr n : Nat) : List Byte := (List.range n).map fun i => m.pad.get 0 (addr + i)
/-- Write bytes of a scratchpad. -/
def Member.setBytes (m : Member) (addr : Nat) : List Byte → Member
  | [] => m
  | b :: l => { m with pad := m.pad.put 0 addr b }.setBytes (addr + 1) l
/-- The state of a line: 0 EMPTY, 1 FULL, 2 POISONED; a line not listed is FULL (spec/06 R127). -/
def Member.lineSt (m : Member) (addr : Nat) : BitVec 2 := m.line.get 1 (addr / 128)
/-- Set the state of the line that holds an address. -/
def Member.setLine (m : Member) (addr : Nat) (v : BitVec 2) : Member := { m with line := m.line.put 1 (addr / 128) v }

/-- The requester classes of a scratchpad (spec/06 R124, spec/23 R358). -/
inductive Cls where
  /-- The core's own quarters. -/
  | own
  /-- The core's own copy engine. -/
  | copy
  /-- Another core of the quad. -/
  | quad
  /-- The matrix engine and epilogue. -/
  | matrix
deriving DecidableEq, Repr

/-- The code of a requester class. -/
def Cls.code : Cls → Nat
  | .own => 0
  | .copy => 1
  | .quad => 2
  | .matrix => 3

/-- The lowest watchpoint that an access matches, other than `skip`; `kind` 0 read, 1 write, 2 atomic (spec/23
R356). -/
def Member.spHit (m : Member) (addr n kind : Nat) (c : Cls) (skip : Option Nat) : Option Nat :=
  (List.range 4).find? fun i =>
    let d := (m.spw.get 0 i).toNat
    let lo := bits d 0 21
    bits d 32 1 == 1 && bits d (33 + kind) 1 == 1 && bits d (36 + c.code) 1 == 1
      && decide (addr < lo + 2 ^ bits d 21 3) && decide (lo < addr + n) && skip != some i

/-- The tag of a requester in a scratchpad line it has written: `n` is the quarter, or the core of the quad (spec/06
R125, spec/24 R367). A line that no requester has written is tagged 0. -/
def Cls.tag (c : Cls) (n : Nat) : Nat :=
  match c with
  | .own => 1 + n
  | .copy => 5
  | .quad => 6 + n
  | .matrix => 10

/-- The last write of a line came from another requester of the gang than the one with this tag (spec/24 R367). -/
def Member.foreign (m : Member) (addr tag : Nat) : Bool :=
  let w := m.tag.get 0 (addr / 128)
  w != 0 && w != tag

/-- Store bytes into a scratchpad as lanes and scalar streams do: every line written becomes FULL, and a phase
barrier there is replaced (spec/06 R127, spec/12 R223). -/
def State.padStore (s : State) (mk addr : Nat) (data : List Byte) (full : Bool) (tag : Nat) : State :=
  let n := data.length
  let s := s.modMember mk fun m =>
    let m := m.setBytes addr data
    let lines := (List.range ((addr % 128 + n + 127) / 128)).map fun i => (addr / 128 + i) * 128
    let m := if full then lines.foldl (fun (m : Member) l => m.setLine l 1) m else m
    { m with tag := lines.foldl (fun (t : Sparse Nat) l => t.put 0 (l / 128) tag) m.tag }
  { s with pbars := s.pbars.filter fun p =>
      !(decide (p.1 < padKey mk addr + n) && decide (padKey mk addr < p.1 + 16)) }

/-! ## Debug stops (spec/16 R286, R287, spec/24 R372, R373) -/

/-- A DEBUG_STOP record and the halt line of a debug stop; the record is the one its snapshot names (spec/23 R359).
`detail` has SRC in [63:60]. In a step it ends the step, and the snapshot of the stop that follows names it (spec/23
R360). -/
def State.debugStop (s : State) (c : Nat) (f : FRec) : State :=
  let (s, e) := s.faultRecord (partOf c) (some c) { f with kind := 0x20 }
  let stepped := match s.parts.find? (partOf c) with
    | some p => (match p.session with
      | some x => x.ctx == c && x.step.isSome
      | none => false)
    | none => false
  let s := s.modCtx c fun x => if x.halt && !(stepped && x.st == .stopped) then x else { x with faults := [e] }
  let s := if stepped then s.modPart (partOf c) fun p => { p with session := p.session.map Session.stepHit } else s
  s.raiseHalt c false

/-- A scratchpad watchpoint hit: the record names the requester, and the access is held (spec/23 R357, R358). -/
def State.spStop (s : State) (mk : Nat) (f : FRec) (addr lane kind : Nat) (c : Cls) (wp : Nat) : State :=
  let g := mk / 4
  let core := s.coreNum g (mk % 4)
  s.debugStop (ctxOf g) { f with
    addr := BitVec.ofNat 64 addr,
    detail := BitVec.ofNat 64 (lane * 2 ^ 24 + core * 2 ^ 8 + c.code * 2 ^ 4 + kind * 4 + wp) }

/-! ## Near caches (spec/14 R244, R245, R247) -/

/-- The directory entry of a line at a slice. -/
def State.dir (s : State) (slice line : Nat) : Option Dir := (s.slice slice).dir.find? line

/-- Choose a way for a new directory entry: a set of 16 holds at most 16 entries; with the set full the oldest
listed one is to be evicted first (spec/14 R247, R249). -/
def Slice.dirFull (sl : Slice) (line : Nat) : Option Nat :=
  let set := sl.dir.filter fun p => p.1 / 128 % 2048 == line / 128 % 2048
  if set.length < 16 then none else
    match set with
    | p :: _ => some p.1
    | [] => none

/-- Allocate a directory entry: VERSION starts at the slice's epoch, WRAP at 0 (spec/14 R247). -/
def Slice.allocate (sl : Slice) (line : Nat) : Slice :=
  let d : Dir :=
    { version := sl.epoch, wrap := false, epoch := sl.epoch, quads := false, sharers := [], evict := none }
  { sl with dir := sl.dir.set line d }

/-- Record a core as a sharer; a ninth sharer makes the entry quad-granular (spec/14 R247). -/
def Dir.addSharer (d : Dir) (core : Nat) : Dir :=
  if d.quads then
    if d.sharers.contains (core / 4) then d else { d with sharers := d.sharers ++ [core / 4] }
  else if d.sharers.contains core then d
  else if d.sharers.length < 8 then { d with sharers := d.sharers ++ [core] }
  else { d with quads := true, sharers := (d.sharers.map (· / 4) ++ [core / 4]).eraseDups }

/-- Put a line into a near cache, replacing the least recently used way of its set (spec/14 R244). -/
def CoreHw.nearFill (c : CoreHw) (line : Nat) (x : NLine) : CoreHw :=
  let set := c.near.filter fun p => p.1 % 128 == line % 128 && p.1 != line
  let near := if set.length < 16 then c.near else
    match set.foldl (fun (b : Option (Nat × Nat)) p =>
        match b with
        | none => some (p.1, p.2.used)
        | some (k, u) => if p.2.used < u then some (p.1, p.2.used) else some (k, u)) none with
    | some (k, _) => c.near.del k
    | none => c.near
  { c with near := near.set line x }

/-- Some granule of `[pa, pa + n)` has a marker at its home. -/
def State.markedRange (s : State) (pa n : Nat) : Bool :=
  (List.range ((pa % 64 + n + 63) / 64)).any fun i => s.marked (pa / 64 + i)

/-- A demand or engine access meets an uncorrectable error in `[pa, pa + n)`: the first such granule, with the state
in which that read has been counted (spec/14 R242). -/
def State.eccHit (s : State) (pa n : Nat) : State × Option Nat :=
  match (List.range ((pa % 64 + n + 63) / 64)).find? fun i => (s.ecc.find? (pa / 64 + i)).isSome with
  | none => (s, none)
  | some i =>
    let g := pa / 64 + i
    match s.ecc.find? g with
    | some (some k) => ({ s with ecc := if k ≤ 1 then s.ecc.del g else s.ecc.set g (some (k - 1)) }, some g)
    | _ => (s, some g)

/-- A write of `[pa, pa + n)` that keeps bytes of a granule meets that granule's uncorrectable error; one that replaces the
whole granule does not (spec/11 R211; DEDUCED, log entry 70). -/
def State.partError (s : State) (pa n : Nat) : State × Option Nat :=
  let keeps (i : Nat) : Bool :=
    let lo := (pa / 64 + i) * 64
    (decide (lo < pa) || decide (pa + n < lo + 64)) && (s.ecc.find? (pa / 64 + i)).isSome
  match (List.range ((pa % 64 + n + 63) / 64)).find? keeps with
  | none => (s, none)
  | some i => s.eccHit ((pa / 64 + i) * 64) 64

/-- The stack of a physical address, 15 for the second tier (spec/14 R241, spec/16 R287). -/
def stackOf (pa : Nat) : Nat := if pa < Config.hbmEnd then (pa / 2 ^ 21 + pa / 2 ^ 21 / 288) % 12 else 15

/-- The leaves of a table and of the tables below it, each with its first virtual address (spec/14 R253). -/
def State.leaves (s : State) : Nat → Nat → Nat → List (Nat × Leaf)
  | 0, _, _ => []
  | fuel + 1, table, va =>
    (List.range (if fuel = 4 then 64 else 512)).flatMap fun i =>
      let dw0 := s.mem64 (table + 16 * i)
      let va' := va + i * 2 ^ levelShift fuel
      match bits dw0.toNat 6 2 with
      | 1 => s.leaves fuel (bits dw0.toNat 12 40 * 2 ^ 12) va'
      | 2 => [(va', { bits := levelShift fuel, dw0 := dw0, dw1 := s.mem64 (table + 16 * i + 8) })]
      | _ => []

/-- The virtual ranges of a partition that map a granule, in ascending order (spec/14 R242, spec/16 R287). -/
def State.vranges (s : State) (p granule : Nat) : List (Nat × Nat) :=
  match s.parts.find? p with
  | none => []
  | some pt =>
    (s.leaves 5 pt.cfg.ptRoot 0).filterMap fun e =>
      let l := e.2
      if decide (l.type < 2) && decide (l.base ≤ granule * 64) && decide (granule * 64 < l.base + 2 ^ l.bits) then
        some (e.1 + (granule * 64 - l.base), e.1 + (granule * 64 - l.base) + 63)
      else none

/-- The record of an uncorrectable error at a granule (spec/14 R242, spec/16 R287). Answers ERRSEQ. -/
def State.uncorrectable (s : State) (p : Nat) (ctx : Option Nat) (f : FRec) (granule : Nat) : State × W32 :=
  let vr := s.vranges p granule
  s.faultRecord p ctx { f with
    kind := 0x01, addr := BitVec.ofNat 64 (granule * 64),
    detail := BitVec.ofNat 64 (stackOf (granule * 64) + min vr.length 4 * 16 + (if 4 < vr.length then 128 else 0)),
    ranges := (vr.take 4).flatMap fun r => [BitVec.ofNat 64 r.1, BitVec.ofNat 64 r.2] }

/-- The record of a translation fault that is unresolvable; `why` 0 not present, 1 refused, 2 timeout, 3 malformed
(spec/16 R287). Answers ERRSEQ. -/
def State.unresolvable (s : State) (p : Nat) (ctx : Option Nat) (f : FRec) (va why entry : Nat) : State × W32 :=
  s.faultRecord p ctx { f with
    kind := 0x03, addr := BitVec.ofNat 64 va, detail := BitVec.ofNat 64 (why + entry / 2 ^ 12 * 2 ^ 12) }

/-- A fault record that names an operation as its source (spec/16 R286). -/
def State.opRec (s : State) (o : Op) (unit : Nat) : FRec :=
  { FRec.blank with
    unit := unit, core := s.coreNum o.gang (o.member % 4), team := teamNum o.team % 256, token := o.tok, queue := o.queue,
    gang := (s.gang o.gang).idx, pc := o.pc, word := o.word, wordh := o.wordh, lidx := o.lidx }

/-- The origin record of an event at an operation (spec/11 R206). -/
def State.opOrigin (s : State) (o : Op) (unit attempts errseq : Nat) : W64 :=
  originWord unit (s.coreNum o.gang (o.member % 4)) (teamNum o.team % 256) o.tok
    (if unit = 1 ∧ o.kind = .copy then o.queue else 0) attempts errseq

/-- Hand a translation fault to the Memory core, which forwards it to the driver through the page-request ring
(spec/14 R258, spec/18 R311). -/
def State.handFault (s : State) (g va access : Nat) (op : Option (Nat × Nat)) (agent : Option Agent) : State × Nat :=
  let p := (s.gang g).part
  match s.parts.find? p with
  | none => (s, 0)
  | some pt =>
    let tag := pt.prTag
    let s := s.modPart p fun x => { x with prTag := tag + 1 }
    let f : TFault := { tag := tag, part := p, ctx := ctxOf g, gang := g, va := va, access := access, op := op, agent := agent,
                        since := s.ns, answer := none }
    let s := { s with tfaults := s.tfaults ++ [f] }
    let ws : List W64 := [BitVec.ofNat 64 va, BitVec.ofNat 64 (ctxOf g % 256 + access * 256), BitVec.ofNat 64 tag, 0]
    let s := if s.ringFree pt.cfg.prq 124 then s.ringPut pt.cfg.prq 124 32 ws else s
    (s.push [.event .translationTimeout { Args.none with x := p, w := BitVec.ofNat 64 tag }], tag)

/-- What a stream that may park on an address does next: it parks, or a refusal of its fault has arrived with this
DETAIL code (spec/14 R258). -/
def State.parkStream (s : State) (g va access : Nat) (a : Agent) : State × Option Nat :=
  match s.tfaults.find? fun f => f.agent == some a && f.va == va && f.access == access with
  | none => ((s.handFault g va access none (some a)).1, none)
  | some f =>
    match f.answer with
    | none => (s, none)
    | some why => ({ s with tfaults := s.tfaults.filter fun x => !(x.part == f.part && x.tag == f.tag) }, some why)

/-! ## The constant path (spec/03 R59, spec/14 R246, spec/12 R225) -/

/-- How a constant-path read ends. -/
inductive CRead where
  /-- The doubleword, and whether its granule is marked. -/
  | value (v : W64) (marked : Bool)
  /-- The page is not present. -/
  | absent (va : Nat)
  /-- The access is not allowed. -/
  | denied
  /-- The entry is malformed. -/
  | bad (va entry : Nat)
  /-- The fill meets an uncorrectable error at this granule. -/
  | error (granule : Nat)
deriving DecidableEq, Repr

/-- The doubleword at an offset in a constant-cache line. -/
def lineRead (l : List Byte × List Bool) (off : Nat) : CRead :=
  .value (BitVec.ofNat 64 (bytesNat ((l.1.drop off).take 8))) (listGet false l.2 (off / 64))

/-- A full constant cache of 64 KiB makes room: which line it drops is open (spec/14 R246, DESIGN CHOICE, log entry 6). -/
def State.constRoom (s : State) (core : Nat) : State :=
  let held := (s.core core).cc
  if held.length < 512 then s
  else
    let k := (held.map Prod.fst).getD ((Config.freeWord s.free).toNat % held.length) 0
    s.fresh.modCore core fun c => { c with cc := c.cc.del k }

/-- Fill a line of a core's constant cache from its home; a line with an uncorrectable error elsewhere in it is read and not
kept (spec/14 R246; DEDUCED, log entry 70). -/
def State.constFill (s : State) (core p va : Nat) : State × CRead :=
  match s.translate core p va with
  | .absent => (s, .absent va)
  | .bad e => (s, .bad va e)
  | .leaf l =>
    if !l.r || l.type != 0 then (s, .denied)
    else
      let s := s.tlbFill core p va l
      let pa := l.pa (va / 128 * 128)
      let (s, hit) := s.eccHit (l.pa va) 1
      match hit with
      | some g => (s, .error g)
      | none =>
        let x := (s.memBytes pa 128, [s.marked (pa / 64), s.marked (pa / 64 + 1)])
        let bad := (s.ecc.find? (pa / 64)).isSome || (s.ecc.find? (pa / 64 + 1)).isSome
        (if bad then s else (s.constRoom core).modCore core fun c => { c with cc := c.cc.set (va / 128) x }, lineRead x (va % 128))

/-- A constant-path read of a doubleword: from the constant cache, or by a fill. -/
def State.constRead (s : State) (core p va : Nat) : State × CRead :=
  match (s.core core).cc.find? (va / 128) with
  | some x => (s, lineRead x (va % 128))
  | none => s.constFill core p va

/-- The outstanding translation fault with a tag. -/
def State.tfault (s : State) (p tag : Nat) : Option TFault := s.tfaults.find? fun f => f.part == p && f.tag == tag

end Sys2Proof.Machine
end

