-- ==== Sys2Proof/Machine/Sched.lean ====
section
/-! DEFINITION. Completion records, event counters and the retirement of gangs and launches: what instructions and the
Scheduler's steps share (spec/07 R136, R138, R139, R145 to R147, spec/06 R121). -/

namespace Sys2Proof.Machine

/-- The kinds of a completion record (spec/07 R139). -/
def kRetired : Nat := 1
def kRejected : Nat := 2
def kPlacementFailed : Nat := 3
def kDeadlineMiss : Nat := 4
def kContextHalted : Nat := 5

/-- The doublewords of a completion record (spec/07 R139). -/
def completionWords (part ctx cause kind : Nat) (tag : W64) (ns : Nat) (detail : W64) : List W64 :=
  [ BitVec.ofNat 64 (part * 2 ^ 24 + ctx * 2 ^ 16 + cause * 2 ^ 8 + kind), tag, BitVec.ofNat 64 ns, detail, 0, 0, 0, 0 ]

/-- Where the blank of a context's launch is kept, as it was verified. -/
def blankKey (c : Nat) : Nat := 2 ^ 63 + c

/-- A turn of an agent of a context. -/
def Turn.ofCtx (c : Nat) : Turn → Bool
  | .agent a => ctxOf (agentGang a) == c
  | _ => false

/-- What the gangs of a context's last launch left behind goes: their registers, scratchpads and line states stand until the number is
used again (spec/07 R138, spec/13 R239). -/
def State.dropGangs (s : State) (c : Nat) : State :=
  let ofC (g : Nat) : Bool := ctxOf g != c
  { s with
    gangs := s.gangs.filter fun p => ofC p.1
    teams := s.teams.filter fun p => ofC (gangOf p.1)
    members := s.members.filter fun p => ofC (p.1 / 4)
    agenda := s.agenda.filter fun t => !t.ofCtx c }

/-- Forget a context: its number is free, and the Parser may take the records that wait for one (spec/07 R138); what its gangs hold
stands as it is, and none of them moves (spec/13 R239). -/
def State.freeCtx (s : State) (c : Nat) : State :=
  let ofC (g : Nat) : Bool := ctxOf g != c
  let s := { s with
    ctxs := s.ctxs.del c
    gangs := s.gangs.map fun (p : Nat × Gang) => if ofC p.1 then p else (p.1, { p.2 with st := .retired })
    images := s.images.del (blankKey c)
    ckpts := s.ckpts.filter fun p => ofC p.1
    journals := s.journals.filter fun p => ofC p.1
    replayJ := s.replayJ.filter fun p => ofC p.1
    orders := s.orders.filter fun p => ofC p.1
    replayO := s.replayO.filter fun p => ofC p.1
    ops := s.ops.filter fun p => ofC p.2.gang }
  let s := s.modPart (partOf c) fun p => match p.session with
    | some x => if x.ctx = c then { p with session := none } else p
    | none => p
  s.post .submissionResume (partOf c)

/-- A completion record has entered the ring: a final one frees its context's number (spec/07 R138). -/
def State.entered (s : State) (ws : List W64) : State :=
  let d := (ws.headD 0).toNat
  let kind := bits d 0 8
  if kind = kRetired ∨ kind = kPlacementFailed ∨ kind = kContextHalted then
    s.freeCtx (bits d 24 3 * 256 + bits d 16 8)
  else s

/-- Write a completion record of a partition, or hold it while the ring is full, with the TIME at which it was produced (spec/07 R136,
R139; DESIGN CHOICE, log entry 59). -/
def State.complete (s : State) (p : Nat) (ws : List W64) : State :=
  match s.parts.find? p with
  | none => s
  | some pt =>
    if pt.heldC.isEmpty && s.ringFree pt.cfg.compq 62 then (s.ringPut pt.cfg.compq 62 64 ws).entered ws
    else
      let s := s.modPart p fun x => { x with heldC := x.heldC ++ [ws] }
      s.modCtx (p * 256 + bits (ws.headD 0).toNat 16 8) fun c => { c with held := true }

/-- The completion record of a context's launch. -/
def State.completeCtx (s : State) (c kind : Nat) (detail : W64) : State :=
  match s.ctxs.find? c with
  | none => s
  | some x => s.complete (partOf c) (completionWords (partOf c) (c % 256) 0 kind x.tag s.ns detail)

/-- A turn in which the Scheduler applies a signal, once the accesses it follows are over; then, with `fin`, the
launch it retires is complete (spec/07 R145, spec/03 R67). `from_` is the number after its context's for an EVSIG, 0
for the others: a halted context's signals are not applied (spec/16 R288). -/
def signalTurn (name : Nat) (after : List Nat) (from_ : Nat) (fin : Option Nat) : Turn :=
  .event .eventSignal { Args.none with x := name, y := from_, list := after, slot := fin }

/-- The valid event names of a launch, in order. -/
def Ctx.names (c : Ctx) : List Nat := c.sigs.filterMap id

/-- Teams that become resident after the launch has missed its deadline, or are when it does, take DEADLINE once (spec/16 R282). -/
def State.lateDeadline (s : State) (g : Nat) (missed : Bool) : State :=
  if missed && (s.gang g).haddr.getLsbD TrapClass.deadline.bit then
    s.each (s.teamsOf g) fun s t => s.modTeam t fun x => { x with deadlineDue := true }
  else s

/-- The deadline of a launch has expired, and it has not yet missed (spec/07 R150). -/
def State.expired (s : State) (x : Ctx) : Bool :=
  x.elig && x.deadline != 0 && !x.missed && decide (x.since + x.deadline * 1000 ≤ s.ns)

/-- A launch misses its deadline, once: a record, its MISS signal, and the DEADLINE class for its teams (spec/07 R150, spec/16
R282). -/
def State.missDeadline (s : State) (c : Nat) (x : Ctx) : State :=
  let s := s.modCtx c fun x => { x with missed := true }
  let s := s.completeCtx c kDeadlineMiss (BitVec.ofNat 64 (x.retired + (x.gangs - x.placed) * 2 ^ 32))
  let s := match x.miss with
    | some n => s.push [signalTurn n [] 0 none]
    | none => s
  s.each ((s.gangsOf c).filter fun g => (s.gang g).st != .retired) fun s g => s.lateDeadline g true

/-- A launch has finished: it applies its signals in order and writes its RETIRED record after them (spec/07 R145); if its deadline
has expired by now it has missed before that (R150); its ARMED trigger slots become IDLE (spec/12 R233). -/
def State.launchRetire (s : State) (c : Nat) : State :=
  match s.ctxs.find? c with
  | none => s
  | some x =>
    let mine (o : Nat) : Bool := match s.ops.find? o with
      | some op => ctxOf op.gang == c
      | none => false
    let slots := s.slots.map fun (p : Nat × Slot) => if p.2.st = .armed ∧ mine p.2.op then (p.1, Slot.blank) else p
    let s := { s with slots := slots }
    let s := if s.expired x then s.missDeadline c x else s
    let s := s.modCtx c fun x => { x with st := .ended }
    let last := x.names.length - 1
    let one (p : Nat × Nat) : Turn :=
      .event .eventSignal { Args.none with x := p.1, z := c + 1, v := p.2, slot := if p.2 = last then some c else none }
    if x.names.isEmpty then s.completeCtx c kRetired 0 else s.push (x.names.zipIdx.map one)

/-- A launch whose waits are all satisfied becomes eligible: its deadline counter starts, and it is placed, or, for a
signal-only record, signals and retires at once (spec/07 R137, R146, R150). -/
def State.makeEligible (s : State) (c : Nat) : State :=
  match s.ctxs.find? c with
  | none => s
  | some x =>
    if x.st != .waiting || x.batch || !x.waits.isEmpty then s
    else if x.signalOnly then s.launchRetire c
    else
      let s := s.modCtx c fun x => { x with st := .eligible, since := s.ns, elig := true }
      let s := if x.deadline = 0 then s else s.post .deadlineExpiry c
      s.post .gangPlacement (partOf c)

/-- A wait is satisfied (spec/07 R146). -/
def waitMet (counter target : W32) : Bool := !(counter - target).getLsbD 31

/-- Apply one signal to an event counter: launches whose waits it satisfies become eligible in the order in which
their waits were entered (spec/07 R146, R147). -/
def State.signal (s : State) (name : Nat) : State :=
  let v := s.evt.get 0 name + 1
  let s := { s with evt := s.evt.put 0 name v }
  let sat (w : EvWait) : Bool := w.name == name && waitMet v w.target
  let ready := s.ctxs.flatMap fun p => (p.2.waits.filter sat).map fun w => (w.order, p.1)
  let rest (c : Ctx) : Ctx := { c with waits := c.waits.filter fun w => !sat w }
  let s := { s with ctxs := s.ctxs.map fun (p : Nat × Ctx) => (p.1, rest p.2) }
  s.each ((sortKeys ready).map Prod.snd) fun s c => s.makeEligible c

/-- Take a gang off its cores (spec/06 R121). -/
def State.vacate (s : State) (g : Nat) : State :=
  let out (c : CoreHw) : CoreHw :=
    { c with issuing := if c.issuing = some g then none else c.issuing, shadow := if c.shadow = some g then none else c.shadow }
  s.each (s.gang g).cores fun s c => s.modCore c out

/-- Every team of the gang has exited, and its sequencer, if it has one, has executed MHALT (spec/03 R72). -/
def State.gangDone (s : State) (g : Nat) : Bool :=
  (s.teamsOf g).all (fun t => (s.team t).exited) && (!(s.gang g).hasSeq || (s.gang g).halted)

/-- Arrivals of the gang that no token names are on their way to their phase barriers; one that waits on preconditions is not
(DEDUCED, log entry 18). -/
def State.arrivalsOut (s : State) (g : Nat) : Bool :=
  s.ops.any fun p => p.2.gang == g && p.2.waiting == 0 && match p.2.kind with
    | .texp _ => true
    | .credit => true
    | _ => false

/-- The gang retires once it is done; the last one retires its launch (spec/03 R72, spec/06 R121). Arrivals on their way are
made first: the Scheduler looks again (DEDUCED, log entry 18). -/
def State.gangCheck (s : State) (g : Nat) : State :=
  if !s.gangDone g || (s.gang g).st == .retired then s
  else if s.arrivalsOut g then s.post .gangPlacement (partOf (ctxOf g))
  else
    let c := ctxOf g
    let s := (s.vacate g).modGang g fun x => { x with st := .retired }
    let s := s.modCtx c fun x => { x with retired := x.retired + 1 }
    match s.ctxs.find? c with
    | none => s
    | some x =>
      let s := s.post .gangPlacement (partOf c)
      if x.retired = x.gangs then s.launchRetire c else s

/-- The register units that a team with this budget holds (spec/06 R123). -/
def teamUnits (t : Team) (budget : Nat) : Nat :=
  let reserve := ((t.depth - 32) * (16 + t.width / 4) + 1023) / 1024
  if t.copy || t.exited then 0 else budget * (t.width / 32) + reserve
/-- Register units of a member core that no team holds. -/
def State.freeUnits (s : State) (g m : Nat) : Nat :=
  let used := ((s.teamsOf g).filter fun t => (s.team t).core == m).foldl
    (fun n t => n + teamUnits (s.team t) (s.team t).budget) 0
  16 * (s.gang g).lanesU - used

end Sys2Proof.Machine
end

