-- ==== Sys2Proof/Machine/Barrier.lean ====
section
/-! DEFINITION. Gang barriers, groups and event signals (spec/03 R66, R67, spec/06 R129 to R131, spec/07 R145 to R147).
A wait on a barrier keeps what it waits for in its `phase`: 1 the member's own last arrival, 0 the same before an arrival or
a binding that is still to be made, p + 2 phase p. -/

namespace Sys2Proof.Machine

/-- A barrier of a gang. -/
def Gang.bar (g : Gang) (n : Nat) : Bar := g.bars.get .blank n
/-- Write a barrier of a gang. -/
def Gang.setBar (g : Gang) (n : Nat) (b : Bar) : Gang := { g with bars := g.bars.set n b }
/-- The members of a group. -/
def Gang.group (g : Gang) (n : Nat) : BitVec 257 := g.groups.get 0 n
/-- What one of a member's own events makes of a group. -/
def BEvKind.onGroup (e : BEvKind) (k m : Nat) (s : BitVec 257) : BitVec 257 :=
  match e with
  | .join j => if j.toNat = k then s ||| (1 <<< m : BitVec 257) else s
  | .leave j => if j.toNat = k then s &&& ~~~(1 <<< m : BitVec 257) else s
  | .leaveAll => s &&& ~~~(1 <<< m : BitVec 257)
  | .arrive _ _ => s
/-- A group as one of the gang's members sees it: with its own joins and leaves that are still on their way. -/
def Gang.ownGroup (g : Gang) (k m : Nat) : BitVec 257 :=
  (g.bevents.filter fun e => e.mem == m).foldl (fun s e => e.kind.onGroup k m s) (g.group k)
/-- The member is in the group bound to the barrier (spec/03 R66). -/
def Gang.belongs (g : Gang) (n m : Nat) : Bool :=
  match (g.bar n).bound with
  | some k => (g.ownGroup k.toNat m).getLsbD m
  | none => false
/-- The member has an event on its way to the barrier unit. -/
def Gang.unapplied (g : Gang) (m : Nat) : Bool := g.bevents.any fun e => e.mem == m
/-- The member's arrival at a barrier is on its way. -/
def Gang.arriving (g : Gang) (n m : Nat) : Bool :=
  g.bevents.any fun e => e.mem == m && match e.kind with
    | .arrive b _ => b.toNat == n
    | _ => false

/-- Complete the open phase of a barrier if every member of its group has arrived (spec/06 R130). -/
def Gang.evaluate (g : Gang) (n : Nat) : Gang :=
  let b := g.bar n
  match b.bound with
  | none => g
  | some k =>
    if b.arrivals ≠ 0 ∧ g.group k.toNat &&& ~~~b.arrivals = 0 then
      g.setBar n { b with
        phase := b.phase + 1, arrivals := 0, pois := false,
        poisoned := if b.pois then b.poisoned ++ [b.phase] else b.poisoned,
        bound := match b.rebind with
          | some r => some r
          | none => b.bound
        rebind := none }
    else g

/-- A member departs from a group: its arrivals at the barriers bound to it go with it (spec/06 R130). -/
def Gang.depart (g : Gang) (m : Nat) (k : BitVec 3) : Gang :=
  let bit : BitVec 257 := 1 <<< m
  if !(g.group k.toNat).getLsbD m then g
  else
    let g := { g with groups := g.groups.set k.toNat (g.group k.toNat &&& ~~~bit) }
    (List.range 16).foldl (fun (g : Gang) n =>
      let b := g.bar n
      if b.bound = some k then (g.setBar n { b with arrivals := b.arrivals &&& ~~~bit }).evaluate n else g) g

/-- Apply one event at the barrier unit (spec/06 R130, R131). -/
def Gang.apply (g : Gang) (e : BEv) : Gang :=
  match e.kind with
  | .arrive n pois =>
    let b := g.bar n.toNat
    (g.setBar n.toNat { b with
      arrivals := b.arrivals ||| (1 <<< e.mem), pois := b.pois || pois,
      last := b.last.set e.mem (b.phase, false) }).evaluate n.toNat
  | .join k => { g with groups := g.groups.set k.toNat (g.group k.toNat ||| (1 <<< e.mem)) }
  | .leave k => g.depart e.mem k
  | .leaveAll => (List.range 8).foldl (fun (g : Gang) k => g.depart e.mem (BitVec.ofNat 3 k)) g

/-- Put an event into a list by ascending member, after those of the same member. -/
def insertEv (a : BEv) : List BEv → List BEv
  | [] => [a]
  | b :: l => if a.mem < b.mem then a :: b :: l else b :: insertEv a l

/-- Send an event of a member to the barrier unit, ordered after the accesses its release covers. -/
def State.toUnit (s : State) (g m : Nat) (k : BEvKind) (after : List Nat) : State :=
  (s.modGang g fun x => { x with bevents := x.bevents ++ [{ mem := m, kind := k, after := after }] }).post
    .barrierUnitEvent g

/-- BARRIER_UNIT_EVENT (spec/06 R131): the events that have reached the unit, in ascending member number; one whose
earlier accesses are not over yet is still on its way. -/
def execBarrierUnitEvent (s : State) : Out :=
  let g := s.arg.x
  let all := (s.gang g).bevents
  let here := all.filter fun e => s.allOver e.after
  let rest := all.filter fun e => !s.allOver e.after
  let sorted := here.foldl (fun l e => insertEv e l) []
  let s := s.modGang g fun x => sorted.foldl Gang.apply { x with bevents := rest }
  .next (if rest.isEmpty then s else s.defer .barrierUnitEvent)

/-- The team's number, which is its member number (spec/01 R23). -/
def State.self (s : State) : Nat := teamNum s.cur

/-- Run on a barrier that the team may act on: its membership is checked, its own joins and leaves counted in (spec/03
R66). -/
def State.asMember (s : State) (n : BitVec 4) (k : State → Out) : Out :=
  if !s.tg.belongs n.toNat s.self then faultAt s kProtection (n.zeroExtend 64)
  else k s

/-- The wait of the team on a barrier, if it has one. -/
def State.barWait (s : State) : Option Wait :=
  match s.tm.wait with
  | some w => (match w.obj with
    | .barrier _ => some w
    | _ => none)
  | none => none

/-- Begin to wait on a barrier. -/
def State.waitBar (s : State) (n : BitVec 4) (ph : Nat) : Out := (s.post .barrierRelease s.cur).block (.barrier n) none ph

/-- Arrive, after the accesses that the release covers (spec/03 R66, spec/15 R265). -/
def State.arriveBar (s : State) (n : BitVec 4) : State :=
  s.toUnit (gangOf s.cur) s.self (.arrive n false) (s.covered s.cur)

/-- A release, then the team's arrival once its earlier arrival's phase is over (spec/03 R66). -/
def State.beginArrive (s : State) (n : BitVec 4) (k : State → Out) : Out :=
  s.asMember n fun s =>
    s.release fun s =>
      let b := s.tg.bar n.toNat
      if s.tg.arriving n.toNat s.self then s.waitBar n 0
      else if b.arrivals.getLsbD s.self then s.waitBar n (b.phase.toNat + 2) else k s

/-- BAR.ARR (spec/03 R66). -/
def execBarArr (n : BitVec 4) (s : State) : Out :=
  match s.barWait with
  | some w =>
    (match w.result with
     | some _ => .next (s.arriveBar n).advance
     | none => stall s)
  | none => s.beginArrive n fun s => .next (s.arriveBar n).advance

/-- A wait on a barrier returns: the member's last arrival counts as waited on, and a poisoned phase takes the
poison-read class (spec/03 R66, spec/16 R282); the flag is journalled (spec/24 R367). -/
def State.barReturn (s : State) (n : BitVec 4) (pois : W64) : Out :=
  let s := s.modGang (gangOf s.cur) fun g =>
    let b := g.bar n.toNat
    match b.last.find? s.self with
    | some (p, _) => g.setBar n.toNat { b with last := b.last.set s.self (p, true) }
    | none => g
  let s := (s.note (.scalar s.cur) s.tm.rwc [pois]).advance
  .next (if pois = 0 then s else s.classTrap .poisonRead n.toNat)

/-- A completed phase of a barrier was poisoned. -/
def Bar.bad (b : Bar) (p : W32) : W64 := if b.poisoned.contains p then 1 else 0

/-- BAR.WAIT (spec/03 R66). -/
def execBarWait (n : BitVec 4) (s : State) : Out :=
  match s.barWait with
  | some w =>
    (match w.result with
     | some v => s.barReturn n v
     | none => stall s)
  | none =>
    s.asMember n fun s =>
      let b := s.tg.bar n.toNat
      let p := match b.last.find? s.self with
        | some (p, false) => p
        | _ => b.phase
      if s.tg.arriving n.toNat s.self then s.waitBar n 1
      else if p = b.phase then s.waitBar n (p.toNat + 2) else s.barReturn n (b.bad p)

/-- BAR.SYNC (spec/03 R66). -/
def execBarSync (n : BitVec 4) (s : State) : Out :=
  match s.barWait with
  | some w =>
    (match w.result with
     | some v =>
       if w.phase = 1 then s.barReturn n v
       else ((s.modTm fun t => { t with wait := none }).arriveBar n).waitBar n 1
     | none => stall s)
  | none => s.beginArrive n fun s => ((s.modTm fun t => { t with wait := none }).arriveBar n).waitBar n 1

/-- BARRIER_RELEASE (spec/06 R131): the release of a completed phase reaches a waiter; team 256 is the sequencer. -/
def execBarrierRelease (s : State) : Out :=
  let t := s.arg.x
  let g := gangOf t
  let m := teamNum t
  let w? := if m = 256 then (s.gang g).swait else (s.team t).wait
  match w? with
  | none => .next s
  | some w =>
    match w.obj with
    | .barrier n =>
      let b := (s.gang g).bar n.toNat
      let p : Option W32 :=
        if w.phase ≤ 1 then (if (s.gang g).arriving n.toNat m then none else (b.last.find? m).map Prod.fst)
        else some (BitVec.ofNat 32 (w.phase - 2))
      (match p with
       | some p =>
         if w.result.isSome then .next s
         else if p = b.phase then .next (s.defer .barrierRelease)
         else
           let w' := { w with result := some (b.bad p) }
           .next (if m = 256 then s.modGang g fun x => { x with swait := some w' }
                  else s.modTeam t fun x => { x with wait := some w' })
       | none => .next (s.defer .barrierRelease))
    | _ => .next s

def execJoin (g : BitVec 3) (s : State) : Out := .next (s.toUnit (gangOf s.cur) s.self (.join g) []).advance
def execLeave (g : BitVec 3) (s : State) : Out := .next (s.toUnit (gangOf s.cur) s.self (.leave g) []).advance

/-- BIND: at once with no arrivals in the open phase, else from the next phase, the team waiting (spec/03 R66). -/
def execBind (n : BitVec 4) (g : BitVec 3) (s : State) : Out :=
  match s.barWait with
  | some w => if w.result.isSome then .next s.advance else stall s
  | none =>
    if s.tg.arriving n.toNat s.self then
      (s.modGang (gangOf s.cur) fun x => x.setBar n.toNat { x.bar n.toNat with rebind := some g }).waitBar n 0
    else
      let b := s.tg.bar n.toNat
      if b.arrivals = 0 then
        .next (s.modGang (gangOf s.cur) fun x => x.setBar n.toNat { b with bound := some g, rebind := none }).advance
      else
        (s.modGang (gangOf s.cur) fun x => x.setBar n.toNat { b with rebind := some g }).waitBar n (b.phase.toNat + 2)

/-- What GRP gives (spec/03 R66). -/
def Gang.grpWord (g : Gang) (k : BitVec 3) (m : Nat) : W64 :=
  let set := g.ownGroup k.toNat m
  let count := ((List.range 257).filter fun i => set.getLsbD i).length
  let bound := (List.range 16).foldl (fun n j => if (g.bar j).bound = some k then n + 2 ^ j else n) 0
  BitVec.ofNat 64 ((set.getLsbD m).toNat + count * 2 ^ 16 + bound * 2 ^ 32)

def execGrp (sd : BitVec 6) (g : BitVec 3) (s : State) : Out :=
  s.withRegs [] [sd] fun s =>
    .next (s.wS sd (s.tg.grpWord g s.self)).advance

/-- EVSIG (spec/03 R66, R67): the name is in the partition's range, the release is at device scope, and a replay drops
the signal (spec/24 R369). -/
def execEvsig (sa : BitVec 6) (s : State) : Out :=
  s.withRegs [sa] [] fun s =>
    let name := (s.rS sa).toNat % 2 ^ 16
    match s.parts.find? s.tg.part with
    | none => faultAt s kProtection (BitVec.ofNat 64 name)
    | some p =>
      if name < p.cfg.ev0 ∨ p.cfg.ev1 < name then faultAt s kProtection (BitVec.ofNat 64 name)
      else
        s.release fun s =>
          let sig := signalTurn name (s.covered s.cur) (ctxOf (gangOf s.cur) + 1) none
          .next (if s.replaying (gangOf s.cur) then s else s.push [sig]).advance

/-- EVENT_SIGNAL (spec/07 R145 to R147): the Scheduler applies a signal, and after the last one of a retiring launch
its RETIRED record is written. -/
def execEventSignal (s : State) : Out :=
  let x := s.arg
  let sooner (t : Turn) : Bool := match t with
    | .event .eventSignal y => x.z != 0 && y.z == x.z && decide (y.v < x.v)
    | _ => false
  if !s.allOver x.list || s.agenda.any sooner then .next (s.defer .eventSignal)
  else
    let halted := match s.ctxs.find? (x.y - 1) with
      | some c => decide (x.y ≠ 0) && c.halt
      | none => false
    let s := if halted then s else s.signal x.x
    .next (match x.slot with
      | some c => s.completeCtx c kRetired 0
      | none => s)

end Sys2Proof.Machine
end

