-- ==== Sys2Proof/Machine/Float.lean ====
section
/-! DEFINITION. Float arithmetic: the exact value of an encoding, one rounding of an exact result, and the functions
of the lane units, the conversions, the atomics and the epilogue (spec/04 R84 to R88, R93, spec/10 R188 to R193). -/

namespace Sys2Proof.Machine

/-- A float format (spec/10 R188). -/
structure FFmt where
  /-- Bits of the exponent field. -/
  ebits : Nat
  /-- Bits of the fraction. -/
  frac : Nat
  bias : Nat
  /-- The largest finite code without its sign. -/
  big : Nat
  /-- The format has infinities, their code one above `big`. -/
  hasInf : Bool
  /-- The canonical NaN. -/
  nan : Nat
deriving DecidableEq, Repr

/-- FP32, FP16, BF16, E4M3 and E5M2 (spec/10 R188). -/
def f32 : FFmt := { ebits := 8, frac := 23, bias := 127, big := 0x7F7FFFFF, hasInf := true, nan := 0x7FC00000 }
def f16 : FFmt := { ebits := 5, frac := 10, bias := 15, big := 0x7BFF, hasInf := true, nan := 0x7E00 }
def b16 : FFmt := { ebits := 8, frac := 7, bias := 127, big := 0x7F7F, hasInf := true, nan := 0x7FC0 }
def e4m3 : FFmt := { ebits := 4, frac := 3, bias := 7, big := 0x7E, hasInf := false, nan := 0x7F }
def e5m2 : FFmt := { ebits := 5, frac := 2, bias := 15, big := 0x7B, hasInf := true, nan := 0x7E }

/-- Bits below the sign. -/
def FFmt.low (f : FFmt) : Nat := f.ebits + f.frac
/-- Bits of an encoding. -/
def FFmt.width (f : FFmt) : Nat := f.low + 1

/-- A float value: a NaN, an infinity, or plus or minus `n` times 2^-149. -/
inductive Num where
  | nan
  | inf (neg : Bool)
  | fin (neg : Bool) (n : Nat)
deriving DecidableEq, Repr

/-- The value of an encoding (spec/10 R188). -/
def FFmt.value (f : FFmt) (c : Nat) : Num :=
  let neg := decide (bits c f.low 1 = 1)
  let e := bits c f.frac f.ebits
  let fr := c % 2 ^ f.frac
  let m := c % 2 ^ f.low
  if f.big < m then (if f.hasInf && m == f.big + 1 then .inf neg else .nan)
  else if e = 0 then .fin neg (fr * 2 ^ (150 - f.bias - f.frac))
  else .fin neg ((2 ^ f.frac + fr) * 2 ^ (e - 1 + (150 - f.bias - f.frac)))

/-- The rounding modes (spec/01 R17). -/
inductive RMode where
  | rne | rtz | rup | rdn
deriving DecidableEq, Repr

/-- The mode with a code: 0 RNE, 1 RTZ, 2 RUP, 3 RDN (spec/01 R17). -/
def RMode.ofCode (n : Nat) : RMode :=
  match n with
  | 0 => .rne
  | 1 => .rtz
  | 2 => .rup
  | _ => .rdn

/-- Whether a magnitude with whole part `i`, remainder `r` of divisor `d`, rounds away from zero (spec/10 R192). -/
def RMode.up (m : RMode) (neg : Bool) (i r d : Nat) : Bool :=
  match m with
  | .rne => decide (d < 2 * r) || (decide (2 * r = d) && decide (i % 2 = 1))
  | .rtz => false
  | .rup => !neg && decide (r ≠ 0)
  | .rdn => neg && decide (r ≠ 0)

/-- The quotient of a division, rounded to a whole number. -/
def RMode.whole (m : RMode) (neg : Bool) (num den : Nat) : Nat :=
  let i := num / den
  if m.up neg i (num % den) den then i + 1 else i

/-- The code of the magnitude num/den rounded to a format's precision, as though its exponent range had no upper end
(spec/10 R192). -/
def FFmt.magnitude (f : FFmt) (m : RMode) (neg : Bool) (num den : Nat) : Nat :=
  let u := num * 2 ^ (f.bias - 1 + f.frac)
  let l := u / den
  let k := if l < 2 ^ (f.frac + 1) then 0 else l.log2 - f.frac
  k * 2 ^ f.frac + m.whole neg u (den * 2 ^ k)

/-- A code with its sign. -/
def FFmt.signed (f : FFmt) (neg : Bool) (mag : Nat) : Nat := if neg then 2 ^ f.low + mag else mag
/-- A zero. -/
def FFmt.zero (f : FFmt) (neg : Bool) : Nat := f.signed neg 0
/-- An infinity; in E4M3 its NaN (spec/04 R93). -/
def FFmt.infinity (f : FFmt) (neg : Bool) : Nat := if f.hasInf then f.signed neg (f.big + 1) else f.nan

/-- The result of an overflow: clamped with `sat`, else by the mode (spec/04 R84, R93). -/
def FFmt.overflow (f : FFmt) (m : RMode) (sat neg : Bool) : Nat :=
  let toInf := match m with
    | .rne => true
    | .rtz => false
    | .rup => !neg
    | .rdn => neg
  if sat || !toInf then f.signed neg f.big else f.infinity neg

/-- Round the exact magnitude num/den, not 0 (spec/10 R192). -/
def FFmt.round (f : FFmt) (m : RMode) (sat neg : Bool) (num den : Nat) : Nat :=
  let c := f.magnitude m neg num den
  if f.big < c then f.overflow m sat neg else f.signed neg c

/-- Round an exact value of the lane functions whose zero has sign `zneg`. -/
def FFmt.result (f : FFmt) (m : RMode) (neg zneg : Bool) (num den : Nat) : Nat :=
  if num = 0 then f.zero zneg else f.round m false neg num den

/-- A value with the opposite sign. -/
def Num.negate : Num → Num
  | .nan => .nan
  | .inf s => .inf !s
  | .fin s n => .fin (!s) n

/-- The signed numerator of a finite value. -/
def signedNat (neg : Bool) (n : Nat) : Int := if neg then -(n : Int) else n

/-- The sum of two exact values with numerators over `den`: the sign of an exact zero is that of two zeros of one sign,
else + except under RDN (spec/04 R84). -/
def FFmt.sum (f : FFmt) (m : RMode) (s1 : Bool) (n1 : Nat) (s2 : Bool) (n2 : Nat) (den : Nat) : Nat :=
  let v := signedNat s1 n1 + signedNat s2 n2
  let zneg := if s1 = s2 then s1 else decide (m = .rdn)
  f.result m (decide (v < 0)) zneg v.natAbs den

/-- a + b (spec/04 R85). -/
def FFmt.add (f : FFmt) (m : RMode) (a b : Num) : Nat :=
  match a, b with
  | .nan, _ => f.nan
  | _, .nan => f.nan
  | .inf s, .inf t => if s = t then f.infinity s else f.nan
  | .inf s, .fin _ _ => f.infinity s
  | .fin _ _, .inf s => f.infinity s
  | .fin s n, .fin t k => f.sum m s n t k (2 ^ 149)

/-- a × b as an exact value over 2^298. -/
def Num.times (a b : Num) : Num :=
  match a, b with
  | .nan, _ => .nan
  | _, .nan => .nan
  | .inf s, .inf t => .inf (s != t)
  | .inf s, .fin t n => if n = 0 then .nan else .inf (s != t)
  | .fin s n, .inf t => if n = 0 then .nan else .inf (s != t)
  | .fin s n, .fin t k => .fin (s != t) (n * k)

/-- a × b, rounded (spec/04 R85). -/
def FFmt.mul (f : FFmt) (m : RMode) (a b : Num) : Nat :=
  match a.times b with
  | .nan => f.nan
  | .inf s => f.infinity s
  | .fin s n => f.result m s s n (2 ^ 298)

/-- p + c with one rounding, for an exact product p over 2^298 (spec/04 R84, R85). -/
def FFmt.fused (f : FFmt) (m : RMode) (p c : Num) : Nat :=
  match p, c with
  | .nan, _ => f.nan
  | _, .nan => f.nan
  | .inf s, .inf t => if s = t then f.infinity s else f.nan
  | .inf s, .fin _ _ => f.infinity s
  | .fin _ _, .inf s => f.infinity s
  | .fin s n, .fin t k => f.sum m s n t (k * 2 ^ 149) (2 ^ 298)

/-- a ÷ b (spec/04 R85). -/
def FFmt.div (f : FFmt) (m : RMode) (a b : Num) : Nat :=
  match a, b with
  | .nan, _ => f.nan
  | _, .nan => f.nan
  | .inf _, .inf _ => f.nan
  | .inf s, .fin t _ => f.infinity (s != t)
  | .fin s _, .inf t => f.zero (s != t)
  | .fin s n, .fin t k =>
    if k = 0 then (if n = 0 then f.nan else f.infinity (s != t)) else f.result m (s != t) (s != t) n k

/-- The whole part of a square root: bits from `b - 1` down. -/
def isqrtFrom (n : Nat) : Nat → Nat → Nat
  | 0, r => r
  | b + 1, r => isqrtFrom n b (if (r + 2 ^ b) ^ 2 ≤ n then r + 2 ^ b else r)
/-- The whole part of a square root. -/
def isqrt (n : Nat) : Nat := isqrtFrom n (n.log2 / 2 + 1) 0

/-- Round a value in (i, i + 1) or equal to i, over `den`, for an `i` of more bits than the result keeps. -/
def FFmt.sticky (f : FFmt) (m : RMode) (i : Nat) (isExact : Bool) (den : Nat) : Nat :=
  f.round m false false (2 * i + (!isExact).toNat) (2 * den)

/-- √a (spec/04 R85). -/
def FFmt.sqrt (f : FFmt) (m : RMode) (a : Num) : Nat :=
  match a with
  | .nan => f.nan
  | .inf true => f.nan
  | .inf false => f.infinity false
  | .fin s n =>
    if n = 0 then f.zero s
    else if s then f.nan
    else
      let x := n * 2 ^ 151
      f.sticky m (isqrt x) (isqrt x ^ 2 == x) (2 ^ 150)

/-- 1 ÷ √a (spec/04 R85). -/
def FFmt.rsqrt (f : FFmt) (m : RMode) (a : Num) : Nat :=
  match a with
  | .nan => f.nan
  | .inf true => f.nan
  | .inf false => f.zero false
  | .fin s n =>
    if n = 0 then f.infinity s
    else if s then f.nan
    else
      let i := isqrt (2 ^ 349 / n)
      f.sticky m i (i ^ 2 * n == 2 ^ 349) (2 ^ 100)

/-- Binary places of the fixed-point arithmetic of VFEXP2 and VFLOG2 (DEDUCED, log entry 9). -/
def fixBits : Nat := 224

/-- The sum of z^(2i+1)/(2i+1) for i below `k`, in fixed point: half of ln((1 + z)/(1 − z)). -/
def atanhFix (z : Nat) (k : Nat) : Nat :=
  ((List.range k).foldl (fun (acc : Nat × Nat) i =>
    (acc.1 + acc.2 / (2 * i + 1), acc.2 * z / 2 ^ fixBits * z / 2 ^ fixBits)) (0, z)).1

/-- ln 2 in fixed point. -/
def ln2Fix : Nat := 2 * atanhFix (2 ^ fixBits / 3) 80

/-- 2^x in fixed point for x in [0, 1). -/
def exp2Fix (x : Nat) : Nat :=
  let y := x * ln2Fix / 2 ^ fixBits
  ((List.range 64).foldl (fun (acc : Nat × Nat) i =>
    (acc.1 + acc.2, acc.2 * y / 2 ^ fixBits / (i + 1))) (0, 2 ^ fixBits)).1

/-- log2 of x in fixed point, for x in [1, 2). -/
def log2Fix (x : Nat) : Nat :=
  let one := 2 ^ fixBits
  2 * atanhFix ((x - one) * one / (x + one)) 80 * one / ln2Fix

/-- 2^a (spec/04 R85): exact for a whole a, else irrational. -/
def FFmt.exp2 (f : FFmt) (m : RMode) (a : Num) : Nat :=
  match a with
  | .nan => f.nan
  | .inf true => f.zero false
  | .inf false => f.infinity false
  | .fin s n =>
    let whole := n / 2 ^ 149
    let part := n % 2 ^ 149
    -- beyond these bounds every result overflows, or lies below half the smallest subnormal
    let k := min whole 400
    if part = 0 then
      (if s then f.round m false false 1 (2 ^ k) else f.round m false false (2 ^ k) 1)
    else
      let x := part * 2 ^ (fixBits - 149)
      if s then f.round m false false (exp2Fix (2 ^ fixBits - x)) (2 ^ (fixBits + k + 1))
      else f.round m false false (exp2Fix x * 2 ^ k) (2 ^ fixBits)

/-- log₂ a (spec/04 R85): exact for a power of two, else irrational. -/
def FFmt.log2 (f : FFmt) (m : RMode) (a : Num) : Nat :=
  match a with
  | .nan => f.nan
  | .inf true => f.nan
  | .inf false => f.infinity false
  | .fin s n =>
    if n = 0 then f.infinity true
    else if s then f.nan
    else
      let k := n.log2
      let fr := if n = 2 ^ k then 0 else log2Fix (n * 2 ^ fixBits / 2 ^ k)
      let v : Int := ((k : Int) - 149) * 2 ^ fixBits + fr
      f.result m (decide (v < 0)) false v.natAbs (2 ^ fixBits)

/-- a < b and a = b as numbers; none for a NaN (spec/04 R87). -/
def Num.compare (a b : Num) : Option (Bool × Bool) :=
  match a, b with
  | .nan, _ => none
  | _, .nan => none
  | .inf s, .inf t => some (s && !t, s == t)
  | .inf s, .fin _ _ => some (s, false)
  | .fin _ _, .inf t => some (!t, false)
  | .fin s n, .fin t k =>
    let x := signedNat s n
    let y := signedNat t k
    some (decide (x < y), decide (x = y))

/-- The relation of a float comparison: with a NaN only ne holds (spec/04 R87). -/
def floatRel (code : Nat) (a b : Num) : Bool :=
  match a.compare b with
  | none => code == 1
  | some (lt, eq) =>
    match code with
    | 0 => eq
    | 1 => !eq
    | 2 => lt
    | 3 => lt || eq
    | 4 => !(lt || eq)
    | 5 => !lt
    | _ => false

/-- VFMIN and VFMAX on two codes: −0 is less than +0, and one NaN gives the other operand (spec/04 R86). -/
def FFmt.minMax (f : FFmt) (greater : Bool) (a b : Nat) : Nat :=
  let x := f.value a
  let y := f.value b
  match x.compare y with
  | none => if x = .nan then (if y = .nan then f.nan else b) else a
  | some (lt, eq) =>
    let less := lt || (eq && decide (bits a f.low 1 = 1))
    if greater then (if less then b else a) else if less then a else b

/-- VFABS and VFNEG on a code (spec/04 R86). -/
def FFmt.absolute (f : FFmt) (c : Nat) : Nat := if f.value c = .nan then f.nan else c % 2 ^ f.low
def FFmt.negated (f : FFmt) (c : Nat) : Nat :=
  if f.value c = .nan then f.nan else (c + 2 ^ f.low) % 2 ^ f.width

/-- The bit that VFCLS sets (spec/04 R88). -/
def FFmt.classBit (f : FFmt) (c : Nat) : Nat :=
  match f.value c with
  | .nan =>
    if f.frac = 23 && c == 0x7FD10000 then 10 else if bits c (f.frac - 1) 1 = 1 then 8 else 9
  | .inf s => if s then 0 else 7
  | .fin s n =>
    if n = 0 then (if s then 3 else 4)
    else if bits c f.frac f.ebits = 0 then (if s then 2 else 5)
    else if s then 1 else 6

/-- Convert a value to a format with one rounding (spec/04 R93, spec/10 R193). -/
def FFmt.convert (f : FFmt) (m : RMode) (sat : Bool) (v : Num) : Nat :=
  match v with
  | .nan => f.nan
  | .inf s => if !f.hasInf && sat then f.signed s f.big else f.infinity s
  | .fin s n => if n = 0 then f.zero s else f.round m sat s n (2 ^ 149)

/-- Round a value to a whole number and clamp it to a range; a NaN gives 0 (spec/04 R94). -/
def Num.toInt (m : RMode) (lo hi : Int) (v : Num) : Int :=
  match v with
  | .nan => 0
  | .inf s => if s then lo else hi
  | .fin s n =>
    let x := signedNat s (m.whole s n (2 ^ 149))
    if x < lo then lo else if hi < x then hi else x

/-- A whole number as a value. -/
def Num.ofInt (x : Int) : Num := .fin (decide (x < 0)) (x.natAbs * 2 ^ 149)

end Sys2Proof.Machine
end

