-- ==== Sys2Proof/Machine/Async.lean ====
section
/-! DEFINITION. Asynchronous operations: issue into a token, requests and their order, homes and acknowledgements,
translation faults of requests (spec/03 R61, R62, spec/11 R205 to R215, spec/14 R244 to R258, spec/15 R263). -/

namespace Sys2Proof.Machine

/-! ## Issue (spec/03 R61) -/

/-- SLDG or SSTG. -/
def Op.isScalar (o : Op) : Bool :=
  match o.kind with
  | .sldg _ => true
  | .sstg _ => true
  | _ => false

/-- The unit an operation's origin records name (spec/11 R206). -/
def Op.unit (o : Op) : Nat :=
  match o.kind with
  | .copy => 1
  | .cbld _ => 1
  | .cpbi => 1
  | .xred => 5
  | .xgat => 5
  | .xa2a => 5
  | .mepi => 4
  | .credit => o.width
  | _ => if o.isLane then 2 else 3

/-- Put an operation in flight. Answers its number. -/
def State.addOp (s : State) (o : Op) : State × Nat :=
  ({ s with ops := s.ops.set s.nextOp o, nextOp := s.nextOp + 1 }, s.nextOp)

/-- The operation that a scalar word issues, with its snapshots: the preconditions as they stand before the token
changes, and what earlier fences still hold (spec/03 R61, spec/12 R224). -/
def State.scalarOp (s : State) (kind : OpKind) (td : BitVec 5) (sp : W64) (a b : W64) : Op :=
  let t := s.tm
  let (w, p) := t.preconds (sp.truncate 32)
  { Op.blank with
    kind := kind, gang := gangOf s.cur, team := s.cur, member := s.memberOf s.cur, tok := td.toNat, pc := t.pc,
    word := s.word, waiting := w, pois := p, after := s.fenced s.cur, a := a, b := b, disp := t.disp, rwc := t.rwc }

/-- The token becomes PENDING and loses its origin (spec/11 R205). -/
def Tok.pending : Tok := { st := .pending, claimed := false, cause := 0, origin := 0 }

/-- Issue an operation of the SX form into its token: TOKEN_BUSY if it is PENDING, else the token becomes PENDING and the
stream goes on (spec/03 R61). -/
def State.issue (s : State) (o : Op) : Out :=
  if (s.tm.getT o.tok).st = .pending then .next (s.scalarFault kTokenBusy .state 0)
  else
    let (s, n) := s.addOp o
    .next ((s.modTm fun t => { t.setT o.tok .pending with tokDisp := t.tokDisp.del o.tok }).post .preconditionsMet n).advance

/-- The session steps a team (spec/23 R360). -/
def State.stepping (s : State) (t : Nat) : Bool := (s.stepRun t).isSome

/-- The engine work of an operation goes on: its gang is resident, and its context is not stopped, or a debug session
steps its team or replays its gang (spec/16 R289, R295, spec/23 R360, spec/24 R369). -/
def State.opLive (s : State) (x : Op) : Bool :=
  (s.gang x.gang).st == .resident && match s.ctxs.find? (ctxOf x.gang) with
    | some c => (c.st != .stopped && c.st != .ended) || s.stepping x.team || s.replaying x.gang
    | none => false

/-- Engine work that has not begun may begin: the halt line has not stopped its core's engines, or the session steps its
team or replays its gang (spec/16 R289, R291). -/
def State.opFresh (s : State) (x : Op) : Bool :=
  s.opLive x && (!(s.member x.member).stopped || s.stepping x.team || s.replaying x.gang)

/-! ## Requests -/

/-- The state with a request of an operation changed. -/
def State.modReq (s : State) (o r : Nat) (f : Req → Req) : State :=
  s.modOp o fun x => { x with reqs := x.reqs.map fun q => if q.id = r then f q else q }

/-- A request of an operation. -/
def State.req (s : State) (o r : Nat) : Option (Op × Req) :=
  match s.ops.find? o with
  | none => none
  | some x =>
    match x.reqs.find? fun q => q.id == r with
    | none => none
    | some q => some (x, q)

/-- The request has not yet been performed. -/
def Req.open_ (r : Req) : Bool :=
  match r.st with
  | .ready => true
  | .parked _ => true
  | .line => true
  | .held _ => true
  | _ => false

/-- The request has not been performed: it is open, or merged into one that has not been performed (spec/14 R251). -/
def State.unperformed (s : State) : Nat → Req → Bool
  | 0, r => r.open_
  | fuel + 1, r =>
    match r.st with
    | .merged o n => (match s.req o n with
      | some p => s.unperformed fuel p.2
      | none => false)
    | _ => r.open_
/-- The same, as far as merges may go. -/
def State.notDone (s : State) (r : Req) : Bool := s.unperformed (s.ops.length * 1024) r

/-- Two requests touch a byte in common. -/
def Req.overlaps (a b : Req) : Bool := decide (a.addr < b.addr + b.n) && decide (b.addr < a.addr + a.n)

/-- The memory space of an operation's requests: 0 global, 1 scratchpads, 3 the constant path. -/
def Op.space (o : Op) : Nat :=
  if o.isLane then
    match bits o.md.toNat 6 2 with
    | 0 => 0
    | 3 => 3
    | _ => 1
  else 0

/-- Operation `a` comes before operation `b` in their team's program order (spec/15 R261). -/
def opBefore (a b : Nat × Op) : Bool :=
  a.2.team == b.2.team && a.2.kind != .vprf && (
    ((a.2.isLane && b.2.isLane) && decide (a.1 < b.1)) || ((a.2.isScalar && b.2.isScalar) && decide (a.1 < b.1))
      || ((a.2.isScalar && b.2.isLane) && decide (a.2.disp ≤ b.2.disp)))

/-- The operation may wait on an EMPTY scratchpad line; then it is an acquire (spec/04 R106, spec/15 R265). -/
def Op.lineWaiter (x : Op) : Bool :=
  x.space == 1 && (x.kind == .vld || x.kind == .vamo || x.kind == .vrmo) && !x.md.getLsbD 0

/-- A request may be performed: no earlier load or atomic of its team may still come to wait on an EMPTY line (DEDUCED, log entry 76),
no earlier access of its team to a byte of it is still to be performed, and lower lanes of its own instruction at the same address are
done, for atomics (spec/15 R262, R263, spec/04 R107). -/
def State.clear (s : State) (o : Nat) (x : Op) (r : Req) : Bool :=
  (s.ops.all fun p => !(opBefore p (o, x) && p.2.space == x.space) || p.2.reqs.all fun q => !(q.overlaps r && s.notDone q))
    && (s.ops.all fun p => !(p.2.lineWaiter && opBefore p (o, x)) || p.2.reqs.all fun q => !q.open_)
    && (x.kind != .vamo && x.kind != .vrmo || x.reqs.all fun q => !(decide (q.id < r.id) && q.addr == r.addr && s.notDone q))

/-- The request may be performed now. -/
def State.ripe (s : State) (o : Nat) (x : Op) (q : Req) : Bool := s.opLive x && s.allOver x.after && s.clear o x q

/-- A scratchpad request of the team's quarter that issued earlier still waits for its slot in the same scratchpad: a quarter's
requests are served in issue order (spec/06 R125; DESIGN CHOICE, log entry 77). `o` and `pass` say when the later one issued. -/
def State.quarterAhead (s : State) (g core quarter m o pass : Nat) : Bool :=
  s.ops.any fun p =>
    let y := p.2
    y.gang == g && y.member % 4 == core && y.isLane && y.space == 1 && (s.team y.team).quarter == quarter && decide (p.1 ≤ o)
      && y.reqs.any fun r => r.st == .ready && r.addr / 2 ^ 21 == m && (decide (p.1 < o) || decide (r.id / 32 < pass)) && s.ripe p.1 y r

/-- The completion step of an operation whose requests are all done. -/
def Op.completion (x : Op) : Instr :=
  if x.isLane then .laneMemoryComplete
  else if x.isScalar then .scalarGlobalComplete
  else .copyComplete

/-- Every request is done. -/
def Op.allDone (x : Op) : Bool := x.reqs.all fun q => q.st == .done

/-- A request is done, with a cause it met, if any, and that cause's origin; the last one makes the operation's
completion due. -/
def State.finishReq (s : State) (o r : Nat) (cause : BitVec 8) (origin : W64) : State :=
  let s := s.modReq o r fun q => { q with st := .done, cause := cause }
  let s := s.modOp o fun x => if cause = 0 then x else x.addCause cause origin
  match s.ops.find? o with
  | some x => if x.allDone && !x.finished then (s.modOp o fun x => { x with finished := true }).post x.completion o else s
  | none => s

/-- A reply has changed what a gang that is away holds: its image is to be patched (spec/16 R298). -/
def State.repliedTo (s : State) (g : Nat) : State :=
  if (s.gang g).st = .resident then s else s.push [.event .replyPatch { Args.none with x := g, ok := true }]

/-! ## Translation of requests (spec/14 R257, R258, spec/04 R108) -/

/-- The lanes of a request's pass that have performed, and the pass (spec/16 R287, PROTECTION). -/
def State.performedMask (s : State) (x : Op) (r : Nat) : Nat :=
  (x.reqs.foldl (fun n q => if q.id / 32 = r / 32 ∧ !s.notDone q then n + 2 ^ (q.id % 32) else n) 0) + r / 32 * 2 ^ 32

/-- A protection violation of a request: fatal, not precise; the request is not performed (spec/04 R108). -/
def State.reqProtect (s : State) (o r : Nat) (x : Op) (addr : Nat) : State :=
  let f : FRec := { s.opRec x x.unit with
    kind := kProtection, addr := BitVec.ofNat 64 addr,
    detail := if x.isLane then BitVec.ofNat 64 (s.performedMask x r) else 0 }
  (s.modReq o r fun q => { q with st := .held 9 }).fatal (ctxOf x.gang) f

/-- The requests of an operation that wait for a translation of one page; they have one fault between them (spec/04 R108;
DEDUCED, log entry 23). -/
def Op.walkers (x : Op) (va : Nat) : List Nat :=
  (x.reqs.filter fun q => q.st == .ready && q.addr / 4096 == va / 4096).map Req.id

/-- The core whose TLB an operation uses. -/
def State.opCore (s : State) (x : Op) : Nat := s.coreNum x.gang (x.member % 4)

/-- Run an access under its translation: a miss starts a walk, a page that does not allow it is a protection fault
(spec/14 R254, R257). -/
def State.withLeaf (s : State) (o r : Nat) (x : Op) (va : Nat) (ok : Leaf → Bool) (k : Leaf → Out) : Out :=
  if 2 ^ 54 ≤ va then .next (s.reqProtect o r x va)
  else
    match s.lookup (s.opCore x) (s.gang x.gang).part va with
    | none => .next (s.post2 .pageWalkComplete o r)
    | some l => if ok l then k l else .next (s.reqProtect o r x va)

/-- A page that a load, or a store, or an atomic of a lane or scalar stream may reach (spec/14 R254, spec/12 R234). -/
def Leaf.loads (l : Leaf) : Bool := l.r && l.type == 0
def Leaf.stores (l : Leaf) : Bool := l.w && l.type == 0 && !l.isSealed
def Leaf.atomics (l : Leaf) : Bool := l.r && l.w && l.type == 0 && !l.isSealed

/-- The step that performs a request of a lane memory or scalar global operation. -/
def Op.access (x : Op) : Instr :=
  match x.kind with
  | .sldg _ => .scalarGlobalComplete
  | .sstg _ => .homeWrite
  | .vst => if x.space = 0 then .homeWrite else .scratchpadAccess
  | .vamo => if x.space = 0 then .homeAtomic else .scratchpadAccess
  | .vrmo => if x.space = 0 then .homeAtomic else .scratchpadAccess
  | .vld => if x.space = 0 then .nearCacheFill else if x.space = 3 then .constantFill else .scratchpadAccess
  | .copy => if x.started then .copySegment else .copyStart
  | .mepi => .copySegment
  | .pinit => .phaseBarrierEvent
  | .pexp => .phaseBarrierEvent
  | .parr => .phaseBarrierEvent
  | .texp _ => .phaseBarrierEvent
  | .credit => .phaseBarrierEvent
  | .cbld _ => .preconditionsMet
  | .cpbi => .preconditionsMet
  | .xred => if x.started then .collectiveStep else .preconditionsMet
  | .xgat => if x.started then .collectiveStep else .preconditionsMet
  | .xa2a => if x.started then .collectiveStep else .preconditionsMet
  | .trig => .preconditionsMet
  | .seal => .preconditionsMet
  | .unseal => .preconditionsMet
  | .vref => .preconditionsMet
  | _ => .nearCacheFill

/-- Make the access of a request due. -/
def State.serve (s : State) (o r : Nat) (x : Op) : State := s.post2 x.access o r

/-- Hand a request's fault to the Memory core: the request parks; requests of one operation on one page share the fault
(spec/14 R258, spec/04 R108; DEDUCED, log entry 23). -/
def State.reqPark (s : State) (o r : Nat) (x : Op) (va access : Nat) : State :=
  let same (f : TFault) : Bool := f.op.map Prod.fst == some o && f.gang == x.gang && f.access == access && f.va / 4096 == va / 4096
  let h := match s.tfaults.find? same with
    | some f => (s, f.tag)
    | none => s.handFault x.gang va access (some (o, r)) none
  h.1.modReq o r fun q => { q with st := .parked h.2 }

/-- The access code of an operation's fault (spec/18 R311). -/
def Op.accessCode (x : Op) : Nat :=
  match x.kind with
  | .sstg _ => 1
  | .vst => 1
  | .vamo => 2
  | .vrmo => 2
  | .copy => 4
  | .pinit => 1
  | .pexp => 2
  | .parr => 2
  | .texp _ => 2
  | .credit => 2
  | .mepi => 5
  | _ => 0

/-! ## Homes (spec/14 R243, R248) -/

/-- Write at the home a request has reached: the bytes, with the granules to mark; the request awaits the
acknowledgements (spec/14 R248). -/
def State.homeReq (s : State) (o r : Nat) (l : Leaf) (pa : Nat) (data : List Byte) (mark : Nat → Bool) (whole : Bool) : State :=
  let wr := s.nextOp
  let s := s.homeStore (sliceOf l.home (pa / 128)) pa data mark whole (some (o, r))
  s.modReq o r fun q => { q with st := .home wr }

/-- The requester class and the number that an L2 watchpoint record names (spec/24 R375). -/
def State.watchHome (s : State) (x : Op) (l : Leaf) (pa n kind : Nat) : State :=
  s.l2Watch (sliceOf l.home (pa / 128)) pa n kind (if x.isLane || x.isScalar then 0 else 1) (s.opCore x)

/-- Home writes to a line that have not been acknowledged. -/
def State.openWrites (s : State) (line : Nat) : List Nat := (s.hw.filter fun p => p.2.line == line).map Prod.fst

/-- What waits for an operation of a team waits as well for home writes whose values it has read (spec/15 R273). -/
def State.bindWrites (s : State) (o : Nat) (ws : List Nat) : State :=
  let add (l : List Nat) : List Nat := if l.contains o then l ++ ws.filter fun w => !l.contains w else l
  let turn (t : Turn) : Turn := match t with
    | .event i a => .event i { a with list := add a.list }
    | t => t
  { s with
    ops := s.ops.map fun p => (p.1, { p.2 with after := add p.2.after })
    teams := s.teams.map fun p => (p.1, { p.2 with fences := p.2.fences.map fun f => { f with cover := add f.cover } })
    gangs := s.gangs.map fun p => (p.1, { p.2 with bevents := p.2.bevents.map fun e => { e with after := add e.after } })
    agenda := s.agenda.map turn }

/-- A read of a team, by an operation, has taken values of writes that are not yet acknowledged (spec/15 R273). -/
def State.seeWrites (s : State) (o t : Nat) (ws : List Nat) : State :=
  if ws.isEmpty then s
  else (s.modTeam t fun x => { x with unsettled := x.unsettled ++ ws.filter fun w => !x.unsettled.contains w }).bindWrites o ws

/-- A read at a line's home takes the values of all its writes (spec/15 R273). -/
def State.seeLine (s : State) (o t line : Nat) : State := s.seeWrites o t (s.openWrites line)

/-- A read of a core's copy takes the values of the writes whose updates have reached it (spec/15 R273). -/
def State.seeCopy (s : State) (o t line core : Nat) : State :=
  s.seeWrites o t ((s.openWrites line).filter fun w => match s.hw.find? w with
    | some h => !h.await.contains core
    | none => false)

/-- The directory entry of a line, its core recorded as a sharer; a line of a full set is evicted first (spec/14 R247,
R249). Answers the entry, or none while an eviction is under way. -/
def State.share (s : State) (slice line core : Nat) : State × Option Dir :=
  match s.dir slice line with
  | some d =>
    if d.evict.isSome then (s, none)
    else
      let d := d.addSharer core
      (s.modSlice slice fun x => { x with dir := x.dir.set line d }, some d)
  | none =>
    match (s.slice slice).dirFull line with
    | some old => (s.post2 .directoryEviction slice old, none)
    | none =>
      let s := s.modSlice slice fun x => x.allocate line
      match s.dir slice line with
      | some d =>
        let d := d.addSharer core
        (s.modSlice slice fun x => { x with dir := x.dir.set line d }, some d)
      | none => (s, none)

end Sys2Proof.Machine
end

