-- ==== Sys2Proof/Machine/LaneQueue.lean ====
section
/-! DEFINITION. Dispatching lane blocks, the register budget and FMT, and the steps that start and complete a block
(spec/01 R12, R14, R17, spec/03 R63, R68, R69, spec/06 R133, spec/11 R208). -/

namespace Sys2Proof.Machine

/-- Blocks that wait in a team's queue. -/
def Team.queued (t : Team) : Nat :=
  (t.queue.filter fun q => match q with
    | .block _ => true
    | .fmt _ => false).length

/-- Scalar registers that an unobserved SLDG loads. -/
def Team.loadRegs (t : Team) : List Nat := (t.loads.filter fun e => e.scal).map fun e => e.reg
/-- Scalar registers with an unobserved load or lane write. -/
def Team.openRegs (t : Team) : List Nat := (t.dirty.filter fun e => !e.isMask).map (fun e => e.reg) ++ t.loadRegs

/-- The scalar registers as a dispatch takes them: a register with an unobserved load or lane write gives an older value
or the one it holds (spec/01 R12, spec/03 R62, spec/04 R79). -/
def Team.snapshot (t : Team) (free : Nat) : Sparse W64 :=
  t.openRegs.foldl (fun (m : Sparse W64) r => m.set r (t.seenS free (BitVec.ofNat 6 r))) t.s

/-- The values that those registers hold as well. -/
def Team.newer (t : Team) : Sparse W64 := t.openRegs.foldl (fun (m : Sparse W64) r => m.set r (t.getS (BitVec.ofNat 6 r))) []

/-- Enqueue the lane block at an index: the index is checked, a full queue stalls the stream, and the block keeps the
scalar registers, the budget and the preconditions as they stand (spec/01 R10, R12, R14, spec/03 R61, R63). -/
def dispatchBlock (td : BitVec 5) (sp : W64) (idx : Nat) (s : State) : Out :=
  let t := s.tm
  if t.copy then illegal s .state
  else if t.lanes ≤ idx then illegal s .state
  else if 8 ≤ t.queued then s.block .queue none 0
  else if (t.getT td.toNat).st = .pending then .next (s.scalarFault kTokenBusy .state 0)
  else
    let (w, p) := t.preconds (sp.truncate 32)
    let b : Block := { disp := t.disp, idx := idx, tok := td.toNat, set := sp.truncate 32, waiting := w, pois := p, snap := t.snapshot s.free,
                       later := t.newer, unsure := t.loadRegs,
                       after := s.fenced s.cur, budget := t.budget }
    let s := s.fresh.modTm fun t => { t.setT td.toNat .pending with
      queue := t.queue ++ [.block b], disp := t.disp + 1, tokDisp := t.tokDisp.set td.toNat b.disp }
    .next (s.post .laneBlockIssue s.cur).advance

def execLrun (td : BitVec 5) (sp : BitVec 6) (lidx : BitVec 14) (s : State) : Out :=
  s.withRegs [sp] [] fun s => dispatchBlock td (s.rS sp) lidx.toNat s
def execLrunr (td : BitVec 5) (sp sa : BitVec 6) (s : State) : Out :=
  s.withRegs [sp, sa] [] fun s => dispatchBlock td (s.rS sp) (s.rS sa).toNat s

/-- The bits of FMT that are kept (spec/01 R17). -/
def fmtBits (v : W32) : W32 := v &&& 0x1F

/-- A change of FMT: between the block dispatched before it and the next one (spec/03 R69). -/
def setFmt (v : W32) (s : State) : Out :=
  if s.tm.copy then illegal s .state
  else if s.tm.lanesIdle then .next (s.modTm fun t => { t with fmt := fmtBits v }).advance
  else .next (s.modTm fun t => { t with queue := t.queue ++ [.fmt v] }).advance

def execFmtset (sa : BitVec 6) (s : State) : Out := s.withRegs [sa] [] fun s => setFmt ((s.rS sa).truncate 32) s
def execFmtseti (v : BitVec 5) (s : State) : Out := setFmt (v.zeroExtend 32) s

/-- FMTGET (spec/03 R69). -/
def execFmtget (sd : BitVec 6) (s : State) : Out :=
  if s.tm.copy then illegal s .state
  else s.withRegs [] [sd] fun s =>
    if !s.tm.lanesIdle then s.block .queue none 0 else .next (s.wS sd (s.tm.fmt.zeroExtend 64)).advance

/-! ## Register growth (spec/03 R68, spec/06 R133) -/

/-- Register units that `b` blocks of a team take. -/
def Team.units (t : Team) (b : Nat) : Nat := b * (t.width / 32)

/-- The request could not be met even with every other team of the core at its launch budget (spec/06 R133). -/
def State.hopeless (s : State) (t b : Nat) : Bool :=
  let tm := s.team t
  let others := ((s.teamsOf (gangOf t)).filter fun u => u != t && (s.team u).core == tm.core).foldl
    (fun n u => n + teamUnits (s.team u) (s.team u).launchBudget) 0
  decide (16 * (s.gang (gangOf t)).lanesU < others + teamUnits tm tm.budget + tm.units b)

/-- Grant `b` blocks to a team: the new registers read 0 in every lane (spec/03 R68). -/
def Team.grow (t : Team) (b : Nat) : Team :=
  let lo := 8 * t.budget
  let hi := lo + 8 * b
  { t with
    budget := t.budget + b
    v := t.v.filter fun p => !(decide (lo * 1024 ≤ p.1) && decide (p.1 < hi * 1024))
    vs := t.vs.filter fun p => !(decide (lo * 1024 ≤ p.1) && decide (p.1 < hi * 1024))
    pend := t.pend.filter fun p => !(decide (lo ≤ p.reg) && decide (p.reg < hi)) }

/-- The status of VGROW and VGROW.T where it is decided at once; none where the units decide (spec/03 R68). -/
def State.growNow (s : State) (b : Nat) : Option W64 :=
  if b = 0 then some 0
  else if 32 < s.tm.budget + b then some 2
  else if s.hopeless s.cur b then some 1
  else none

/-- VGROW: at the head of the core's queue with the units free it is granted, else it waits (spec/06 R133). -/
def execVgrow (sd sa : BitVec 6) (s : State) : Out :=
  if s.tm.copy then illegal s .value
  else s.withRegs [sa] [sd] fun s =>
    match s.tm.wait with
    | some w =>
      (match w.result with
       | some v => .next (s.wS sd v).advance
       | none => s.block w.obj none 0)
    | none =>
      let b := (s.rS sa).toNat
      match s.growNow b with
      | some v => .next (s.wS sd v).advance
      | none =>
        let mk := s.memberOf s.cur
        if (s.member mk).vq.isEmpty && decide (s.tm.units b ≤ s.freeUnits (gangOf s.cur) s.tm.core) then
          .next ((s.modTm fun t => t.grow b).wS sd 0).advance
        else ((s.modMember mk fun m => { m with vq := m.vq ++ [s.cur] }).post .vgrowGrant mk).block (.pool b) none 0

/-- VGROW.T: granted only with no request waiting and the units free now (spec/06 R133). -/
def execVgrowT (sd sa : BitVec 6) (s : State) : Out :=
  if s.tm.copy then illegal s .value
  else s.withRegs [sa] [sd] fun s =>
    let b := (s.rS sa).toNat
    match s.growNow b with
    | some v => .next (s.wS sd v).advance
    | none =>
      if (s.member (s.memberOf s.cur)).vq.isEmpty && decide (s.tm.units b ≤ s.freeUnits (gangOf s.cur) s.tm.core) then
        .next ((s.modTm fun t => t.grow b).wS sd 0).advance
      else .next (s.wS sd 3).advance

/-- VSHRINK (spec/03 R68): the units it frees may let a waiting VGROW go on. -/
def execVshrink (sa : BitVec 6) (s : State) : Out :=
  if s.tm.copy then illegal s .value
  else s.withRegs [sa] [] fun s =>
    if !s.tm.lanesIdle then s.block .queue none 0
    else
      let n := (s.rS sa).toNat
      let s := s.modTm fun t => { t with budget := t.budget - min n (t.budget - 1) }
      let mk := s.memberOf s.cur
      .next (if (s.member mk).vq.isEmpty then s else s.post .vgrowGrant mk).advance

/-- The blocks a waiting VGROW asks for. -/
def Team.asks (t : Team) : Nat :=
  match t.wait with
  | some w => (match w.obj with
    | .pool b => b
    | _ => 0)
  | none => 0

/-- VGROW_GRANT (spec/06 R133): the head of a core's queue is granted once the free units cover it. -/
def execVgrowGrant (s : State) : Out :=
  let mk := s.arg.x
  match (s.member mk).vq with
  | [] => .next s
  | t :: rest =>
    let b := (s.team t).asks
    if decide ((s.team t).units b ≤ s.freeUnits (mk / 4) (mk % 4)) then
      let s := s.modTeam t fun x => { x.grow b with wait := x.wait.map fun w => { w with result := some 0 } }
      let s := s.modMember mk fun m => { m with vq := rest }
      .next (if rest.isEmpty then s else s.post .vgrowGrant mk)
    else .next (s.defer .vgrowGrant)

/-! ## Blocks start and complete (spec/01 R12, spec/11 R208) -/

/-- Changes of FMT at the head of the queue take effect (spec/03 R69). -/
def applyFmt : W32 → List QItem → W32 × List QItem
  | _, .fmt v :: l => applyFmt (fmtBits v) l
  | f, l => (f, l)

/-- The queue goes on after a block has ended or was skipped. -/
def Team.popFmt (t : Team) : Team :=
  let r := applyFmt t.fmt t.queue
  { t with fmt := r.1, queue := r.2 }

/-- Blocks from this dispatch on may read the load's destination. -/
def LoadE.covers (e : LoadE) (disp : Nat) : Bool :=
  match e.cover with
  | some d => decide (d ≤ disp)
  | none => false

/-- A block that issues covers the loads whose tokens it names, for itself and for later blocks (spec/04 R105). -/
def Team.coverBy (t : Team) (b : Block) : Team :=
  { t with loads := (t.loads.filter fun e => e.scal || !e.covers b.disp).map fun e =>
      if !e.scal && e.cover.isNone && e.done && b.set.getLsbD e.tok then { e with cover := some b.disp } else e }

/-- LANE_BLOCK_ISSUE (spec/01 R12, spec/11 R208): the head block starts once its preconditions are over and the block
before it has issued; with a POISONED one it is skipped and its token inherits the poison. -/
def execLaneBlockIssue (s : State) : Out :=
  let t := s.arg.x
  let tm := s.team t
  if tm.laneStopped || (s.gang (gangOf t)).st == .unplaced || (s.gang (gangOf t)).st == .spilling || (s.gang (gangOf t)).st == .spilled then
    .next (s.defer .laneBlockIssue)
  else if tm.running.isSome then .next (s.defer .laneBlockIssue)
  else
    match tm.queue with
    | .block b :: rest =>
      if b.waiting ≠ 0 || !s.allOver b.after then .next (s.defer .laneBlockIssue)
      else
        let s := s.liftFences t
        (match b.pois with
         | some (_, o) =>
           let s := s.modTeam t fun x => { x.coverBy b with queue := rest }.popFmt
           .next (s.completeToken t b.tok (some (cInherited, o)))
         | none => .next (s.modTeam t fun x => { x.coverBy b with queue := rest, running := some b }))
    | _ => .next s

/-- The lane register writes of blocks up to a dispatch are all over: their links are complete or trimmed, their V results there,
and their VFCMPDs decided (spec/01 R12, spec/04 R90, spec/20 R330). -/
def Team.streamsOver (t : Team) (disp : Nat) : Bool :=
  let isOver (p : Nat × Link) : Bool := decide (disp < p.2.disp) || !(p.2.st == .streaming || p.2.pend)
  t.links.all isOver && t.vs.all isOver && t.cmpd.all fun e => decide (disp < e.disp)

/-- LANE_BLOCK_COMPLETE (spec/01 R12): the oldest block that has issued its last instruction has written its results.
-/
def execLaneBlockComplete (s : State) : Out :=
  let t := s.arg.x
  let tm := s.team t
  match tm.ended with
  | [] => .next s
  | b :: rest =>
    if !tm.streamsOver b.disp then .next (s.defer .laneBlockComplete)
    else .next ((s.modTeam t fun x => { x with ended := rest }).completeToken t b.tok none)

end Sys2Proof.Machine
end

