-- ==== Sys2Proof/Machine/Digits.lean ====
section
/-! DEFINITION. Lane registers and the streams of digits that lead to them: links, in-flight V results, what their headers and
digits leave possible, early decisions, trims and their reach (spec/01 R18, R19, spec/04 R77, R89 to R92, spec/20 R328 to R336). -/

namespace Sys2Proof.Machine

/-! ## Registers -/

/-- The lanes of a mask, rising. -/
def lanesOf (m : Mask) (w : Nat) : List Nat := (List.range w).filter fun l => m.getLsbD l

/-- The value of a TRIMMED link (spec/01 R19). -/
def trimmedValue : W32 := 0x7FD10000

/-- What a link gives a reader that may read it (spec/01 R19, spec/04 R89). -/
def Link.read (k : Link) : W32 :=
  match k.st with
  | .idle => 0
  | .streaming => k.value
  | .complete => k.value
  | .trimmed => trimmedValue

/-- A V or M register of a lane, by operand code: a mask bit reads all ones or 0 (spec/01 R29). -/
def Team.reg (t : Team) (c l : Nat) : W32 :=
  if c < 256 then t.v.get 0 (c * 1024 + l) else if (t.getM (c - 272)).getLsbD l then 0xFFFFFFFF else 0

/-- Write a V or M register of a lane, by operand code. -/
def Team.setReg (t : Team) (c l : Nat) (v : W32) : Team :=
  if c < 256 then { t with v := t.v.set (c * 1024 + l) v }
  else
    let m := t.getM (c - 272)
    t.setM (c - 272) (if v = 0 then m &&& ~~~(1 <<< l : Mask) else m ||| (1 <<< l : Mask))

/-- The mask of some lanes. -/
def maskOf (l : List Nat) : Mask := l.foldl (fun m i => m ||| (1 <<< i : Mask)) 0

/-- A load's destination covers a register. -/
def LoadE.has (e : LoadE) (c l : Nat) : Bool :=
  !e.scal && decide (e.reg ≤ c) && decide (c < e.reg + e.n) && e.lanes.getLsbD l

/-! ## Streams (spec/20 R328 to R331) -/

/-- A signed-digit instruction with an FP32 result: its latency and chain offset; others chain at their latency. -/
def chainOf (opc : Nat) : Option Nat :=
  match opc with
  | 0x040 => some 2
  | 0x041 => some 2
  | 0x042 => some 2
  | 0x043 => some 2
  | 0x044 => some 2
  | 0x045 => some 2
  | 0x046 => some 2
  | 0x047 => some 2
  | 0x048 => some 3
  | 0x049 => some 3
  | 0x04A => some 3
  | 0x04B => some 3
  | 0x04C => some 1
  | 0x04D => some 1
  | 0x052 => some 4
  | 0x053 => some 4
  | _ => none

/-- A digit's value from its 3-bit code. -/
def digitInt (d : BitVec 3) : Int := d.toInt

/-- The mantissa m of a normal or subnormal value, times 4^13 (spec/20 R328). -/
def mantissa26 (v : W32) : Int :=
  let fr := bits v.toNat 0 23
  (if bits v.toNat 23 8 = 0 then (fr : Int) else (fr : Int) + 2 ^ 23) * 8

/-- The mantissa that the digits so far give, times 4^13. -/
def digitsSum (v : W32) (l : List (BitVec 3)) : Int :=
  let start : Int := if bits v.toNat 23 8 = 0 then 0 else 2 ^ 26
  (l.foldl (fun (acc : Int × Nat) d => (acc.1 + digitInt d * 4 ^ (12 - acc.2), acc.2 + 1)) (start, 0)).1

/-- The digit keeps the completion within reach (spec/20 R329). -/
def digitOk (v : W32) (l : List (BitVec 3)) (d : BitVec 3) : Bool :=
  let rest := mantissa26 v - digitsSum v (l ++ [d])
  d != 4 && decide (rest.natAbs < 4 ^ (12 - l.length))

/-- A digit that keeps it: the offered one, or the first that does. -/
def nextDigit (v : W32) (l : List (BitVec 3)) (offer : BitVec 3) : BitVec 3 :=
  if digitOk v l offer then offer
  else match ([0, 1, 2, 3, 7, 6, 5] : List (BitVec 3)).find? (digitOk v l) with
    | some d => d
    | none => 0

/-- The class of the value streams digits: normal or subnormal. -/
def streamsDigits (v : W32) : Bool :=
  match f32.value v.toNat with
  | .fin _ n => decide (n ≠ 0)
  | _ => false

/-- A link whose producer has nothing more to do. -/
def Link.finish (k : Link) : Link :=
  if k.st = .trimmed then { Link.blank with st := .trimmed }
  else { Link.blank with st := .complete, hdr := true, value := k.value }

/-- Its producer still computes: later or, for a trimmed link, only earlier readers take the digits (spec/20 R335). -/
def Link.live (k : Link) : Bool := k.st == .streaming || k.pend

/-- Every slot of the stream has come: the header of a zero, infinity or NaN is its whole value (spec/20 R328). -/
def Link.isOver (k : Link) : Bool := k.hdr && (!streamsDigits k.value || decide (k.digits.length = 13))

/-- One more slot of a stream: its header, or a digit. -/
def Link.grow (k : Link) (offer : BitVec 3) : Link :=
  if !k.hdr then { k with hdr := true } else { k with digits := k.digits ++ [nextDigit k.value k.digits offer] }

/-- One slot of a stream, the last of which completes it (spec/20 R328, R330). -/
def Link.slot (k : Link) (offer : BitVec 3) : Link :=
  let k' := k.grow offer
  if k'.isOver then k'.finish else k'

/-- The streams of a lane by number: 0 to 7 its links, 16 + r that of V register r. -/
def Team.stream (t : Team) (y l : Nat) : Link := if y < 16 then t.getL y l else t.vs.get .blank ((y - 16) * 1024 + l)
/-- The same, changed. -/
def Team.setStream (t : Team) (y l : Nat) (k : Link) : Team :=
  if y < 16 then t.setL y l k else { t with vs := t.vs.set ((y - 16) * 1024 + l) k }

/-- The producer takes digits from a stream of its lane. -/
def Link.follows (k : Link) (y : Nat) : Bool :=
  k.live && if y < 16 then k.tagA.toNat == 8 + y || k.tagB.toNat == 8 + y || k.tagC.toNat == 8 + y else k.vsrc.contains (y - 16)

/-- The sources that the producer takes as they stream have delivered what its next slot needs (spec/20 R331). -/
def Team.sourcesReady (t : Team) (k : Link) (l : Nat) : Bool :=
  let ready (y : Nat) : Bool :=
    let x := t.stream y l
    !x.live || (x.hdr && (!k.hdr || decide (k.digits.length < x.digits.length)))
  ([k.tagA, k.tagB, k.tagC].all fun g => decide (g.toNat < 8) || ready (g.toNat - 8)) && k.vsrc.all fun r => ready (16 + r)

/-- The result of V register `c` in a lane is there, or is no longer the register's: its stream ends, and what followed it has its
whole value. -/
def Team.endStream (t : Team) (c l : Nat) : Team :=
  if (t.vs.find? (c * 1024 + l)).isNone then t
  else
    let drop (p : Nat × Link) : Nat × Link := if p.1 % 1024 = l then (p.1, { p.2 with vsrc := p.2.vsrc.filter (· != c) }) else p
    { t with
      vs := (t.vs.filter fun p => p.1 != c * 1024 + l).map drop
      links := t.links.map drop
      cmpd := t.cmpd.map fun e => if e.f.sb.toNat = c then { e with vb := e.vb &&& ~~~(1 <<< l : Mask) } else e }

/-! ## Writing (spec/04 R77, R105) -/

/-- A first write of a block to a mask or scalar register that the scalar stream need not see yet (spec/01 R12). -/
def Team.soil (t : Team) (disp : Nat) (isMask : Bool) (reg : Nat) : Team :=
  if t.dirty.any fun e => e.disp == disp && e.isMask == isMask && e.reg == reg then t
  else { t with dirty := t.dirty ++ [{ disp := disp, isMask := isMask, reg := reg,
                                        old := if isMask then 0 else t.s.get 0 reg,
                                        oldM := if isMask then t.getM reg else 0 }] }

/-- Write a V or M register in lanes: results reach it in program order; a STALL promise of `lat` and `chain` cycles
begins, and loads not yet done keep note of what was written over them (spec/04 R77, R105). -/
def Team.writeReg (t : Team) (disp c : Nat) (lanes : List Nat) (val : Nat → W32) (lat chain : Nat) : Team :=
  if lanes.isEmpty then t
  else
    let old := lanes.map fun l => (l, t.reg c l)
    let t1 := if c < 256 then lanes.foldl (fun (x : Team) l => x.endStream c l) t else t.soil disp true (c - 272)
    let t2 := lanes.foldl (fun (x : Team) l => x.setReg c l (val l)) t1
    let pend := if lat = 0 then t2.pend else t2.pend ++ [{ reg := c, left := lat, chain := chain, old := old }]
    { t2 with
      pend := pend
      loads := t2.loads.map fun e =>
        if e.done then e else { e with isOver := e.isOver ++ ((lanes.filter fun l => e.has c l).map fun l => c * 1024 + l) } }

/-- A STALL promise over a register's lane still runs. -/
def Team.promised (t : Team) (c l : Nat) : Bool := t.pend.any fun p => p.reg == c && (p.old.find? l).isSome

/-! ## What a stream leaves possible (spec/20 R329) -/

/-- The values consistent with what is known of a source: a range of numbers, and whether it may be a NaN. -/
structure Known where
  maybeNan : Bool
  range : Option (Num × Num)
deriving DecidableEq, Repr

/-- What is known of one value. -/
def Known.one (v : W32) : Known :=
  match f32.value v.toNat with
  | .nan => { maybeNan := true, range := none }
  | x => { maybeNan := false, range := some (x, x) }

/-- What the header and digits of a stream leave possible. -/
def Link.possible (k : Link) : Known :=
  if !k.hdr then { maybeNan := true, range := some (.inf true, .inf false) }
  else if !streamsDigits k.value then Known.one k.value
  else
    let v := k.value
    let neg := v.getLsbD 31
    let e := bits v.toNat 23 8
    let m := digitsSum v k.digits
    let w : Int := 4 ^ (13 - k.digits.length)
    let lo := max ((m - w) / 8 + 1) (if e = 0 then 1 else 2 ^ 23)
    let hi := min (-((-(m + w)) / 8) - 1) (if e = 0 then 2 ^ 23 - 1 else 2 ^ 24 - 1)
    let num (q : Int) : Num := .fin neg (q.toNat * 2 ^ (e - 1))
    { maybeNan := false, range := some (if neg then (num hi, num lo) else (num lo, num hi)) }

/-- One number is less than another; false for a NaN. -/
def Num.less (a b : Num) : Bool :=
  match a.compare b with
  | some (lt, _) => lt
  | none => false
/-- Two numbers are equal; false for a NaN. -/
def Num.same (a b : Num) : Bool :=
  match a.compare b with
  | some (_, eq) => eq
  | none => false

/-- What the ranges decide of a relation: eq, ne, lt, le, gt, ge (spec/20 R334). -/
def decideRange (code : Nat) (a b : Num × Num) : Option Bool :=
  let below := a.2.less b.1
  let above := b.2.less a.1
  let notAbove := !b.1.less a.2
  let notBelow := !a.1.less b.2
  let equal := a.1.same a.2 && b.1.same b.2 && a.1.same b.1
  let pick (t f : Bool) : Option Bool := if t then some true else if f then some false else none
  match code with
  | 0 => pick equal (below || above)
  | 1 => pick (below || above) equal
  | 2 => pick below notBelow
  | 3 => pick notAbove above
  | 4 => pick above notAbove
  | _ => pick notBelow below

/-- What is decided of a relation between two sources, with their NaNs (spec/20 R334). -/
def decideKnown (code : Nat) (a b : Known) : Option Bool :=
  let nanRel := code == 1
  let mayNan := a.maybeNan || b.maybeNan
  match a.range, b.range with
  | some x, some y =>
    match decideRange code x y with
    | some r => if mayNan && r != nanRel then none else some r
    | none => none
  | _, _ => some nanRel

/-! ## Trims and their reach (spec/04 R91, R92, spec/20 R335) -/

/-- The links that a VFCMPD names. -/
def CmpdE.links (e : CmpdE) : List Nat := ([e.f.sa.toNat, e.f.sb.toNat].filter fun c => decide (256 ≤ c) && decide (c < 264)).map (· - 256)

/-- A reader of the link that came before still needs its digits in the lane: a producer, or a VFCMPD that has not decided. -/
def Team.wanted (t : Team) (n l : Nat) : Bool :=
  ((List.range 8).any fun j => (t.getL j l).follows n) || (t.vs.any fun p => p.1 % 1024 == l && p.2.follows n)
    || t.cmpd.any fun e => e.left.getLsbD l && e.links.contains n

/-- A trim of a link in a lane: later readers see it TRIMMED; its producer goes on while an earlier reader needs digits. -/
def Team.trim (t : Team) (n l : Nat) : Team :=
  let k := t.getL n l
  if k.live && t.wanted n l then t.setL n l { k with st := .trimmed, pend := true }
  else t.setL n l { Link.blank with st := .trimmed }

/-- Producers that owe digits to no one stop, and with them those that only they kept going (spec/20 R335, R336). -/
def Team.stopUnwanted (t : Team) : Nat → Team
  | 0 => t
  | fuel + 1 =>
    let idle := t.links.filter fun p => p.2.pend && !t.wanted (p.1 / 1024) (p.1 % 1024)
    if idle.isEmpty then t
    else (idle.foldl (fun (x : Team) p => x.setL (p.1 / 1024) (p.1 % 1024) p.2.finish) t).stopUnwanted fuel

/-- A reader that needs the whole value must wait (spec/01 R19, spec/04 R89). -/
def Team.linkStreams (t : Team) (c : Nat) (lanes : List Nat) : Bool :=
  decide (256 ≤ c) && decide (c < 264) && lanes.any fun l => (t.getL (c - 256) l).st == .streaming

/-- A write of a link must wait: its last value streams, or an earlier reader still takes digits (spec/04 R89). -/
def Team.linkHeld (t : Team) (c : Nat) (lanes : List Nat) : Bool :=
  decide (256 ≤ c) && decide (c < 264) && lanes.any fun l =>
    let k := t.getL (c - 256) l
    k.st == .streaming || k.pend || t.wanted (c - 256) l

/-! ## Early decisions (spec/04 R90, spec/20 R334) -/

/-- A source of a VFCMPD in a lane: what is known of it, the value it completes to, and whether it still streams. A link is
followed past a trim that comes after the VFCMPD, but not past one that came before it (`first`: the VFCMPD issues). -/
def Team.cmpdSide (t : Team) (first : Bool) (e : CmpdE) (c : BitVec 9) (l : Nat) : Known × W32 × Bool :=
  let n := c.toNat
  let flow (k : Link) : Known × W32 × Bool := (k.possible, k.value, !k.isOver)
  if 256 ≤ n ∧ n < 264 then
    let k := t.getL (n - 256) l
    if k.st = .streaming ∨ (k.pend ∧ !first) then flow k else (Known.one k.read, k.read, false)
  else if e.vb.getLsbD l then flow (t.vs.get .blank (n * 1024 + l))
  else (Known.one (e.vals.get 0 l), e.vals.get 0 l, false)

/-- What a lane of a VFCMPD decides now, if it does: equal values only when both sources are complete. -/
def Team.verdict (t : Team) (first : Bool) (e : CmpdE) (l : Nat) : Option Bool :=
  let a := t.cmpdSide first e e.f.sa l
  let b := t.cmpdSide first e e.f.sb l
  if (a.2.2 || b.2.2) && (f32.value a.2.1.toNat).same (f32.value b.2.1.toNat) then none else decideKnown e.f.up3 a.1 b.1

/-- A lane of the VFCMPD at a place of the list decides if it can, and with that it trims (spec/20 R336). -/
def Team.decideAt (t : Team) (first : Bool) (i l : Nat) : Team :=
  match t.cmpd[i]? with
  | none => t
  | some e =>
    if !e.left.getLsbD l then t
    else
      match t.verdict first e l with
      | none => t
      | some v =>
        let bit : Mask := 1 <<< l
        let t := { t with cmpd := t.cmpd.set i { e with left := e.left &&& ~~~bit, hit := if v then e.hit ||| bit else e.hit } }
        if v && e.f.md.getLsbD 2 then e.links.foldl (fun (x : Team) n => x.trim n l) t else t

/-- A VFCMPD whose last lane has decided writes DST in its active lanes (spec/04 R90). -/
def Team.cmpdWrite (t : Team) : Team :=
  (t.cmpd.filter fun e => e.left == 0).foldl (fun (x : Team) e =>
      x.writeReg e.disp e.f.dst.toNat (lanesOf e.act t.width) (fun l => if e.hit.getLsbD l then 0xFFFFFFFF else 0) 0 0)
    { t with cmpd := t.cmpd.filter fun e => e.left != 0 }

/-- What has become known in some lanes lets VFCMPDs decide there. -/
def Team.decideIn (t : Team) (lanes : List Nat) : Team :=
  if t.cmpd.isEmpty then t
  else (lanes.foldl (fun (x : Team) l => (List.range t.cmpd.length).foldl (fun x i => x.decideAt false i l) x) t).cmpdWrite

/-- V results whose promise has run out are there (spec/04 R77, spec/20 R331); one that was saved in flight goes on (R338). -/
def Team.ripen (t : Team) : Team :=
  if t.vs.isEmpty then t
  else
    let isOver := t.vs.filter fun p => !p.2.lock && !t.promised (p.1 / 1024) (p.1 % 1024)
    (isOver.foldl (fun (x : Team) p => x.endStream (p.1 / 1024) (p.1 % 1024)) t).decideIn (isOver.map fun p => p.1 % 1024).eraseDups

/-- A VFCMPD holds an instruction back: one behind a STALL of 0, one that names its destination, one that reads what it may
trim (spec/04 R77, R90, R91). -/
def Team.cmpdHolds (t : Team) (f : LaneF) (codes : List Nat) : Bool :=
  t.cmpd.any fun e => e.f.stall == 0 || (f.msk != 0 && 272 + f.msk.toNat == e.f.dst.toNat) || codes.contains e.f.dst.toNat
    || (e.f.md.getLsbD 2 && e.links.any fun n => codes.contains (256 + n))

/-- A register that was saved in flight is interlocked until it is written (spec/20 R338). -/
def Team.locked (t : Team) (codes : List Nat) : Bool := t.vs.any fun p => p.2.lock && codes.contains (p.1 / 1024)

/-- The streams of a team are saved, or it stops: what is in flight to V registers is interlocked from here on (spec/20 R336,
R338). -/
def Team.saveStreams (t : Team) : Team :=
  { t.stopUnwanted 9 with vs := t.vs.map fun p => (p.1, { p.2 with lock := true }) }

end Sys2Proof.Machine
end

