-- ==== Sys2Proof/Machine/Operands.lean ====
section
/-! DEFINITION. The operand forms of the lane stream and the frame of a lane instruction: which lanes are active, what
each operand code reads, the state checks, the interlocks and the STALL promise, writing a destination, and going on
(spec/01 R14 to R19, R27 to R29, spec/04 R76 to R79, R89, R105, spec/20 R331, R332). -/

namespace Sys2Proof.Machine

/-- The special lane values (spec/01 R29); `cyc` is CYCLE at the first pass. %rwc does not yet count the reading instruction (DEDUCED,
log entry 73). -/
def State.laneSpecial (s : State) (cyc : W32) (c l : Nat) : W32 :=
  let t := s.tm
  let core := s.teamCore s.cur
  match c with
  | 352 => BitVec.ofNat 32 l
  | 353 => BitVec.ofNat 32 (l / 32)
  | 354 => BitVec.ofNat 32 (teamNum s.cur)
  | 355 => BitVec.ofNat 32 s.tg.idx
  | 356 => BitVec.ofNat 32 core
  | 357 => BitVec.ofNat 32 (core / 4)
  | 358 => BitVec.ofNat 32 t.quarter
  | 359 => BitVec.ofNat 32 (dieOf core)
  | 360 => BitVec.ofNat 32 t.width
  | 361 => BitVec.ofNat 32 (l % 32)
  | 363 => 0xFFFFFFFF
  | 364 => cyc
  | 365 => t.rwc.truncate 32
  | _ => 0

/-- The value of an operand code in a lane, for registers as team `view` has them and scalar registers as the block's
dispatch found them (spec/01 R29, spec/04 R79). -/
def State.operand (s : State) (view : Team) (b : Block) (f : LaneF) (cyc : W32) (c l : Nat) : W32 :=
  if c < 256 then view.reg c l
  else if c < 264 then (view.getL (c - 256) l).read
  else if c < 288 then view.reg c l
  else if c < 352 then (if c = 288 then 0 else (b.snap.get 0 (c - 288)).truncate 32)
  else if c = 511 then f.imm
  else s.laneSpecial cyc c l

/-- A full scalar register as the block's dispatch found it. -/
def Block.scalar (b : Block) (c : Nat) : W64 := if c = 288 then 0 else b.snap.get 0 (c - 288)

/-! ## The STALL promise and load destinations (spec/04 R77, R105, spec/20 R332) -/

/-- A write to the register is still owed to a reader of these lanes; `ch` for a chained reader. -/
def Team.late (t : Team) (ch : Bool) (c : Nat) (lanes : List Nat) : Bool :=
  t.pend.any fun p => p.reg == c && decide (0 < if ch then p.chain else p.left) && lanes.any fun l => (p.old.find? l).isSome

/-- The register is the destination of a load that does not cover the reading block. -/
def Team.loading (t : Team) (disp c : Nat) (lanes : List Nat) : Bool :=
  t.loads.any fun e => !e.covers disp && lanes.any fun l => e.has c l

/-- What a lane of a register gives a reader that breaks the promise: a value that it held before, or the value now
(spec/04 R77, R105). -/
def Team.eitherReg (t : Team) (free disp : Nat) (ch : Bool) (c l : Nat) : W32 :=
  let choice (k : Nat) : Bool := Config.pick ((free + 1) * 2 ^ 32 + k * 2 ^ 20 + c * 1024 + l)
  let v := (t.pend.foldr (fun p (acc : W32 × Nat) =>
    match p.old.find? l with
    | some o => if p.reg = c ∧ (0 < if ch then p.chain else p.left) ∧ choice acc.2 then (o, acc.2 + 1) else (acc.1, acc.2 + 1)
    | none => acc) (t.reg c l, 0)).1
  match t.loads.find? fun e => !e.covers disp && e.has c l && (e.old.find? (c * 1024 + l)).isSome with
  | some e => if choice 4095 then e.old.get 0 (c * 1024 + l) else v
  | none => v

/-- The team as a reader that breaks the promise sees it. -/
def Team.eitherView (t : Team) (free disp : Nat) (ch : Bool) (reads : List (Nat × List Nat)) : Team :=
  reads.foldl (fun (x : Team) (r : Nat × List Nat) =>
    r.2.foldl (fun (x : Team) l =>
      if t.late ch r.1 [l] || t.loading disp r.1 [l] then x.setReg r.1 l (t.eitherReg free disp ch r.1 l) else x) x) t

/-! ## Groups and their timing (spec/04 R78, spec/20 R330) -/

/-- The latency of a result that STALL governs (spec/04 R78). -/
def latencyOf (opc : Nat) : Nat :=
  match opc with
  | 0x042 => 9
  | 0x043 => 10
  | 0x044 => 10
  | 0x045 => 10
  | 0x048 => 14
  | 0x049 => 14
  | 0x04A => 14
  | 0x04B => 14
  | 0x04C => 7
  | 0x04D => 7
  | 0x051 => 2
  | 0x052 => 16
  | 0x053 => 16
  | n => if n < 0x040 then 4 else if n < 0x080 then 8 else if n < 0x085 then 4 else 2

/-! ## The frame -/

/-- The operand codes that a lane instruction names as registers, with the roles that make them registers. -/
def regCodes (sp : LSpec) (f : LaneF) : List Nat :=
  let one (r : Role) (c : BitVec 9) : List Nat :=
    match r with
    | .none => []
    | .fmts => []
    | .tok => []
    | _ => [c.toNat]
  one sp.d f.dst ++ one sp.a f.sa ++ one sp.b f.sb ++ one sp.c f.sc

/-- The register number lies beyond a budget of blocks of 8 (spec/01 R14). -/
def beyond (budget c : Nat) : Bool := decide (c < 256) && decide (8 * budget ≤ c)

/-- The effective mask: M0 AND M[MSK] (spec/01 R27). -/
def Team.effective (t : Team) (f : LaneF) : Mask :=
  if f.msk = 0 then t.getM 0 else t.getM 0 &&& t.getM f.msk.toNat

/-- The block as one of its instructions reads the scalar registers: the values of its dispatch, or newer ones, left open
(spec/04 R79, spec/03 R62). -/
def Block.seen (b : Block) (free : Nat) : Block :=
  { b with snap := b.later.foldl (fun (m : Sparse W64) p =>
      if Config.pick ((free + 1) * 2 ^ 32 + 3 * 2 ^ 30 + 64 + p.1) then m.set p.1 p.2 else m) b.snap }

/-- A lane instruction reads a scalar register that an SLDG still loaded at the block's dispatch, or writes one that an SLDG
loads whose token the team has not observed (spec/03 R62). -/
def Team.scalarOpen (t : Team) (b : Block) (dst : Nat) (rd : List (Nat × List Nat)) : Bool :=
  rd.any (fun r => decide (288 < r.1) && decide (r.1 < 352) && !r.2.isEmpty && b.unsure.contains (r.1 - 288))
    || (decide (288 < dst) && decide (dst < 352) && t.uncovered (BitVec.ofNat 6 (dst - 288)))

/-- Run a lane instruction up to its effect. `bad` is a state condition of reason 5 and `over` one of reason 6; `regs`
are the registers it names; `reads` gives, from M0 and the effective mask, the operand codes it reads as whole values
with the lanes in which it reads them, `takes` the links that it takes digit by digit. The effect gets the block, the
team as its reads see it, the effective mask and the state (spec/02 R45, R46, spec/04 R76, R77, R89, R105). -/
def State.laneFrame (s : State) (f : LaneF) (opc : Nat) (bad isOver : Bool) (regs : List Nat)
    (reads : Team → Mask → List (Nat × List Nat)) (wlink : Bool) (k : Block → Team → Mask → State → Out) : Out :=
  let t := s.tm
  match t.running with
  | none => .next s
  | some b =>
    if bad then laneIllegal s .value
    else if isOver || regs.any (beyond b.budget) || (!f.e && opc != 0xA6 && decide (t.lanes ≤ b.idx + 1)) then laneIllegal s .state
    else
      let ch := f.ch
      let pr : List (Nat × List Nat) := if f.msk = 0 then [] else [(272 + f.msk.toNat, lanesOf (t.getM 0) t.width)]
      let seen := if pr.any (fun r => t.late ch r.1 r.2) then t.eitherView s.free b.disp ch pr else t
      let eff := seen.effective f
      let act := lanesOf eff t.width
      let rd := pr ++ reads t eff
      let codes := regs ++ rd.map Prod.fst
      if t.cmpdHolds f codes || rd.any (fun r => t.linkStreams r.1 r.2) || (wlink && t.linkHeld f.dst.toNat act) then stall s
      else if s.tg.check && (rd.any (fun r => t.loading b.disp r.1 r.2) || t.scalarOpen b f.dst.toNat rd) then
        .next (s.laneFault kCheckToken .state 0 0)
      else if s.tg.check && rd.any (fun r => t.late ch r.1 r.2) then .next (s.laneFault kCheckStall .state 0 0)
      else if t.locked codes then stall s
      else if rd.any (fun r => t.loading b.disp r.1 r.2 || t.late ch r.1 r.2) then
        k (b.seen s.free) (t.eitherView s.free b.disp ch rd) eff s.fresh
      else k (b.seen s.free) t eff (if b.later.isEmpty then s else s.fresh)

/-- The promises after an instruction with this STALL: 0 satisfies every one (spec/04 R77). -/
def spend (stall : Nat) (l : List PendW) : List PendW :=
  if stall = 0 then []
  else (l.map fun p => { p with left := p.left - stall, chain := p.chain - stall }).filter fun p => decide (0 < p.left)

/-- Passes of a team without an active lane. -/
def skipped (m : Mask) (w : Nat) : Nat :=
  ((List.range (w / 32)).filter fun i => (m >>> (32 * i)).truncate 32 == (0 : W32)).length

/-- Add to a counter event. -/
def State.countN (s : State) (m event : Nat) : Nat → State
  | 0 => s
  | n + 1 => (s.count m event).countN m event n

/-- The block goes on at an index, or ends: its token completes when its results are written, and changes of FMT
behind it take effect (spec/01 R12, spec/03 R69). -/
def State.laneGo (s : State) (b : Block) (f : LaneF) (next : Option Nat) : State :=
  match next with
  | some i => s.modTm fun t => { t with running := t.running.map fun r => { r with idx := i } }
  | none =>
    if f.e then
      (s.modTm fun t => { t with running := none, ended := t.ended ++ [b] }.popFmt).post .laneBlockComplete s.cur
    else s.modTm fun t => { t with running := t.running.map fun r => { r with idx := b.idx + 1 } }

/-- A lane instruction retires: it counts one, its STALL runs, and the block goes on (spec/04 R76, R77). -/
def State.laneRetire (s : State) (b : Block) (f : LaneF) (skip : Nat) (next : Option Nat) : State :=
  let s := s.modTm fun t => { t with rwc := t.rwc + 1, pend := spend f.stall.toNat t.pend, lwait := none }.ripen
  let s := s.ran (gangOf s.cur) (.issue (.lane s.cur))
  ((s.count (s.memberOf s.cur) 3).countN (s.memberOf s.cur) 4 skip).laneGo b f next

/-- CYCLE as a lane instruction reads it, where it reads it: the value is journalled (spec/24 R367). -/
def State.laneCycle (s : State) (codes : List Nat) : W32 × State :=
  if codes.contains 364 then
    let r := s.journal (.lane s.cur) s.tm.rwc [s.cycleReg (s.teamCore s.cur)]
    ((r.1.headD 0).truncate 32, r.2)
  else (0, s)

/-- An instruction that works lane by lane into a V or M register: `g` takes the lane, the values through SA, SB
and SC, and the destination's own. -/
def State.laneMap (s : State) (opc : Nat) (f : LaneF) (bad isOver readsDst : Bool)
    (g : State → Nat → W32 → W32 → W32 → W32 → W32) : Out :=
  match laneSpec opc with
  | none => .next s
  | some sp =>
    let src := regCodes { sp with d := .none } f ++ (if readsDst then [f.dst.toNat] else [])
    let reads (t : Team) (eff : Mask) : List (Nat × List Nat) := src.map fun c => (c, lanesOf eff t.width)
    s.laneFrame f opc bad isOver (regCodes sp f) reads false fun b view eff s =>
      let r := s.laneCycle src
      let s := r.2
      let at_ (c : BitVec 9) (l : Nat) : W32 := s.operand view b f r.1 c.toNat l
      let val (l : Nat) : W32 := g s l (at_ f.sa l) (at_ f.sb l) (at_ f.sc l) (if readsDst then at_ f.dst l else 0)
      let lanes := lanesOf eff s.tm.width
      let lat := latencyOf opc
      .next ((s.modTm fun t => t.writeReg b.disp f.dst.toNat lanes val lat lat).laneRetire b f (skipped eff s.tm.width) none)

end Sys2Proof.Machine
end

