-- ==== Sys2Proof/Machine/ScalarInt.lean ====
section
/-! DEFINITION. The scalar integer instructions (spec/03 R50 to R53). -/

namespace Sys2Proof.Machine

/-- Leading zero bits of a value, 0 to the width (spec/03 R50). -/
def leadingZeros {n : Nat} (a : BitVec n) : Nat :=
  if a = 0 then n else n - 1 - a.toNat.log2

/-- One bits of a value. -/
def oneBits {n : Nat} (a : BitVec n) : Nat := ((List.range n).filter fun i => a.getLsbD i).length

/-- The two-operand operations of opcode 0x01 (spec/03 R50). -/
inductive Alu where
  | add | sub | and | or | xor | shl | shr | sra | minS | maxS | minN | maxN | sltS | sltN | seq | sne
deriving DecidableEq, Repr

/-- The result of an operation of opcode 0x01 on two register values (spec/03 R50). -/
def Alu.result (o : Alu) (a b : W64) : W64 :=
  match o with
  | .add => a + b
  | .sub => a - b
  | .and => a &&& b
  | .or => a ||| b
  | .xor => a ^^^ b
  | .shl => a <<< (b.toNat % 64)
  | .shr => a >>> (b.toNat % 64)
  | .sra => a.sshiftRight (b.toNat % 64)
  | .minS => if a.slt b then a else b
  | .maxS => if a.slt b then b else a
  | .minN => if a.ult b then a else b
  | .maxN => if a.ult b then b else a
  | .sltS => boolWord (a.slt b)
  | .sltN => boolWord (a.ult b)
  | .seq => boolWord (a == b)
  | .sne => boolWord (a != b)

/-- The operations of opcode 0x02 (spec/03 R51). -/
inductive MulDiv where
  | mul | mulhS | mulhN | divS | divN | remS | remN
deriving DecidableEq, Repr

/-- The result of an operation of opcode 0x02; division by zero gives all ones and the remainder the dividend
(spec/03 R51). -/
def MulDiv.result (o : MulDiv) (a b : W64) : W64 :=
  match o with
  | .mul => a * b
  | .mulhS => BitVec.ofInt 64 (a.toInt * b.toInt / 2 ^ 64)
  | .mulhN => BitVec.ofNat 64 (a.toNat * b.toNat / 2 ^ 64)
  | .divS => if b = 0 then BitVec.allOnes 64 else BitVec.ofInt 64 (a.toInt.tdiv b.toInt)
  | .divN => if b = 0 then BitVec.allOnes 64 else BitVec.ofNat 64 (a.toNat / b.toNat)
  | .remS => if b = 0 then a else BitVec.ofInt 64 (a.toInt.tmod b.toInt)
  | .remN => if b = 0 then a else BitVec.ofNat 64 (a.toNat % b.toNat)

/-- A register instruction with two sources: S[SD] := f(S[SA], S[SB]), and the stream goes on. -/
def scalar2 (f : W64 → W64 → W64) (sd sa sb : BitVec 6) (s : State) : Out :=
  s.withRegs [sa, sb] [sd] fun s => .next (s.wS sd (f (s.rS sa) (s.rS sb))).advance

/-- A register instruction with one source. -/
def scalar1 (f : W64 → W64) (sd sa : BitVec 6) (s : State) : Out :=
  s.withRegs [sa] [sd] fun s => .next (s.wS sd (f (s.rS sa))).advance

/-- An SI-form arithmetic instruction with its immediate at full width, of `len` bytes: 4, or 8 behind SIMM (spec/01
R26, spec/03 R52). -/
def scalarImm (o : Alu) (len : W64) (sd sa : BitVec 6) (imm : W64) (s : State) : Out :=
  s.withRegs [sa] [sd] fun s => .next ((s.wS sd (o.result (s.rS sa) imm)).advanceBy len)

def execSadd (sd sa sb : BitVec 6) (s : State) : Out := scalar2 Alu.add.result sd sa sb s
def execSsub (sd sa sb : BitVec 6) (s : State) : Out := scalar2 Alu.sub.result sd sa sb s
def execSand (sd sa sb : BitVec 6) (s : State) : Out := scalar2 Alu.and.result sd sa sb s
def execSor (sd sa sb : BitVec 6) (s : State) : Out := scalar2 Alu.or.result sd sa sb s
def execSxor (sd sa sb : BitVec 6) (s : State) : Out := scalar2 Alu.xor.result sd sa sb s
def execSshl (sd sa sb : BitVec 6) (s : State) : Out := scalar2 Alu.shl.result sd sa sb s
def execSshr (sd sa sb : BitVec 6) (s : State) : Out := scalar2 Alu.shr.result sd sa sb s
def execSsra (sd sa sb : BitVec 6) (s : State) : Out := scalar2 Alu.sra.result sd sa sb s
def execSminS (sd sa sb : BitVec 6) (s : State) : Out := scalar2 Alu.minS.result sd sa sb s
def execSmaxS (sd sa sb : BitVec 6) (s : State) : Out := scalar2 Alu.maxS.result sd sa sb s
def execSminN (sd sa sb : BitVec 6) (s : State) : Out := scalar2 Alu.minN.result sd sa sb s
def execSmaxN (sd sa sb : BitVec 6) (s : State) : Out := scalar2 Alu.maxN.result sd sa sb s
def execSsltS (sd sa sb : BitVec 6) (s : State) : Out := scalar2 Alu.sltS.result sd sa sb s
def execSsltN (sd sa sb : BitVec 6) (s : State) : Out := scalar2 Alu.sltN.result sd sa sb s
def execSseq (sd sa sb : BitVec 6) (s : State) : Out := scalar2 Alu.seq.result sd sa sb s
def execSsne (sd sa sb : BitVec 6) (s : State) : Out := scalar2 Alu.sne.result sd sa sb s
def execSclz (sd sa : BitVec 6) (s : State) : Out := scalar1 (fun a => BitVec.ofNat 64 (leadingZeros a)) sd sa s
def execSpop (sd sa : BitVec 6) (s : State) : Out := scalar1 (fun a => BitVec.ofNat 64 (oneBits a)) sd sa s

def execSmul (sd sa sb : BitVec 6) (s : State) : Out := scalar2 MulDiv.mul.result sd sa sb s
def execSmulhS (sd sa sb : BitVec 6) (s : State) : Out := scalar2 MulDiv.mulhS.result sd sa sb s
def execSmulhN (sd sa sb : BitVec 6) (s : State) : Out := scalar2 MulDiv.mulhN.result sd sa sb s
def execSdivS (sd sa sb : BitVec 6) (s : State) : Out := scalar2 MulDiv.divS.result sd sa sb s
def execSdivN (sd sa sb : BitVec 6) (s : State) : Out := scalar2 MulDiv.divN.result sd sa sb s
def execSremS (sd sa sb : BitVec 6) (s : State) : Out := scalar2 MulDiv.remS.result sd sa sb s
def execSremN (sd sa sb : BitVec 6) (s : State) : Out := scalar2 MulDiv.remN.result sd sa sb s

def execSaddi (sd sa : BitVec 6) (imm : BitVec 13) (s : State) : Out := scalarImm .add 4 sd sa (sext64 imm) s
def execSandi (sd sa : BitVec 6) (imm : BitVec 13) (s : State) : Out := scalarImm .and 4 sd sa (sext64 imm) s
def execSori (sd sa : BitVec 6) (imm : BitVec 13) (s : State) : Out := scalarImm .or 4 sd sa (sext64 imm) s
def execSxori (sd sa : BitVec 6) (imm : BitVec 13) (s : State) : Out := scalarImm .xor 4 sd sa (sext64 imm) s
def execSslti (sd sa : BitVec 6) (imm : BitVec 13) (s : State) : Out := scalarImm .sltS 4 sd sa (sext64 imm) s
def execSshli (sd sa sh : BitVec 6) (s : State) : Out := scalarImm .shl 4 sd sa (sh.zeroExtend 64) s
def execSshri (sd sa sh : BitVec 6) (s : State) : Out := scalarImm .shr 4 sd sa (sh.zeroExtend 64) s
def execSsrai (sd sa sh : BitVec 6) (s : State) : Out := scalarImm .sra 4 sd sa (sh.zeroExtend 64) s

/-- The field of SBFX: `lo` the lowest bit, `wd` the width less 1, sign-extended or not (spec/03 R53). -/
def bfx (sx : Bool) (lo wd : BitVec 6) (a : W64) : W64 :=
  let w := wd.toNat + 1
  let f := a.toNat / 2 ^ lo.toNat % 2 ^ w
  if sx && decide (2 ^ (w - 1) ≤ f) then BitVec.ofInt 64 ((f : Int) - 2 ^ w) else BitVec.ofNat 64 f

def execSbfx (sd sa : BitVec 6) (sx : Bool) (lo wd : BitVec 6) (s : State) : Out := scalar1 (bfx sx lo wd) sd sa s

/-- The widened immediate of a SIMM pair: IMM25 times 2^13 plus the sign-extended IMM13, modulo 2^38, read as a 38-bit
two's-complement number (spec/01 R26). -/
def simmImm (imm25 : BitVec 25) (imm : BitVec 13) : W64 :=
  ((imm25.zeroExtend 38 <<< 13) + imm.signExtend 38).signExtend 64

end Sys2Proof.Machine
end

