-- ==== Sys2Proof/Machine/LaneInt.lean ====
section
/-! DEFINITION. The integer lane instructions (spec/04 R80 to R83). -/

namespace Sys2Proof.Machine

/-- The element width of an integer type code (spec/02 R41). -/
def elemWidth (ty : Nat) : Nat :=
  match ty / 2 with
  | 0 => 32
  | 1 => 16
  | _ => 8

/-- The type code is a signed one (spec/02 R41). -/
def elemSigned (ty : Nat) : Bool := ty % 2 == 0

/-- A two's-complement reading of `w` bits. -/
def readSigned (w a : Nat) : Int := if 2 ^ (w - 1) ≤ a then (a : Int) - 2 ^ w else a

/-- A number modulo 2^w. -/
def wrapInt (w : Nat) (x : Int) : Nat := (x % 2 ^ w).toNat

/-- An element as its type reads it. -/
def elemInt (ty a : Nat) : Int := if elemSigned ty then readSigned (elemWidth ty) a else a

/-- Apply an element function to the elements of 32-bit values, each by itself (spec/04 R80). -/
def perElem (ty : Nat) (g : Nat → Nat → Nat → Nat) (a b c : W32) : W32 :=
  let w := elemWidth ty
  let el (x : W32) (i : Nat) : Nat := bits x.toNat (w * i) w
  BitVec.ofNat 32 ((List.range (32 / w)).foldl
    (fun n i => n + g (el a i) (el b i) (el c i) % 2 ^ w * 2 ^ (w * i)) 0)

/-- An integer lane instruction by its element function on type, a, b and c (spec/04 R81). -/
def laneElem (opc : Nat) (g : Nat → Nat → Nat → Nat → Nat) (f : LaneF) (s : State) : Out :=
  s.laneMap opc f false false false fun _ _ a b c _ => perElem f.hi3 (g f.hi3) a b c

/-- An instruction on whole 32-bit values (spec/04 R81). -/
def laneWhole (opc : Nat) (g : W32 → W32 → W32) (f : LaneF) (s : State) : Out :=
  s.laneMap opc f false false false fun _ _ a b _ _ => g a b

/-- The lesser of two elements of a type. -/
def elemMin (ty a b : Nat) : Nat := if elemInt ty a < elemInt ty b then a else b
/-- The greater of two elements of a type. -/
def elemMax (ty a b : Nat) : Nat := if elemInt ty a < elemInt ty b then b else a

def execVadd (f : LaneF) (s : State) : Out := laneElem 0x000 (fun _ a b _ => a + b) f s
def execVsub (f : LaneF) (s : State) : Out := laneElem 0x001 (fun ty a b _ => a + (2 ^ elemWidth ty - b)) f s
def execVmul (f : LaneF) (s : State) : Out := laneElem 0x002 (fun _ a b _ => a * b) f s
/-- VMULH: the high half of the exact product (spec/04 R81). -/
def execVmulh (f : LaneF) (s : State) : Out :=
  laneElem 0x003 (fun ty a b _ => wrapInt (elemWidth ty) (elemInt ty a * elemInt ty b / 2 ^ elemWidth ty)) f s
def execVmad (f : LaneF) (s : State) : Out := laneElem 0x004 (fun _ a b c => a * b + c) f s
def execVmin (f : LaneF) (s : State) : Out := laneElem 0x005 (fun ty a b _ => elemMin ty a b) f s
def execVmax (f : LaneF) (s : State) : Out := laneElem 0x006 (fun ty a b _ => elemMax ty a b) f s
def execVabs (f : LaneF) (s : State) : Out := laneElem 0x007 (fun ty a _ _ => (elemInt ty a).natAbs) f s
def execVneg (f : LaneF) (s : State) : Out := laneElem 0x008 (fun ty a _ _ => 2 ^ elemWidth ty - a) f s
def execVand (f : LaneF) (s : State) : Out := laneWhole 0x009 (fun a b => a &&& b) f s
def execVor (f : LaneF) (s : State) : Out := laneWhole 0x00A (fun a b => a ||| b) f s
def execVxor (f : LaneF) (s : State) : Out := laneWhole 0x00B (fun a b => a ^^^ b) f s
def execVnot (f : LaneF) (s : State) : Out := laneWhole 0x00C (fun a _ => ~~~a) f s
def execVshl (f : LaneF) (s : State) : Out := laneElem 0x00D (fun ty a b _ => a * 2 ^ (b % elemWidth ty)) f s
def execVshr (f : LaneF) (s : State) : Out := laneElem 0x00E (fun ty a b _ => a / 2 ^ (b % elemWidth ty)) f s
/-- VSRA shifts arithmetically whatever the type's sign (spec/04 R81). -/
def execVsra (f : LaneF) (s : State) : Out :=
  laneElem 0x00F (fun ty a b _ => wrapInt (elemWidth ty) (readSigned (elemWidth ty) a / 2 ^ (b % elemWidth ty))) f s
def execVrot (f : LaneF) (s : State) : Out :=
  laneElem 0x010 (fun ty a b _ =>
    let w := elemWidth ty
    a * 2 ^ (b % w) + a / 2 ^ (w - b % w)) f s
def execVclz (f : LaneF) (s : State) : Out :=
  laneElem 0x011 (fun ty a _ _ => if a = 0 then elemWidth ty else elemWidth ty - 1 - a.log2) f s
def execVpop (f : LaneF) (s : State) : Out := laneElem 0x012 (fun _ a _ _ => oneBits (BitVec.ofNat 32 a)) f s

/-- The field of VBFX (spec/04 R82). -/
def laneBfx (sx : Bool) (a b c : W32) : W32 :=
  let w := min (bits c.toNat 0 6) 32
  let x := a.toNat / 2 ^ bits b.toNat 0 5 % 2 ^ w
  if sx && decide (0 < w) && decide (2 ^ (w - 1) ≤ x) then BitVec.ofInt 32 ((x : Int) - 2 ^ w) else BitVec.ofNat 32 x
/-- VBFI: the field of `d` replaced by the low bits of `a` (spec/04 R82). -/
def laneBfi (a b c d : W32) : W32 :=
  let m : W32 := BitVec.ofNat 32 ((2 ^ min (bits c.toNat 0 6) 32 - 1) * 2 ^ bits b.toNat 0 5)
  (d &&& ~~~m) ||| ((a <<< bits b.toNat 0 5) &&& m)

def execVbfx (f : LaneF) (s : State) : Out :=
  s.laneMap 0x013 f false false false fun _ _ a b c _ => laneBfx (elemSigned f.hi3) a b c
def execVbfi (f : LaneF) (s : State) : Out := s.laneMap 0x014 f false false true fun _ _ a b c d => laneBfi a b c d
def execVsel (f : LaneF) (s : State) : Out := laneElem 0x015 (fun _ a b c => if c = 0 then b else a) f s
def execVmov (f : LaneF) (s : State) : Out := laneWhole 0x016 (fun a _ => a) f s
/-- VCMP: all ones where the relation holds (spec/04 R83). -/
def execVcmp (f : LaneF) (s : State) : Out :=
  laneElem 0x017 (fun ty a b _ =>
    if relHolds f.mid3 (decide (elemInt ty a < elemInt ty b)) (a == b) then 2 ^ elemWidth ty - 1 else 0) f s

end Sys2Proof.Machine
end

