-- ==== Sys2Proof/Machine/LaneCross.lean ====
section
/-! DEFINITION. The cross-lane instructions (spec/04 R99, R100). -/

namespace Sys2Proof.Machine

/-- A cross-lane instruction into a V register: `reads` gives the lanes of SA and SB that it reads, `val` a lane's result
from the readers of SA and SB and the active lanes. -/
def State.crossMap (s : State) (opc : Nat) (f : LaneF) (reads : State → Block → Team → List Nat → List Nat × List Nat)
    (val : State → (Nat → W32) → (Nat → W32) → List Nat → Nat → W32) : Out :=
  match laneSpec opc with
  | none => .next s
  | some sp =>
    let codes := regCodes { sp with d := .none } f
    let rd (b : Block) (t : Team) (eff : Mask) : List (Nat × List Nat) :=
      let r := reads s b t (lanesOf eff t.width)
      [(f.sa.toNat, r.1), (f.sb.toNat, r.2)]
    match s.tm.running with
    | none => .next s
    | some b0 =>
      s.laneFrame f opc false false (regCodes sp f) (rd b0) false fun b view eff s =>
        let lanes := lanesOf eff s.tm.width
        let r := s.laneCycle codes
        let s := r.2
        let a (l : Nat) : W32 := s.operand view b f r.1 f.sa.toNat l
        let c (l : Nat) : W32 := s.operand view b f r.1 f.sb.toNat l
        .next ((s.modTm fun t => t.writeReg b.disp f.dst.toNat lanes (val s a c lanes) 0 0).laneRetire b f
          (skipped eff s.tm.width) none)

/-- VSHUF (spec/04 R99). -/
def execVshuf (f : LaneF) (s : State) : Out :=
  s.crossMap 0x0C0 f
    (fun s b t lanes => (lanes.map fun l => (s.operand t b f 0 f.sb.toNat l).toNat % t.width, lanes))
    fun s a c _ l => a ((c l).toNat % s.tm.width)

/-- VBCAST (spec/04 R99). -/
def execVbcast (f : LaneF) (s : State) : Out :=
  s.crossMap 0x0C1 f
    (fun s b t lanes => (if lanes.isEmpty then [] else [(s.operand t b f 0 f.sb.toNat 0).toNat % t.width], []))
    fun s a c _ _ => a ((c 0).toNat % s.tm.width)

/-- The fold operations on two values: integer element by element, or `.f32` with FMT.RM (spec/04 R100). -/
def foldOp (m : RMode) (ty op : Nat) (x y : W32) : W32 :=
  if ty = 6 then
    BitVec.ofNat 32 (match op with
      | 0 => f32.add m (f32.value x.toNat) (f32.value y.toNat)
      | 1 => f32.minMax false x.toNat y.toNat
      | _ => f32.minMax true x.toNat y.toNat)
  else
    match op with
    | 0 => perElem ty (fun a b _ => a + b) x y 0
    | 1 => perElem ty (fun a b _ => elemMin ty a b) x y 0
    | 2 => perElem ty (fun a b _ => elemMax ty a b) x y 0
    | 3 => x &&& y
    | 4 => x ||| y
    | _ => x ^^^ y

/-- The identity of a fold (spec/04 R100). -/
def foldIdentity (ty op : Nat) : W32 :=
  let w := elemWidth ty
  let least := if elemSigned ty then 2 ^ (w - 1) else 0
  let most := if elemSigned ty then 2 ^ (w - 1) - 1 else 2 ^ w - 1
  if ty = 6 then (match op with
    | 0 => 0
    | 1 => 0x7F800000
    | _ => 0xFF800000)
  else
    match op with
    | 0 => 0
    | 1 => perElem ty (fun _ _ _ => most) 0 0 0
    | 2 => perElem ty (fun _ _ _ => least) 0 0 0
    | 3 => 0xFFFFFFFF
    | _ => 0

/-- The left fold over lanes in ascending order; none over no lane (spec/04 R100). -/
def foldLanes (m : RMode) (ty op : Nat) (a : Nat → W32) (lanes : List Nat) : Option W32 :=
  match lanes with
  | [] => none
  | l :: ls => some (ls.foldl (fun r l => foldOp m ty op r (a l)) (a l))

/-- FMT.RM (spec/01 R17). -/
def State.fmtMode (s : State) : RMode := .ofCode (bits s.tm.fmt.toNat 0 2)

/-- VSCAN (spec/04 R100). -/
def execVscan (f : LaneF) (s : State) : Out :=
  s.crossMap 0x0C2 f (fun _ _ _ lanes => (lanes, []))
    fun s a _ lanes l => (foldLanes s.fmtMode f.hi3 f.mid3 a (lanes.filter fun k => decide (k ≤ l))).getD 0

/-- Write S[r] from the lane stream: the scalar stream sees it once it has observed the block's token (spec/01 R12); blocks
that are dispatched already, and the rest of this one, may read it (spec/04 R79), and an unobserved SLDG of the register has
been written over (spec/03 R62). -/
def Team.laneSetS (t : Team) (disp : Nat) (c : Nat) (v : W64) : Team :=
  let r := BitVec.ofNat 6 (c - 288)
  if r = 0 then t
  else
    let t := ((t.soil disp false r.toNat).setS r v).tellBlocks r.toNat v fun _ => true
    { t with loads := t.loads.map fun e => if e.scal && e.reg == r.toNat then { e with clob := true } else e }

/-- A cross-lane instruction into an S register. -/
def State.crossScalar (s : State) (opc : Nat) (f : LaneF) (val : State → (Nat → W32) → List Nat → W64) : Out :=
  match laneSpec opc with
  | none => .next s
  | some sp =>
    let rd (t : Team) (eff : Mask) : List (Nat × List Nat) := [(f.sa.toNat, lanesOf eff t.width)]
    s.laneFrame f opc false false (regCodes sp f) rd false fun b view eff s =>
      let lanes := lanesOf eff s.tm.width
      let r := s.laneCycle [f.sa.toNat]
      let s := r.2
      let v := val s (fun l => s.operand view b f r.1 f.sa.toNat l) lanes
      .next ((s.modTm fun t => t.laneSetS b.disp f.dst.toNat v).laneRetire b f (skipped eff s.tm.width) none)

/-- VRED into a V register: nothing with no active lane; into an S register: the identity then (spec/04 R100). -/
def execVred (f : LaneF) (s : State) : Out :=
  if f.dst.toNat < 256 then
    s.crossMap 0x0C3 f (fun _ _ _ lanes => (lanes, []))
      fun s a _ lanes _ => (foldLanes s.fmtMode f.hi3 f.mid3 a lanes).getD 0
  else
    s.crossScalar 0x0C3 f fun s a lanes =>
      let r := (foldLanes s.fmtMode f.hi3 f.mid3 a lanes).getD (foldIdentity f.hi3 f.mid3)
      if f.hi3 = 0 then r.signExtend 64 else r.zeroExtend 64

/-- VBALLOT (spec/04 R99). -/
def execVballot (f : LaneF) (s : State) : Out :=
  s.crossScalar 0x0C4 f fun _ a lanes =>
    let m : Mask := (lanes.filter fun l => a l != 0).foldl (fun (m : Mask) l => m ||| (1 <<< l : Mask)) 0
    let word (j : Nat) : W64 := if j < 32 then ((m >>> (32 * j)).truncate 32 : W32).zeroExtend 64 else 0
    let j := bits f.imm.toNat 0 5
    word j ||| (word (j + 1) <<< 32)

end Sys2Proof.Machine
end

