-- ==== Sys2Proof/Machine/ScalarGlobal.lean ====
section
/-! DEFINITION. SLDG and SSTG, and their completion (spec/03 R61, R62). -/

namespace Sys2Proof.Machine

/-- The checks of a scalar global access at issue: alignment, and the permission of a page that is mapped (spec/03
R62, spec/16 R281). -/
def State.globalAddr (s : State) (addr : W64) (n : Nat) (ok : Leaf → Bool) (k : Out) : Out :=
  if addr.toNat % n ≠ 0 then faultAt s kMisaligned addr
  else if 2 ^ 54 ≤ addr.toNat then faultAt s kProtection addr
  else
    match s.translate (s.teamCore s.cur) s.tg.part addr.toNat with
    | .leaf l => if ok l then k else faultAt s kProtection addr
    | _ => k

/-- The bytes of a scalar global access. -/
def widthOf (word : Bool) : Nat := if word then 4 else 8

/-- A request of one piece. -/
def oneReq (addr n : Nat) (data : List Byte) : Req :=
  { id := 0, addr := addr, n := n, data := data, cmp := [], pois := false, count := 0, stage := 0, dst := 0, st := .ready, cause := 0 }

/-- SLDG (spec/03 R62): the destination is uncovered until the team has observed the token. -/
def execSldg (td : BitVec 5) (sp sa sb : BitVec 6) (word : Bool) (s : State) : Out :=
  s.withRegs [sp, sa] [sb] fun s =>
    let addr := s.rS sa
    s.globalAddr addr (widthOf word) Leaf.loads <|
      let o := s.scalarOp (.sldg word) td (s.rS sp) addr 0
      let o := { o with reg := sb.toNat, reqs := [oneReq addr.toNat (widthOf word) []] }
      let e : LoadE := { op := s.nextOp, tok := td.toNat, scal := true, reg := sb.toNat, n := 1, done := false,
                         lanes := 0, clob := false, isOver := [], cover := none, old := [], oldS := 0 }
      Out.thenDo (s.issue o) fun s' =>
        if (s.tm.getT td.toNat).st = .pending then s' else s'.modTm fun t => { t with loads := t.loads ++ [e] }

/-- SSTG (spec/03 R62). -/
def execSstg (td : BitVec 5) (sp sa sb : BitVec 6) (word : Bool) (s : State) : Out :=
  s.withRegs [sp, sa, sb] [] fun s =>
    let addr := s.rS sa
    s.globalAddr addr (widthOf word) Leaf.stores <|
      let o := s.scalarOp (.sstg word) td (s.rS sp) addr (s.rS sb)
      s.issue { o with reqs := [oneReq addr.toNat (widthOf word) (natBytes (widthOf word) (s.rS sb).toNat)] }

/-- An operation ends: its token completes with its cause, if it met one (spec/11 R205, R215). -/
def State.endOp (s : State) (o : Nat) (x : Op) : State :=
  let s := { s with ops := s.ops.del o }
  s.completeToken x.team x.tok (if x.cause = 0 then none else some (x.cause, x.origin))

/-- SLDG writes its register: a register that another instruction has written meanwhile ends with either value
(spec/03 R62). -/
def State.landScalar (s : State) (o : Nat) (x : Op) (v : W64) : State :=
  let r := BitVec.ofNat 6 x.reg
  let clob := (s.team x.team).loads.any fun e => e.op == o && e.clob
  let keep := clob && Config.pick s.free
  let s := if clob then s.fresh else s
  s.modTeam x.team fun t =>
    let old := t.getS r
    let t := if keep then t else (t.setS r v).tellBlocks x.reg v fun b => b.unsure.contains x.reg
    { t with loads := t.loads.map fun e => if e.op = o then { e with done := true, oldS := old } else e }

/-- The read of an SLDG at the home: poison and uncorrectable errors give 0 (spec/03 R62, spec/14 R242). -/
def State.readScalar (s : State) (o : Nat) (x : Op) (q : Req) (l : Leaf) : State :=
  let pa := l.pa q.addr
  let s := (s.watchHome x l pa q.n 0).seeLine o x.team (pa / 128)
  let (s, hit) := s.eccHit pa q.n
  match hit with
  | some g =>
    let e := s.uncorrectable (s.gang x.gang).part (some (ctxOf x.gang)) (s.opRec x 3) g
    let x := x.addCause cMemory (e.1.opOrigin x 3 0 e.2.toNat)
    ((e.1.note (.scalar x.team) x.rwc [0, x.cause.zeroExtend 64, x.origin]).landScalar o x 0).endOp o x
  | none =>
    let pois := s.markedRange pa q.n
    let x := if pois then x.addCause cPoisonData (s.opOrigin x 3 0 0) else x
    let v := if pois then 0 else BitVec.ofNat 64 (bytesNat (s.memBytes pa q.n))
    ((s.note (.scalar x.team) x.rwc [v, x.cause.zeroExtend 64, x.origin]).landScalar o x v).endOp o x

/-- SCALAR_GLOBAL_COMPLETE (spec/03 R62): an SLDG reads at the home, writes its register and completes its token; an
SSTG that the home has acknowledged, or an access whose fault is unresolvable, completes its token, the register unchanged. -/
def execScalarGlobalComplete (s : State) : Out :=
  let o := s.arg.x
  match s.ops.find? o with
  | none => .next s
  | some x =>
    match x.reqs with
    | [q] =>
      if !x.isScalar then .next s
      else if q.st = .done then
        let old (t : Team) : W64 := t.getS (BitVec.ofNat 6 x.reg)
        .next ((s.modTeam x.team fun t => { t with
          loads := t.loads.map fun e => if e.op = o then { e with done := true, oldS := old t } else e }).endOp o x)
      else if q.st != .ready then .next s
      else
        match x.kind with
        | .sldg _ =>
          if !(s.opLive x && s.clear o x q) then .next (s.defer .scalarGlobalComplete)
          else
            (match s.recall (.scalar x.team) x.rwc with
             | some (v, s) =>
               let x := { x with cause := (v.getD 1 0).truncate 8, origin := v.getD 2 0 }
               .next ((s.landScalar o x (v.headD 0)).endOp o x)
             | none => s.withLeaf o q.id x q.addr Leaf.loads fun l => .next (s.readScalar o x q l))
        | _ => .next s
    | _ => .next s

end Sys2Proof.Machine
end

