-- ==== Sys2Proof/Machine/LaneMem.lean ====
section
/-! DEFINITION. The lane memory instructions at issue: addresses, register groups, checks, requests and, for VLDS, the
copies and watch entries (spec/04 R101 to R110, spec/12 R226, spec/22 R344 to R349). -/

namespace Sys2Proof

/-! ## Groups and addresses -/

/-- Bytes of an access by its width code (spec/02 R41, spec/04 R103). -/
def accessBytes (w : Nat) : Nat :=
  match w with
  | 1 => 1
  | 2 => 2
  | 3 => 8
  | 4 => 16
  | _ => 4
/-- Registers of a group by the bytes of the access (spec/04 R103). -/
def groupRegs (n : Nat) : Nat := (n + 3) / 4
/-- The bytes of an instruction's access. -/
def LaneF.accessN (f : LaneF) : Nat := accessBytes f.up3
/-- The atomic operation code, XM [4:1] (spec/02 R42, R43). -/
def LaneF.aop (f : LaneF) : Nat := Sys2Proof.bits f.xm 1 4
/-- The order code, MOD [2:1]. -/
def LaneF.order (f : LaneF) : Nat := Sys2Proof.bits f.md.toNat 1 2

/-- The operand codes of SB's groups: a compare-and-swap takes two (spec/04 R103). -/
def LaneF.sbCodes (f : LaneF) : List Nat :=
  let two := if f.aop = 7 then 2 else 1
  let n := if f.sb.toNat < 256 then two * groupRegs f.accessN else two
  (List.range n).map fun i => f.sb.toNat + i
/-- The operand codes of DST's group. -/
def LaneF.dstCodes (f : LaneF) : List Nat := (List.range (groupRegs f.accessN)).map fun i => f.dst.toNat + i
/-- The operand codes of the base (spec/04 R102). -/
def LaneF.baseCodes (f : LaneF) : List Nat :=
  if f.sa.toNat < 256 ∧ f.hi2 = 0 then [f.sa.toNat, f.sa.toNat + 1] else [f.sa.toNat]

end Sys2Proof

namespace Sys2Proof.Machine

/-- The address that a lane forms (spec/04 R102). -/
def Team.laneAddr (view : Team) (b : Block) (f : LaneF) (l : Nat) : Nat :=
  let c := f.sa.toNat
  let off : BitVec 24 := f.imm.truncate 24
  if f.hi2 = 0 then
    let base := if c < 256 then BitVec.ofNat 64 ((view.reg c l).toNat + (view.reg (c + 1) l).toNat * 2 ^ 32) else b.scalar c
    (base + off.signExtend 64).toNat
  else
    let base := if c < 256 then view.reg c l else (b.scalar c).truncate 32
    (base + off.signExtend 32).toNat

/-- A group of V registers of a lane as one number, low register first. -/
def Team.groupNat (view : Team) (c n l : Nat) : Nat :=
  (List.range n).foldl (fun v i => v + (view.reg (c + i) l).toNat * 2 ^ (32 * i)) 0

/-- The value of group `k` of SB in a lane. Beyond the V registers group 1 is the next operand code, as a whole S register or special
value (spec/04 R103 numbers V registers only; DEDUCED, log entry 35). -/
def State.sbGroup (s : State) (view : Team) (b : Block) (f : LaneF) (cyc : W32) (k l : Nat) : Nat :=
  let c := f.sb.toNat
  let n := groupRegs f.accessN
  if c < 256 then view.groupNat (c + k * n) n l
  else if c < 352 then (b.scalar (c + k)).toNat
  else (s.laneSpecial cyc (c + k) l).toNat

/-- The fault of a lane's address at issue, by its kind (spec/04 R102, R108, spec/16 R281). -/
def State.addrFault (s : State) (f : LaneF) (addr : Nat) : Option Nat :=
  let size := s.padSize (gangOf s.cur)
  if addr % f.accessN ≠ 0 then some kMisaligned
  else
    match f.hi2 with
    | 1 => if size ≤ addr then some kOutOfPart else none
    | 2 =>
      if bits addr 23 9 ≠ 0 ∨ size ≤ bits addr 0 21 then some kOutOfPart
      else if (s.tg.cores.find? fun c => c % 4 == bits addr 21 2).isNone then some kOutOfPart else none
    | 3 => if s.tg.consts ≤ addr then some kProtection else none
    | _ => none

/-- The first active lane whose address faults, in ascending order: its kind and address. -/
def State.firstFault (s : State) (f : LaneF) (l : List (Nat × Nat)) : Option (Nat × Nat × Nat) :=
  match l with
  | [] => none
  | (lane, a) :: rest =>
    match s.addrFault f a with
    | some k => some (k, lane, a)
    | none => s.firstFault f rest

/-- The place of a lane's access: scratchpad addresses carry the member core that holds them. -/
def State.placeOf (s : State) (f : LaneF) (addr : Nat) : Nat :=
  match f.hi2 with
  | 1 => s.tm.core * 2 ^ 21 + addr
  | 2 => s.tg.cores.findIdx (fun c => c % 4 == bits addr 21 2) * 2 ^ 21 + bits addr 0 21
  | _ => addr

/-! ## Order (spec/15 R263, R265, spec/22 R350) -/

/-- A lane load or atomic of `.acq` or `.ar`. -/
def Op.acquires (o : Op) : Bool := o.isLane && (bits o.md.toNat 1 2 == 1 || bits o.md.toNat 1 2 == 3)

/-- The accesses in flight that a new lane access follows: those of regions that have reconverged, and acquires. -/
def State.laneAfter (s : State) : List Nat :=
  (s.tm.recon.filter fun o => (s.ops.find? o).isSome)
    ++ (s.ops.filter fun p => p.2.team == s.cur && p.2.acquires && !p.2.finished).map Prod.fst

/-- The lane stream waits with an entry of its own (spec/22 R350). -/
def State.laneWaits (s : State) (obj : WaitObj) : Out :=
  stall (s.modTm fun t => { t with lwait := some (match t.lwait with
    | some w => { w with obj := obj }
    | none => { obj := obj, since := s.cycleOf (s.teamCore s.cur), limit := none, phase := 0, result := none }) })

/-- A release-ordered lane access: the team's watch entries are resolved and none is struck, and values it has read are
settled (spec/04 R109, spec/22 R350, spec/15 R273). -/
def State.laneRelease (s : State) (release : Bool) (k : State → Out) : Out :=
  if !release then k s
  else if s.tm.watchAny .unresolved then s.laneWaits .watch
  else if s.tm.watchAny .struck then .next (s.laneFault kStrike .state 0 0)
  else if !s.tm.unsettled.isEmpty then s.laneWaits .settle
  else k s

/-! ## Latency sampling (spec/24 R377) -/

/-- A core counts one of its requests while sampling is on; every N-th one is marked, from an offset left open. The
step that writes its record carries what the record says of the instruction. -/
def State.sampled (s : State) (core o r kind : Nat) (pc : W64) (va : Nat) (t : Nat) (rwc : W64) : State :=
  if s.sampleN = 0 then s
  else
    let n := 2 ^ s.sampleN
    let c := (s.core core).sample
    let c := if c = 0 then n + (Config.freeWord s.free).toNat % n else c
    let s := if (s.core core).sample = 0 then s.fresh else s
    let s := s.modCore core fun x => { x with sample := c + 1 }
    if c % n = 0 then
      let g := gangOf t
      let d2 := ctxOf g % 256 * 2 ^ 56 + partOf (ctxOf g) * 2 ^ 53 + (s.gang g).idx * 2 ^ 33 + teamNum t * 2 ^ 25
      let ws : List W64 := [pc, BitVec.ofNat 64 va, BitVec.ofNat 64 d2, rwc, (s.gang g).interval.zeroExtend 64]
      s.push [.event .sampleRecord { Args.none with
        x := o, y := r, z := s.cycleOf core, u := kind, v := core, data := wordBytes ws }]
    else s

/-! ## Issue -/

/-- The operation that a lane memory instruction issues. -/
def State.laneOp (s : State) (kind : OpKind) (b : Block) (f : LaneF) (after : List Nat) (reqs : List Req) : Op :=
  let t := s.tm
  { Op.blank with
    kind := kind, gang := gangOf s.cur, team := s.cur, member := s.memberOf s.cur, tok := f.sc.toNat % 32,
    pc := t.lcb + BitVec.ofNat 64 (12 * b.idx), word := s.word, wordh := s.wordh, lidx := b.idx,
    after := s.laneAfter ++ after, reg := f.dst.toNat, width := f.accessN, aop := f.aop, md := f.md,
    xm := BitVec.ofNat 8 f.xm, disp := b.disp, started := true, reqs := reqs, rwc := t.rwc }

/-- The request of a lane. -/
def laneReq (lane addr n data cmp : Nat) : Req :=
  { id := lane, addr := addr, n := n, data := natBytes n data, cmp := natBytes n cmp, pois := false, count := 0, stage := 0, dst := 0,
    st := .ready, cause := 0 }

/-- The kind code of a sample record. -/
def OpKind.sampleKind : OpKind → Nat
  | .vst => 1
  | .vamo => 2
  | .vrmo => 2
  | .vlds => 3
  | .sldg _ => 4
  | .sstg _ => 5
  | .copy => 6
  | _ => 0

/-- Make the access of a request of a lane memory operation due; a `.g` request counts toward latency sampling. -/
def State.serveLane (s : State) (o : Nat) (x : Op) (q : Req) : State :=
  if x.space = 3 then
    s.push [.event .constantFill { Args.none with
      x := s.opCore x, y := ((s.gang x.gang).constb.toNat + q.addr) / 128, z := q.id, slot := some o }]
  else
    let s := s.serve o q.id x
    if x.space = 0 ∧ x.kind ≠ .vprf then s.sampled (s.opCore x) o q.id x.kind.sampleKind x.pc q.addr x.team x.rwc else s

/-- A lane memory operation goes in flight: its token becomes PENDING, or DONE at once with no active lane; a
load's destination stays uncovered (spec/04 R105). -/
def State.issueLane (s : State) (b : Block) (f : LaneF) (x : Op) (loads skip : Nat) : Out :=
  if (s.tm.getT x.tok).st = .pending then .next (s.laneFault kTokenBusy .state 0 0)
  else if x.reqs.isEmpty then .next ((s.completeToken s.cur x.tok none).laneRetire b f skip none)
  else
    let (s, o) := s.addOp x
    let mask := x.reqs.foldl (fun (m : Mask) q => m ||| (1 <<< q.id : Mask)) 0
    let e : LoadE := { op := o, tok := x.tok, scal := false, reg := x.reg, n := loads, done := false, lanes := mask,
                       clob := false, isOver := [], cover := none, old := [], oldS := 0 }
    let s := s.modTm fun t => { t.setT x.tok .pending with
      tokDisp := t.tokDisp.del x.tok, loads := if loads = 0 then t.loads else t.loads ++ [e] }
    .next ((x.reqs.foldl (fun s q => s.serveLane o x q) s).laneRetire b f skip none)

/-- Run a lane memory instruction up to its requests: operand registers, budget, addresses and their faults in
ascending lane order. The effect gets the lanes with their addresses (spec/04 R101 to R103, R108). -/
def State.laneMem (s : State) (opc : Nat) (f : LaneF) (dst sb : List Nat) (readsDst : Bool)
    (k : Block → Team → W32 → Nat → List (Nat × Nat) → State → Out) : Out :=
  let sbv := if f.sb.toNat < 256 then sb else []
  let regs := (if f.sa.toNat < 256 then f.baseCodes else []) ++ dst ++ sbv
  let src := f.baseCodes ++ sb ++ (if readsDst then dst else [])
  s.laneFrame f opc false false regs (fun t eff => src.map fun c => (c, lanesOf eff t.width)) false fun b view eff s =>
    let r := s.laneCycle sb
    let s := r.2
    let lanes := (lanesOf eff s.tm.width).map fun l => (l, view.laneAddr b f l)
    let skip := skipped eff s.tm.width
    if opc = 0x0E5 then k b view r.1 skip lanes s
    else
      match s.firstFault f lanes with
      | some (kind, lane, a) =>
        .next (s.laneFault kind .state (BitVec.ofNat 64 a) (BitVec.ofNat 64 (lane / 32 * 2 ^ 32)))
      | none => k b view r.1 skip lanes s

/-- VLD (spec/04 R101 to R106). -/
def execVld (f : LaneF) (s : State) : Out :=
  s.laneMem 0x0E0 f f.dstCodes [] false fun b _ _ skip lanes s =>
    let reqs := lanes.map fun p => laneReq p.1 (s.placeOf f p.2) f.accessN 0 0
    s.issueLane b f (s.laneOp .vld b f [] reqs) f.dstCodes.length skip

/-- What a release of the lane stream covers: scalar accesses before its block, and accesses whose token the team has
observed (spec/15 R263, R265). -/
def State.laneCovered (s : State) (b : Block) (release : Bool) : List Nat :=
  if release then (s.covered s.cur).filter fun o => match s.ops.find? o with
    | some x => decide (x.disp ≤ b.disp)
    | none => false
  else []

/-- VST (spec/04 R101 to R106, R109). -/
def execVst (f : LaneF) (s : State) : Out :=
  s.laneMem 0x0E1 f f.dstCodes [] true fun b view _ skip lanes s =>
    let rel := decide (2 ≤ f.order)
    if (s.tm.getT (f.sc.toNat % 32)).st = .pending then .next (s.laneFault kTokenBusy .state 0 0)
    else s.laneRelease rel fun s =>
      let val (l : Nat) : Nat := view.groupNat f.dst.toNat f.dstCodes.length l
      let reqs := lanes.map fun p => laneReq p.1 (s.placeOf f p.2) f.accessN (val p.1) 0
      s.issueLane b f (s.laneOp .vst b f (s.laneCovered b rel) reqs) 0 skip

/-- VAMO and VRMO (spec/04 R101 to R107, R109): a compare-and-swap has its comparand in the first group. -/
def State.laneAtomic (s : State) (opc : Nat) (kind : OpKind) (f : LaneF) (dst : List Nat) : Out :=
  s.laneMem opc f dst f.sbCodes false fun b view cyc skip lanes s =>
    let rel := decide (2 ≤ f.order)
    if (s.tm.getT (f.sc.toNat % 32)).st = .pending then .next (s.laneFault kTokenBusy .state 0 0)
    else s.laneRelease rel fun s =>
      let cas := decide (f.aop = 7)
      let val (l : Nat) : Nat := s.sbGroup view b f cyc (if cas then 1 else 0) l
      let cmp (l : Nat) : Nat := if cas then s.sbGroup view b f cyc 0 l else 0
      let reqs := lanes.map fun p => laneReq p.1 (s.placeOf f p.2) f.accessN (val p.1) (cmp p.1)
      s.issueLane b f (s.laneOp kind b f (s.laneCovered b rel) reqs) dst.length skip

def execVamo (f : LaneF) (s : State) : Out := s.laneAtomic 0x0E3 .vamo f f.dstCodes
def execVrmo (f : LaneF) (s : State) : Out := s.laneAtomic 0x0E4 .vrmo f []

/-- VPRF (spec/04 R110): requests that no token awaits. -/
def execVprf (f : LaneF) (s : State) : Out :=
  s.laneMem 0x0E5 f [] [] false fun b _ _ skip lanes s =>
    let reqs := lanes.map fun p => laneReq p.1 p.2 1 0 0
    if reqs.isEmpty then .next (s.laneRetire b f skip none)
    else
      let (s, o) := s.addOp (s.laneOp .vprf b f [] reqs)
      let x := (s.ops.find? o).getD Op.blank
      .next ((reqs.foldl (fun s q => s.serveLane o x q) s).laneRetire b f skip none)

/-! ## VLDS (spec/12 R226, spec/22 R344 to R349) -/

/-- Unresolved entries of a team. -/
def Team.open_ (t : Team) : Nat := (t.watch.filter fun e => e.st == .unresolved).length
/-- Entries in use on the core of a team. -/
def State.coreEntries (s : State) (t : Nat) : Nat :=
  ((s.teamsOf (gangOf t)).filter fun u => (s.team u).core == (s.team t).core).foldl (fun n u => n + (s.team u).watch.length) 0

/-- The copy of its line that a VLDS lane may take: the physical address, the line and whether it is sealed. -/
def State.copyAt (s : State) (core part va : Nat) : Option (Nat × NLine × Bool) :=
  if 2 ^ 54 ≤ va then none
  else
    match s.translate core part va with
    | .leaf l =>
      if !l.loads then none
      else
        let pa := l.pa va
        match (s.core core).near.find? (pa / 128) with
        | none => none
        | some c =>
          if c.st = .sealedc then
            (if l.isSealed ∧ c.version.toNat = l.version then some (pa, c, true) else none)
          else some (pa, c, false)
    | _ => none

/-- The same, for the team whose instruction runs. -/
def State.vldsCopy (s : State) (va : Nat) : Option (Nat × NLine × Bool) := s.copyAt (s.teamCore s.cur) s.tg.part va

/-- The granule of a copy at an address is marked. -/
def NLine.markedAt (c : NLine) (pa : Nat) : Bool := listGet false c.marks (pa / 64 % 2)
/-- Bytes of a copy. -/
def NLine.at_ (c : NLine) (pa n : Nat) : List Byte := (c.bytes.drop (pa % 128)).take n

/-- Put a number into a rising list without repeats. -/
def insertNat (a : Nat) : List Nat → List Nat
  | [] => [a]
  | b :: l => if a < b then a :: b :: l else if a = b then b :: l else b :: insertNat a l

/-- No watch entry is free: the team has 32 unresolved ones, or the core has none left (spec/12 R226, spec/22 R349). -/
def State.noEntry (s : State) : Bool := decide (32 ≤ s.tm.open_) || decide (128 ≤ s.coreEntries s.cur)

/-- Make the watch entry of a line, if one is free; `none` where none is (spec/22 R349). -/
def State.watchLine (s : State) (set : BitVec 2) (line : Nat) (c : NLine) (isSealed : Bool) (va disp : Nat) (mask : Mask) :
    Option State :=
  if s.noEntry then none
  else
    let id := s.nextOp
    let e : WatchE := { id := id, st := .unresolved, set := set, isSealed := isSealed, born := s.cycleOf (s.teamCore s.cur),
                        line := line, version := c.version, epoch := if isSealed then 0 else c.epoch, mask := mask, page := va,
                        struckSeal := false, answer := none, rwc := s.tm.rwc, disp := disp, home := c.slice, op := 0 }
    let s := { s with nextOp := id + 1 }
    let s := s.modTm fun t => { t with watch := t.watch ++ [e] }
    some (s.post2 (if isSealed then .sealedWatchExpiry else .watchRequest) s.cur id)

/-- Take the copies of lines in ascending order until no entry is free; answers the lines taken. Only lanes that read no marked
granule are watched (spec/12 R226, spec/22 R349). -/
def State.takeLines (s : State) (set : BitVec 2) (disp : Nat) (lanes : List (Nat × Nat × Nat × NLine × Bool)) :
    List Nat → State × List Nat
  | [] => (s, [])
  | line :: rest =>
    let mine := lanes.filter fun p => p.2.2.1 / 128 == line
    let taken : Option State := match mine.filter (fun p => !p.2.2.2.1.markedAt p.2.2.1) with
      | [] => if s.noEntry then none else some s
      | p :: more =>
        let mask := (p :: more).foldl (fun (m : Mask) (p : Nat × Nat × Nat × NLine × Bool) => m ||| (1 <<< p.1 : Mask)) 0
        s.watchLine set line p.2.2.2.1 p.2.2.2.2 p.2.1 disp mask
    match taken with
    | none => (s, [])
    | some s =>
      let r := s.takeLines set disp lanes rest
      (r.1, line :: r.2)

/-- Use a copy: it becomes the most recently used way of its set. -/
def State.useCopy (s : State) (core line : Nat) (c : NLine) : State :=
  { s with nextOp := s.nextOp + 1 }.modCore core fun x => { x with near := x.near.set line { c with used := s.nextOp } }

/-- A VLDS of another team of the core sought entries in this cycle and ranks behind this one: by quarter, then team (spec/22
R349). This one then seeks its entries in a later cycle (DEDUCED, log entry 37). -/
def State.outranked (s : State) : Bool :=
  match (s.core (s.teamCore s.cur)).sought with
  | some (cycle, rank) => cycle == s.cycleOf (s.teamCore s.cur) && decide (s.tm.quarter * 512 + teamNum s.cur < rank)
  | none => false

/-- The team's VLDS seeks entries in this cycle. -/
def State.seek (s : State) : State :=
  s.modCore (s.teamCore s.cur) fun c =>
    { c with sought := some (s.cycleOf (s.teamCore s.cur), s.tm.quarter * 512 + teamNum s.cur) }

/-- A journalled lane value: lane, value in two words, cause, origin, and the watched line plus 1 (spec/24 R367). -/
def laneWords (lane : Nat) (bytes : List Byte) (cause : BitVec 8) (origin : W64) (watched : Nat) : List W64 :=
  let v := bytesNat bytes
  [BitVec.ofNat 64 lane, BitVec.ofNat 64 v, BitVec.ofNat 64 (v / 2 ^ 64), cause.zeroExtend 64, origin, BitVec.ofNat 64 watched]

/-- In a replay: the entries that the recording made, each in its journalled state (spec/22 R353). -/
def State.replayLines (s : State) (set : BitVec 2) (lanes : List Nat) : State :=
  let a := Agent.lane s.cur
  let vals := (s.replayJ.get [] (gangOf s.cur)).filter fun e => e.agent == a && e.count == s.tm.rwc
  let lineOf (l : Nat) : Nat := match vals.find? fun e => e.val.headD 0 == BitVec.ofNat 64 l with
    | some e => (e.val.getD 5 0).toNat
    | none => 0
  let lines := (lanes.map lineOf).foldl (fun acc n => if n = 0 then acc else insertNat n acc) []
  s.each lines fun s n =>
    let mask := (lanes.filter fun l => lineOf l == n).foldl (fun (m : Mask) l => m ||| (1 <<< l : Mask)) 0
    let r := s.recallBy a s.tm.rwc fun v => v.headD 0 == BitVec.ofNat 64 (2 ^ 32 + (n - 1))
    let st : WatchSt := match r with
      | some (v, _) => if v.getD 1 0 = 1 then .confirmed else .struck
      | none => .unresolved
    let s := match r with
      | some (_, s) => s
      | none => s
    let e : WatchE := { id := s.nextOp, st := st, set := set, isSealed := false, born := 0, line := n - 1, version := 0, epoch := 0,
                        mask := mask, page := 0, struckSeal := false, answer := none, rwc := s.tm.rwc, disp := 0, home := 0, op := 0 }
    { s with nextOp := s.nextOp + 1 }.modTm fun t => { t with watch := t.watch ++ [e] }

/-- The request of a VLDS lane: the first pass takes its bytes at issue, later ones when their turn comes (spec/22 R346). -/
def vldsReq (n : Nat) (copies : List (Nat × Nat × Nat × NLine × Bool)) (taken : List Nat) (first : Nat) (p : Nat × Nat) : Req :=
  let q := laneReq p.1 p.2 n 0 0
  match copies.find? fun c => c.1 == p.1 with
  | none => q
  | some c =>
    let k := c.2.2.2.1
    let line := c.2.2.1 / 128
    if !taken.contains line then q
    else if k.markedAt c.2.2.1 then { q with st := .performed, pois := true }
    else if p.1 / 32 = first then { q with st := .performed, data := k.at_ c.2.2.1 n, count := line + 1 }
    else { q with count := line + 1 }

/-- VLDS (spec/12 R226): lanes whose line the near cache holds take its bytes, under one watch entry a line; the others load as
VLD does. -/
def execVlds (f : LaneF) (s : State) : Out :=
  s.laneMem 0x0E2 f f.dstCodes [] false fun b _ _ skip lanes s =>
    let set : BitVec 2 := BitVec.ofNat 2 f.aop
    let n := f.accessN
    if (s.tm.getT (f.sc.toNat % 32)).st = .pending then .next (s.laneFault kTokenBusy .state 0 0)
    else if !s.allOver s.laneAfter then stall s
    else if s.replaying (gangOf s.cur) then
      let s := s.replayLines set (lanes.map Prod.fst)
      s.issueLane b f (s.laneOp .vlds b f [] (lanes.map fun p => laneReq p.1 p.2 n 0 0)) f.dstCodes.length skip
    else
      let copies := lanes.filterMap fun p => match s.vldsCopy p.2 with
        | some c => some (p.1, p.2, c.1, c.2.1, c.2.2)
        | none => none
      let order := copies.foldl (fun acc p => insertNat (p.2.2.1 / 128) acc) []
      if !order.isEmpty && s.outranked then stall s
      else
        let core := s.teamCore s.cur
        let from_ := s.nextOp
        let r := (if order.isEmpty then s else s.seek).takeLines set b.disp copies order
        let s := r.1.each r.2 fun s line => match (s.core core).near.find? line with
          | some c => s.useCopy core line c
          | none => s
        let op := s.nextOp
        let own (e : WatchE) : WatchE := if from_ ≤ e.id ∧ e.id < op then { e with op := op } else e
        let s := s.modTm fun t => { t with watch := t.watch.map own }
        let first := (lanes.map Prod.fst).headD 0 / 32
        s.issueLane b f (s.laneOp .vlds b f [] (lanes.map (vldsReq n copies r.2 first))) f.dstCodes.length skip

end Sys2Proof.Machine
end

