-- ==== Sys2Proof/Machine/Directory.lean ====
section
/-! DEFINITION. The home slices' own steps: updates, lapses, evictions, settle notices, watch requests and the patrol
scrub (spec/14 R242, R247 to R249, spec/15 R273, spec/22 R344 to R351). -/

namespace Sys2Proof.Machine

/-! ## Updates (spec/14 R248) -/

/-- Bytes with others laid over them from an offset. -/
def overlay (l : List Byte) (off : Nat) (data : List Byte) : List Byte :=
  l.take off ++ data ++ l.drop (off + data.length)

/-- A sharer's copy with an update applied: only a VALID copy that does not hold the write yet changes (spec/14 R244,
R248). -/
def NLine.update (c : NLine) (wr : Nat) (h : HomeW) : NLine :=
  if c.st = .valid ∧ c.filled ≤ wr then
    { c with bytes := overlay c.bytes h.off h.data, marks := h.marks, version := h.version } else c

/-- An earlier write of the line has not yet reached the core. -/
def State.earlierUpdate (s : State) (core wr line : Nat) : Bool :=
  s.hw.any fun p => decide (p.1 < wr) && p.2.line == line && p.2.await.contains core

/-- SHARER_UPDATE (spec/14 R248): a core applies the updates of one line in home order and acknowledges each. -/
def execSharerUpdate (s : State) : Out :=
  let core := s.arg.x
  let wr := s.arg.y
  match s.hw.find? wr with
  | none => .next s
  | some h =>
    if !h.await.contains core then .next s
    else if s.earlierUpdate core wr h.line then .next (s.defer .sharerUpdate)
    else
      let s := match (s.core core).near.find? h.line with
        | some c => s.modCore core fun x => { x with near := x.near.set h.line (c.update wr h) }
        | none => s
      let left := h.await.erase core
      let s := { s with hw := s.hw.set wr { h with await := left } }
      .next (if left.isEmpty then s.post .updateAck wr else s)

/-- SETTLE_NOTICE (spec/15 R273): an acknowledged write of a line no longer holds back releases. -/
def execSettleNotice (s : State) : Out :=
  let open_ (w : Nat) : Bool := (s.hw.find? w).isSome
  .next { s with teams := s.teams.map fun p => (p.1, { p.2 with unsettled := p.2.unsettled.filter open_ }) }

/-! ## Directory evictions (spec/14 R247, R249) -/

/-- Change the directory entry of a line. -/
def State.modDir (s : State) (slice line : Nat) (f : Dir → Dir) : State :=
  match s.dir slice line with
  | some d => s.modSlice slice fun x => { x with dir := x.dir.set line (f d) }
  | none => s

/-- DIRECTORY_EVICTION (spec/14 R249): lapse notices go to every sharer. -/
def execDirectoryEviction (s : State) : Out :=
  let slice := s.arg.x
  let line := s.arg.y
  match s.dir slice line with
  | none => .next s
  | some d =>
    if d.evict.isSome then .next s
    else
      let l := d.targets
      let s := s.modDir slice line fun d => { d with evict := some l }
      let notice (c : Nat) : Turn := .event .lapseNotice { Args.none with x := c, y := line, z := slice }
      .next (if l.isEmpty then s.post2 .evictionComplete slice line else s.push (l.map notice))

/-- LAPSE_NOTICE (spec/14 R249): a VALID copy becomes LAPSED; the notice is acknowledged. -/
def execLapseNotice (s : State) : Out :=
  let core := s.arg.x
  let line := s.arg.y
  let slice := s.arg.z
  let s := match (s.core core).near.find? line with
    | some c =>
      if c.st = NearSt.valid then s.modCore core fun x => { x with near := x.near.set line { c with st := .lapsed } } else s
    | none => s
  match s.dir slice line with
  | some d =>
    (match d.evict with
     | some l =>
       let l := l.erase core
       let s := s.modDir slice line fun d => { d with evict := some l }
       .next (if l.isEmpty then s.post2 .evictionComplete slice line else s)
     | none => .next s)
  | none => .next s

/-- A notice of this slice's epoch wrap that is on its way. -/
def wrapNotice (slice : Nat) (t : Turn) : Bool :=
  match t with
  | .event .epochWrapNotice y => y.y == slice
  | _ => false

/-- EVICTION_COMPLETE (spec/14 R247, R249): the entry goes and the slice's epoch rises; before the epoch wraps, every core
is told to invalidate its LAPSED copies of the slice's lines. -/
def execEvictionComplete (s : State) : Out :=
  let slice := s.arg.x
  let line := s.arg.y
  match s.dir slice line with
  | none => .next s
  | some d =>
    if d.evict != some [] then .next s
    else if (s.slice slice).epoch = 0xFFFF ∧ s.arg.z = 0 then
      .next (s.push ((List.range Config.cores).map (fun c => turnOf .epochWrapNotice c slice)
        ++ [.event .evictionComplete { Args.none with x := slice, y := line, z := 1 }]))
    else if (s.slice slice).epoch = 0xFFFF ∧ s.agenda.any (wrapNotice slice) = true then .next (s.defer .evictionComplete)
    else .next (s.modSlice slice fun x => { x with dir := x.dir.del line, epoch := x.epoch + 1 })

/-- EPOCH_WRAP_NOTICE (spec/14 R247). -/
def execEpochWrapNotice (s : State) : Out :=
  let slice := s.arg.y
  .next (s.modCore s.arg.x fun c => { c with near := c.near.filter fun p => !(p.2.st == .lapsed && p.2.slice == slice) })

/-! ## Watch entries (spec/22 R345 to R351) -/

/-- The watch entry of a team with a number. -/
def Team.entry (t : Team) (id : Nat) : Option WatchE := t.watch.find? fun e => e.id == id
/-- Change a watch entry. -/
def Team.modEntry (t : Team) (id : Nat) (f : WatchE → WatchE) : Team :=
  { t with watch := t.watch.map fun e => if e.id = id then f e else e }

/-- The line of a virtual address of a gang's partition, as a core translates it now. -/
def State.lineOf (s : State) (core p va : Nat) : Option Nat :=
  match s.translate core p va with
  | .leaf l => some (l.pa va / 128)
  | _ => none

/-- An earlier store of the team to the entry's line has not reached its home: the watch request follows it (spec/15
R263, spec/22 R345). -/
def State.storeBefore (s : State) (t : Nat) (e : WatchE) : Bool :=
  s.ops.any fun p =>
    let x := p.2
    let store := x.kind == .vst || x.kind == .vamo || x.kind == .vrmo || (x.isScalar && decide (x.disp ≤ e.disp))
    x.team == t && decide (p.1 < e.id) && store && x.space == 0 && x.reqs.any fun q =>
      s.notDone q && s.lineOf (s.opCore x) (s.gang x.gang).part q.addr == some e.line

/-- A lane of the entry's VLDS has still to take its bytes: the request leaves once the last pass has read the line (spec/22
R346). -/
def State.passesLeft (s : State) (e : WatchE) : Bool :=
  match s.ops.find? e.op with
  | some x => x.reqs.any fun q => q.st == .ready && q.count == e.line + 1
  | none => false

/-- The result of a watch request at the home (spec/22 R345). -/
def Dir.confirms (d : Dir) (e : WatchE) : Bool := e.epoch == d.epoch && e.version == d.version && !d.wrap

/-- An entry resolves: its state is journalled, and a strike counts (spec/22 R344, R353, spec/24 R378). -/
def State.resolveEntry (s : State) (t : Nat) (e : WatchE) (good : Bool) : State :=
  let s := s.note (.lane t) e.rwc [BitVec.ofNat 64 (2 ^ 32 + e.line), if good then 1 else 0]
  let s := s.modTeam t fun x => x.modEntry e.id fun e => { e with st := if good then .confirmed else .struck, answer := none }
  if good then s else s.count (s.memberOf t) 6

/-- In a replay an entry that the checkpoint holds unresolved resolves as it did in the recording; no request is made (spec/22
R353, spec/24 R369). -/
def State.replayEntry (s : State) (t : Nat) (e : WatchE) (i : Instr) : Out :=
  match s.recallBy (.lane t) e.rwc fun v => v.headD 0 == BitVec.ofNat 64 (2 ^ 32 + e.line) with
  | some (v, s) => .next (s.resolveEntry t e (v.getD 1 0 == 1))
  | none => .next (s.defer i)

/-- WATCH_REQUEST (spec/22 R345): performed at the home in the line's order; an absent entry is allocated and strikes. -/
def execWatchRequest (s : State) : Out :=
  let t := s.arg.x
  let id := s.arg.y
  match (s.team t).entry id with
  | none => .next s
  | some e =>
    let answer (s : State) (r : Bool) : Out :=
      .next ((s.modTeam t fun x => x.modEntry id fun e => { e with answer := some r }).post2 .watchAnswer t id)
    if s.replaying (gangOf t) then s.replayEntry t e .watchRequest
    else if s.storeBefore t e || s.passesLeft e then .next (s.defer .watchRequest)
    else
      match s.dir e.home e.line with
      | some d => answer (if d.confirms e then s.seeLine e.op t e.line else s) (d.confirms e)
      | none =>
        let s := match (s.slice e.home).dirFull e.line with
          | some old => (match s.dir e.home old with
            | some d => s.evictNow e.home old d
            | none => s)
          | none => s
        answer (s.modSlice e.home fun x => x.allocate e.line) false

/-- WATCH_ANSWER (spec/22 R345, R352): while the gang is away the answer is patched into its image. -/
def execWatchAnswer (s : State) : Out :=
  let t := s.arg.x
  match (s.team t).entry s.arg.y with
  | none => .next s
  | some e =>
    match e.answer with
    | none => .next s
    | some good =>
      let g := gangOf t
      let s := s.repliedTo g
      .next (s.resolveEntry t e good)

/-- SEALED_WATCH_EXPIRY (spec/22 R347): 64 resident cycles after its pass a sealed entry resolves in the core. -/
def execSealedWatchExpiry (s : State) : Out :=
  let t := s.arg.x
  match (s.team t).entry s.arg.y with
  | none => .next s
  | some e =>
    if s.replaying (gangOf t) then s.replayEntry t e .sealedWatchExpiry
    else if (s.gang (gangOf t)).st = .resident ∧ e.born + 64 ≤ s.cycleOf (s.teamCore t) ∧ s.passesLeft e = false then
      .next (s.resolveEntry t e (!e.struckSeal))
    else .next (s.defer .sealedWatchExpiry)

/-! ## Patrol scrub (spec/14 R242) -/

/-- PATROL_SCRUB (spec/14 R242, spec/16 R285): with `ok` the read has met an error that is corrected: it is counted, and the
data stand. An uncorrectable error marks its granule, and its record goes to every
partition that maps it, or to the management ring. -/
def execPatrolScrub (s : State) : Out :=
  let g := s.arg.x
  let slice := s.findSlice (g / 2)
  let s := s.l2Watch slice (g * 64) 64 0 3 0
  if (s.ecc.find? g).isNone then .next (if s.arg.ok then { s with corrected := s.corrected + 1 } else s)
  else
    let s := (s.eccHit (g * 64) 64).1
    let s := s.setMark g true
    let ps := (s.parts.map Prod.fst).filter fun p => !(s.vranges p g).isEmpty
    if ps.isEmpty then
      .next (s.mgmtRecord { FRec.blank with
        kind := 0x01, addr := BitVec.ofNat 64 (g * 64), detail := BitVec.ofNat 64 (stackOf (g * 64)) })
    else .next (s.each ps fun s p => (s.uncorrectable p none FRec.blank g).1)

end Sys2Proof.Machine
end

