-- ==== Sys2Proof/Machine/Peer.lean ====
section
/-! DEFINITION. The answers to segments that other devices send (spec/12 R229, R230, R233, spec/18 R314, R316). -/

namespace Sys2Proof.Machine

/-- Hand a message to the fabric. -/
def State.send (s : State) (m : Msg) : State := { s with outbox := s.outbox ++ [m] }

/-- The answer to a segment that was performed, cause 0, or refused: STALE_NACK for a stale version, SEG_NACK for any
other cause (spec/12 R232, spec/18 R314). -/
def PeerW.answer (w : PeerW) (cause : Nat) : Msg :=
  { code := if cause = 0 then 0 else if cause = 8 then 5 else 8, dev := w.dev, win := w.win, off := w.off, data := [], marks := [],
    slot := none, tag := w.tag, arg := if cause = 0 then 4 else cause, req := w.req }

/-- MEMBER_ACK of a whole multicast: its cause and offset are those of the first refused segment (spec/12 R230). -/
def Inc.ack (c : Inc) : Msg :=
  { code := 2, dev := c.dev, win := 0, off := c.off, data := [], marks := [], slot := none, tag := c.tag, arg := c.cause }

/-- The segment belongs to the command. -/
def Inc.has (c : Inc) (w : PeerW) : Bool := c.dev == w.dev && c.tag == w.tag && c.slot == w.slot && c.mcast == w.mcast && c.held.isNone

/-- Keep what is known of an incoming command. -/
def State.setInc (s : State) (w : PeerW) (c : Inc) : State :=
  { s with incoming := s.incoming.filter (fun x => !x.has w) ++ [c] }

/-- A segment has come: its command is kept where it names a trigger slot or is a multicast. -/
def State.arrive (s : State) (w : PeerW) (last : Bool) : State :=
  if w.slot.isNone && !w.mcast then s
  else
    let c : Inc := match s.incoming.find? fun x => x.has w with
      | some c => c
      | none => { dev := w.dev, win := w.win, tag := w.tag, slot := w.slot, mcast := w.mcast, open_ := [], last := false, cause := 0, off := 0, held := none }
    s.setInc w { c with open_ := if c.open_.contains w.req then c.open_ else c.open_ ++ [w.req], last := c.last || last }

/-- A segment has been performed, cause 0, or refused. A plain one is answered at once. A multicast is answered once, when
every segment here is over; a command that names a slot then fires it, and its last answer waits for that (spec/12 R230,
R233). -/
def State.peerAnswer (s : State) (w : PeerW) (cause : Nat) : State :=
  let s := { s with arriving := s.arriving.filter fun x => x != w }
  match s.incoming.find? fun x => x.has w with
  | none => s.send (w.answer cause)
  | some c =>
    let c := { c with open_ := c.open_.filter (· != w.req), cause := if c.cause = 0 then cause else c.cause,
                      off := if c.cause = 0 then w.off else c.off }
    if !c.last || !c.open_.isEmpty then if c.mcast then s.setInc w c else (s.setInc w c).send (w.answer cause)
    else
      let final := if c.mcast then c.ack else w.answer cause
      match c.slot with
      | none => { s with incoming := s.incoming.filter fun x => !x.has w }.send final
      | some n => (s.setInc w { c with held := some final }).push
          [.event .triggerFire { Args.none with x := n, y := c.dev, z := c.tag }]

end Sys2Proof.Machine
end

