-- ==== Sys2Proof/Machine/LaneServe.lean ====
section
/-! DEFINITION. Performing the requests of lane and scalar memory operations: near caches, homes, atomics and their
merging, scratchpads, the constant path, translation, and completion (spec/04 R105 to R110, spec/06 R124 to R128, spec/14
R244 to R258, spec/16 R298, spec/24 R377). -/

namespace Sys2Proof.Machine

/-! ## A lane's result -/

/-- Registers that an operation loads. -/
def Op.loads (x : Op) : Bool := x.kind == .vld || x.kind == .vlds || x.kind == .vamo

/-- A load's bytes reach a lane of its group: a register that another instruction has written meanwhile ends with either
value; what each register held before is kept for readers that come too early (spec/04 R105). -/
def Team.landLane (t : Team) (free o lane reg n : Nat) (bytes : List Byte) : Team :=
  (List.range (groupRegs n)).foldl (fun (t : Team) i =>
    let c := reg + i
    let key := c * 1024 + lane
    let old := t.reg c lane
    let isOver := t.loads.any fun e => e.op == o && e.isOver.contains key
    let t' := if isOver && Config.pick ((free + 1) * 2 ^ 32 + key) then t
      else (t.endStream c lane).setReg c lane (BitVec.ofNat 32 (bytesNat ((bytes.drop (4 * i)).take 4)))
    { t' with loads := t'.loads.map fun e => if e.op = o then { e with old := e.old.set key old } else e }) t

/-- The scratchpad lines that a `.e` load has read become EMPTY (spec/04 R106). -/
def State.emptyLines (s : State) (x : Op) : State :=
  x.reqs.foldl (fun (s : State) q =>
    s.modMember (memberKey x.gang (q.addr / 2 ^ 21)) fun m => m.setLine (q.addr % 2 ^ 21) 0) s

/-- A request of a lane memory operation is over: its bytes reach the lane, what it met reaches the token, and a `.e`
load whose last lane this was empties its lines. `jr` journals the value (spec/24 R367). -/
def State.laneResult (s : State) (o : Nat) (x : Op) (q : Req) (bytes : List Byte) (cause : BitVec 8) (origin : W64)
    (jr : Bool) : State :=
  let s := if jr then s.note (.lane x.team) x.rwc (laneWords q.id bytes cause origin (if x.kind = .vlds then q.count else 0))
    else s
  let s := if x.loads then s.fresh.modTeam x.team fun t => t.landLane s.free o q.id x.reg x.width bytes else s
  let last := x.reqs.all fun p => p.id == q.id || p.st == .done
  let s := if last && x.kind == .vld && x.xm.getLsbD 5 then s.emptyLines x else s
  s.finishReq o q.id cause origin

/-- The journalled result of a lane in a replay (spec/24 R369). -/
def State.recallLane (s : State) (x : Op) (q : Req) : Option (List W64 × State) :=
  s.recallBy (.lane x.team) x.rwc fun v => v.headD 0 == BitVec.ofNat 64 q.id

/-- A lane takes its journalled result. -/
def State.laneReplay (s : State) (o : Nat) (x : Op) (q : Req) (v : List W64) : State :=
  let n := (v.getD 1 0).toNat + (v.getD 2 0).toNat * 2 ^ 64
  s.laneResult o x q (natBytes x.width n) ((v.getD 3 0).truncate 8) (v.getD 4 0) false

/-- A lane whose access failed on an uncorrectable error gets 0; the record of the error has this ERRSEQ. -/
def State.laneFailed (s : State) (errseq : W32) (o : Nat) (x : Op) (q : Req) : State :=
  s.laneResult o x q (natBytes x.width 0) cMemory (s.opOrigin x 2 0 errseq.toNat) true

/-- A lane that has met an uncorrectable error gets 0 (spec/14 R242). -/
def State.laneError (s : State) (o : Nat) (x : Op) (q : Req) (granule : Nat) : State :=
  let e := s.uncorrectable (s.gang x.gang).part (some (ctxOf x.gang)) (s.opRec x 2) granule
  e.1.laneFailed e.2 o x q

/-- A lane that has read poison gets 0 (spec/04 R106, spec/11 R215). -/
def State.lanePoison (s : State) (o : Nat) (x : Op) (q : Req) (jr : Bool) : State :=
  s.laneResult o x q (natBytes x.width 0) cPoisonData (s.opOrigin x 2 0 0) jr

/-- A translation of some requests of one operation is unresolvable: one record, and the requests end without effect; lanes that
load get 0 (spec/11 R215). -/
def State.reqsUnresolved (s : State) (o : Nat) (rs : List Nat) (x : Op) (va why entry : Nat) : State :=
  let e := s.unresolvable (s.gang x.gang).part (some (ctxOf x.gang)) (s.opRec x x.unit) va why entry
  let origin := e.1.opOrigin x x.unit 0 e.2.toNat
  e.1.each rs fun s r => match s.req o r with
    | some (x, q) =>
      if x.loads then s.laneResult o x q (natBytes x.width 0) cTranslation origin true else s.finishReq o r cTranslation origin
    | none => s

/-- The walk of a request's page meets a malformed entry. -/
def State.reqMalformed (s : State) (o : Nat) (x : Op) (va entry : Nat) : State :=
  s.reqsUnresolved o (x.walkers va) x va 3 entry

/-- Run the access of a request that is still to be performed, once it may be; in a replay `dropped` says what becomes of
it. -/
def State.access (s : State) (i : Instr) (k dropped : Nat → Op → Req → State → Out) : Out :=
  let o := s.arg.x
  match s.req o s.arg.y with
  | none => .next s
  | some (x, q) =>
    if q.st != .ready && q.st != .performed then .next s
    else if !s.ripe o x q then .next (s.defer i)
    else if s.replaying x.gang then dropped o x q s
    else k o x q s

/-! ## Homes (spec/14 R248, R250, R251) -/

/-- The line's directory entry is being evicted: writes wait (spec/14 R249). -/
def State.evicting (s : State) (slice line : Nat) : Bool :=
  match s.dir slice line with
  | some d => d.evict.isSome
  | none => false

/-- The lanes of a store that have been performed, with this one, cover the granule of an address (spec/11 R214). -/
def Op.covers (x : Op) (q : Req) (granule : Nat) : Bool :=
  (List.range 64).all fun i =>
    let a := granule * 64 + i
    x.reqs.any fun p => (p.id == q.id || !p.open_) && decide (p.addr ≤ a) && decide (a < p.addr + p.n)

/-- HOME_WRITE (spec/14 R248): an SSTG, or a lane of a `.g` VST, is performed at its home. -/
def execHomeWrite (s : State) : Out :=
  s.access .homeWrite
    (fun o x q s =>
      s.withLeaf o q.id x q.addr Leaf.stores fun l =>
        let pa := l.pa q.addr
        let slice := sliceOf l.home (pa / 128)
        if s.evicting slice (pa / 128) then .next (s.defer .homeWrite)
        else
          let s := s.watchHome x l pa q.n 1
          let s := if x.covers q (q.addr / 64) then
              let s := s.setMark (pa / 64) false
              { s with ecc := s.ecc.del (pa / 64) }
            else s
          .next (s.homeReq o q.id l pa q.data (fun _ => false) false))
    fun o _ q s => .next (s.finishReq o q.id 0 0)

/-- What an atomic leaves in its place; an element of `n` bytes (spec/02 R43, spec/04 R107). -/
def atomicNew (op n old v cmp : Nat) : Nat :=
  let w := 8 * n
  match op with
  | 0 => (old + v) % 2 ^ w
  | 1 => if readSigned w v < readSigned w old then v else old
  | 2 => if readSigned w old < readSigned w v then v else old
  | 3 => old &&& v
  | 4 => old ||| v
  | 5 => old ^^^ v
  | 6 => v
  | 7 => if old = cmp then v else old
  | 8 => f32.add .rne (f32.value old) (f32.value v)
  | 9 => f32.minMax false old v
  | _ => f32.minMax true old v

/-- The requests merged into one: operation and request. -/
def State.mergedInto (s : State) (o r : Nat) : List (Nat × Nat) :=
  s.ops.flatMap fun p => (p.2.reqs.filter fun q => q.st == .merged o r).map fun q => (p.1, q.id)

/-- A request that others are merged into fails at the home: it and they are answered alike (spec/14 R251, spec/11 R215). -/
def State.replyBad (s : State) (f : State → Nat → Op → Req → State) : Nat → Nat → Nat → State
  | 0, _, _ => s
  | fuel + 1, o, r =>
    let below := s.mergedInto o r
    let s' := match s.req o r with
      | some (x, q) => f s o x q
      | none => s
    below.foldl (fun (s' : State) p =>
      match s'.req p.1 p.2 with
      | some (y, _) => (s'.replyBad f fuel p.1 p.2).repliedTo y.gang
      | none => s') s'

/-- HOME_ATOMIC (spec/14 R250, spec/04 R107): an atomic is performed as one write; the place's old value is kept for the
reply. A marked granule gives 0 and is not changed. -/
def execHomeAtomic (s : State) : Out :=
  s.access .homeAtomic
    (fun o x q s =>
      s.withLeaf o q.id x q.addr Leaf.atomics fun l =>
        let pa := l.pa q.addr
        let slice := sliceOf l.home (pa / 128)
        if s.evicting slice (pa / 128) then .next (s.defer .homeAtomic)
        else
          let s := s.watchHome x l pa q.n 2
          let h := s.eccHit pa q.n
          let s := h.1
          match h.2 with
          | some g =>
            let e := s.uncorrectable (s.gang x.gang).part (some (ctxOf x.gang)) (s.opRec x 2) g
            .next (e.1.replyBad (fun s => s.laneFailed e.2) (s.ops.length + 1) o q.id)
          | none =>
            if s.markedRange pa q.n then .next (s.replyBad (fun s o x q => s.lanePoison o x q true) (s.ops.length + 1) o q.id)
            else
              let old := bytesNat (s.memBytes pa q.n)
              let new := atomicNew x.aop q.n old (bytesNat q.data) (bytesNat q.cmp)
              let s := s.seeLine o x.team (pa / 128)
              let s := s.homeReq o q.id l pa (natBytes q.n new) (fun _ => false) false
              .next (s.modReq o q.id fun r => { r with cmp := natBytes q.n old }))
    fun o x q s =>
      match s.recallLane x q with
      | some (v, s) => .next (s.laneReplay o x q v)
      | none => if x.kind = .vrmo then .next (s.finishReq o q.id 0 0) else .next (s.defer .homeAtomic)

/-- An operation that routers may merge (spec/14 R251). -/
def mergeable (op : Nat) : Bool := decide (op < 6) || op == 9 || op == 10

/-- Two requests of atomics of one kind at one place; routers merge those of one context (spec/14 R251, DESIGN CHOICE, log
entry 74). -/
def State.mergePair (s : State) (x y : Op) (q r : Req) : Bool :=
  let p := (s.gang x.gang).part
  let phys (z : Op) (q : Req) : Option Nat :=
    match s.lookup (s.opCore z) (s.gang z.gang).part q.addr with
    | some l => if l.atomics then some (l.pa q.addr) else none
    | none => none
  let atomic (z : Op) : Bool := (z.kind == .vamo || z.kind == .vrmo) && z.space == 0
  atomic x && atomic y && ctxOf x.gang == ctxOf y.gang && p == (s.gang y.gang).part && q.st == .ready && r.st == .ready && x.aop == y.aop && x.width == y.width
    && mergeable x.aop && (phys x q).isSome && phys x q == phys y r

/-- ROUTER_MERGE (spec/14 R251): the first request goes on with both operands, and the second waits for its reply. Two
lanes of one instruction merge in ascending order. -/
def execRouterMerge (s : State) : Out :=
  let a := s.arg
  match s.req a.x a.y, s.req a.z a.u with
  | some (x, q), some (y, r) =>
    let lane := a.x != a.z || decide (q.id < r.id)
    let others (z : Nat) (y : Op) (r : Req) : Bool :=
      s.opLive y && s.allOver y.after && s.clear z { y with reqs := y.reqs.filter fun p => !(a.x == z && (p.id == q.id || p.st == .merged a.x a.y)) } r
    if s.mergePair x y q r && lane && s.ripe a.x x q && others a.z y r && (a.x, a.y) != (a.z, a.u) then
      let both := atomicNew x.aop q.n (bytesNat q.data) (bytesNat r.data) 0
      let s := s.modReq a.z a.u fun r => { r with st := .merged a.x a.y, cmp := q.data }
      .next (s.modReq a.x a.y fun q => { q with data := natBytes q.n both })
    else .next s
  | _, _ => .next s

/-- Deliver the reply of an atomic: the value its place held before its own operation; requests merged into it receive
theirs in turn (spec/14 R251). -/
def State.reply (s : State) : Nat → Nat → Nat → Nat → State
  | 0, _, _, _ => s
  | fuel + 1, o, r, v =>
    let below := s.mergedInto o r
    let s' := match s.req o r with
      | some (x, q) =>
        if x.kind = .vamo then s.laneResult o x q (natBytes q.n v) 0 0 true else s.finishReq o r 0 0
      | none => s
    below.foldl (fun (s' : State) p =>
      match s.req p.1 p.2 with
      | some (y, q) => (s'.reply fuel p.1 p.2 (atomicNew y.aop q.n v (bytesNat q.cmp) 0)).repliedTo y.gang
      | none => s') s'

/-- The home's acknowledgement reaches a request (spec/14 R248). -/
def State.ackReq (s : State) (o r : Nat) : State :=
  match s.req o r with
  | none => s
  | some (x, q) =>
    match x.kind with
    | .vamo => s.reply (s.ops.length + 1) o r (bytesNat q.cmp)
    | .vrmo => s.reply (s.ops.length + 1) o r (bytesNat q.cmp)
    | .vst => s.finishReq o r 0 0
    | .sstg _ => s.finishReq o r 0 0
    | .copy => (s.modReq o r fun q => { q with st := .performed }).post2 .copySegmentAck o r
    | .mepi => (s.modReq o r fun q => { q with st := .performed }).post2 .copySegmentAck o r
    | .xred => (s.modReq o r fun q => { q with st := .performed }).post2 .copySegmentAck o r
    | .xgat => (s.modReq o r fun q => { q with st := .performed }).post2 .copySegmentAck o r
    | .xa2a => (s.modReq o r fun q => { q with st := .performed }).post2 .copySegmentAck o r
    | _ => (s.modReq o r fun q => { q with st := .done }).post2 .phaseBarrierEvent o r

/-- UPDATE_ACK (spec/14 R248): every sharer has acknowledged, and the writer learns it: a peer by an answer; a gang that
is away has the reply patched into its image (spec/16 R298). -/
def execUpdateAck (s : State) : Out :=
  let wr := s.arg.x
  match s.hw.find? wr with
  | none => .next s
  | some h =>
    if !h.await.isEmpty then .next s
    else
      let s := { s with hw := s.hw.del wr }.post .settleNotice h.line
      match h.op with
      | none => .next (match h.peer with
          | some w => s.peerAnswer w 0
          | none => s)
      | some (o, r) =>
        match s.ops.find? o with
        | none => .next s
        | some x =>
          if (s.gang x.gang).st = .resident then .next (s.ackReq o r)
          else .next (s.push [.event .replyPatch { Args.none with x := x.gang, y := o, z := r }])

/-! ## Near caches (spec/14 R244, R245, R247) -/

/-- The team's own store to bytes of a line, or a write of them whose value it has read, has not reached the core's copy
(spec/14 R245, spec/15 R269). -/
def State.ownStore (s : State) (x : Op) (core pa n : Nat) : Bool :=
  s.hw.any fun p =>
    p.2.line == pa / 128 && p.2.await.contains core
      && decide (p.2.off < pa % 128 + n) && decide (pa % 128 < p.2.off + p.2.data.length)
      && ((s.team x.team).unsettled.contains p.1 || match p.2.op with
        | some (o, _) => (match s.ops.find? o with
          | some y => y.team == x.team
          | none => false)
        | none => false)

/-- The copy that an ordinary lane load hits (spec/14 R244). -/
def State.nearHit (s : State) (core line : Nat) (l : Leaf) : Option NLine :=
  match (s.core core).near.find? line with
  | some c =>
    match c.st with
    | .valid => some c
    | .lapsed => none
    | .sealedc => if l.isSealed ∧ c.version.toNat = l.version then some c else none
  | none => none

/-- Some granule of an access to a copy is marked. -/
def NLine.markedIn (c : NLine) (pa n : Nat) : Bool := c.markedAt pa || c.markedAt (pa + n - 1)

/-- Fill a copy of a line from its home: a sealed page's SEALED and without a directory entry, any other VALID with the
core a sharer; none while the directory set makes room. A line with an uncorrectable error is not filled. -/
def State.fillCopy (s : State) (core : Nat) (l : Leaf) (pa : Nat) : Option State :=
  let line := pa / 128
  let slice := sliceOf l.home line
  let bad := (s.ecc.find? (2 * line)).isSome || (s.ecc.find? (2 * line + 1)).isSome
  let copy (st : NearSt) (v e : BitVec 16) : NLine :=
    { st := st, version := v, epoch := e, bytes := s.memBytes (line * 128) 128, marks := [s.marked (2 * line), s.marked (2 * line + 1)],
      used := s.nextOp, slice := slice, filled := s.nextOp + 1 }
  let put (s : State) (c : NLine) : State := { s with nextOp := s.nextOp + 1 }.modCore core fun x => x.nearFill line c
  if bad then some s
  else if l.isSealed then some (put s (copy .sealedc (BitVec.ofNat 16 l.version) 0))
  else
    let r := s.share slice line core
    match r.2 with
    | none => none
    | some d => some (put r.1 (copy .valid d.version d.epoch))

/-- A `.g` lane load under its translation: a hit in the near cache, or a read at the home with a fill; its own team's
stores are seen (spec/14 R244, R245). -/
def State.nearRead (s : State) (o : Nat) (x : Op) (q : Req) (l : Leaf) : Out :=
  let core := s.opCore x
  let pa := l.pa q.addr
  let line := pa / 128
  match (if s.ownStore x core pa q.n then none else s.nearHit core line l) with
  | some c =>
    let s := ((s.useCopy core line c).seeCopy o x.team line core).count x.member 8
    if c.markedIn pa q.n then .next (s.lanePoison o x q true)
    else .next (s.laneResult o x q (c.at_ pa q.n) 0 0 true)
  | none =>
    let h := (s.watchHome x l pa q.n 0).eccHit pa q.n
    let s := h.1
    match h.2 with
    | some g => .next (s.laneError o x q g)
    | none =>
      let hit := (s.nearHit core line l).isSome
      match (if hit then some s else s.fillCopy core l pa) with
      | none =>
        match (s.slice (sliceOf l.home line)).dirFull line with
        | some old => .next ((s.post2 .directoryEviction (sliceOf l.home line) old).defer .nearCacheFill)
        | none => .next (s.defer .nearCacheFill)
      | some s =>
        let s := s.seeLine o x.team line
        if s.markedRange pa q.n then .next (s.lanePoison o x q true)
        else .next (s.laneResult o x q (s.memBytes pa q.n) 0 0 true)

/-- VPRF of a lane: an address without a translation, or protected, is dropped (spec/04 R110). -/
def State.prefetch (s : State) (o : Nat) (x : Op) (q : Req) : State :=
  let core := s.opCore x
  let p := (s.gang x.gang).part
  let s := if 2 ^ 54 ≤ q.addr then s
    else
      match s.translate core p q.addr with
      | .leaf l =>
        if !l.loads then s
        else
          let s := s.tlbFill core p q.addr l
          match s.nearHit core (l.pa q.addr / 128) l with
          | some c => s.useCopy core (l.pa q.addr / 128) c
          | none => (s.fillCopy core l (l.pa q.addr)).getD s
      | _ => s
  s.finishReq o q.id 0 0

/-- A pass of a VLDS whose line was watched when it issued: its lanes take the bytes that the copy holds now, and an entry whose
first lane this is takes the copy's version. A lane whose copy has gone loads as VLD does (spec/12 R226, spec/22 R346). -/
def State.takePass (s : State) (o : Nat) (x : Op) (pass : Nat) : State :=
  let lanes := x.reqs.filter fun q => q.id / 32 == pass && q.st == .ready && q.count != 0
  lanes.foldl (init := s) fun s q =>
    let entry (e : WatchE) : Bool := e.op == o && e.line + 1 == q.count
    let out (e : WatchE) : WatchE := if entry e = true then { e with mask := e.mask &&& ~~~(1 <<< q.id : Mask) } else e
    let leave (s : State) : State := s.modTeam x.team fun t => { t with watch := t.watch.map out }
    match s.copyAt (s.opCore x) (s.gang x.gang).part q.addr with
    | none => (leave s).modReq o q.id fun q => { q with count := 0 }
    | some (pa, c, _) =>
      if pa / 128 + 1 ≠ q.count then (leave s).modReq o q.id fun q => { q with count := 0 }
      else if c.markedAt pa then (leave s).modReq o q.id fun q => { q with st := .performed, pois := true, count := 0 }
      else
        let before : Mask := (1 <<< q.id) - 1
        let now := s.cycleOf (s.opCore x)
        let first (e : WatchE) : WatchE :=
          if (entry e && (e.mask &&& before) == 0) = true then
            { e with version := c.version, epoch := if e.isSealed = true then 0 else c.epoch, born := now }
          else e
        let s := s.modTeam x.team fun t => { t with watch := t.watch.map first }
        s.modReq o q.id fun q => { q with st := .performed, data := c.at_ pa q.n }

/-- A lane of a VLDS whose pass is still to take the copy of its line. -/
def Req.passing (x : Op) (q : Req) : Bool := x.kind == .vlds && q.st == .ready && q.count != 0

/-- NEAR_CACHE_FILL (spec/14 R244): a `.g` lane load is answered by the near cache or through a fill from its home; a
VLDS lane takes its copy, and lands; a prefetch fills. -/
def execNearCacheFill (s : State) : Out :=
  match (s.req s.arg.x s.arg.y).filter fun p => p.2.passing p.1 with
  | some (x, q) =>
    if s.opLive x then .next ((s.takePass s.arg.x x (q.id / 32)).defer .nearCacheFill) else .next (s.defer .nearCacheFill)
  | none =>
  s.access .nearCacheFill
    (fun o x q s =>
      if x.kind = .vprf then .next (s.prefetch o x q)
      else if q.st = .performed then
        .next (if q.pois then s.lanePoison o x q true else s.laneResult o x q q.data 0 0 true)
      else s.withLeaf o q.id x q.addr Leaf.loads fun l => s.nearRead o x q l)
    fun o x q s =>
      if x.kind = .vprf then .next (s.finishReq o q.id 0 0)
      else
        match s.recallLane x q with
        | some (v, s) => .next (s.laneReplay o x q v)
        | none => .next (s.defer .nearCacheFill)

/-! ## The constant path of lanes (spec/04 R102, spec/14 R246) -/

/-- A `.c` lane's read of `n` bytes at a virtual address. -/
def State.constLane (s : State) (o : Nat) (x : Op) (q : Req) : Out :=
  let core := s.opCore x
  let g := s.gang x.gang
  let va := g.constb.toNat + q.addr
  let first := s.constRead core g.part va
  let r := if va / 128 = (va + q.n - 1) / 128 then first else
    match first.2 with
    | .value _ false => first.1.constRead core g.part (va + q.n - 1)
    | _ => first
  let s := r.1
  match r.2 with
  | .value _ true => .next (s.lanePoison o x q true)
  | .value _ false =>
    let byte (a : Nat) : Byte := match (s.core core).cc.find? (a / 128) with
      | some c => listGet 0 c.1 (a % 128)
      | none => (match s.translate core g.part a with
        | .leaf l => s.memByte (l.pa a)
        | _ => 0)
    .next (s.laneResult o x q ((List.range q.n).map fun i => byte (va + i)) 0 0 true)
  | .absent _ => .next (s.reqPark o q.id x va 0)
  | .denied => .next (s.reqProtect o q.id x va)
  | .bad _ e => .next (s.reqsUnresolved o [q.id] x va 3 e)
  | .error gr => .next (s.laneError o x q gr)

/-- CONSTANT_FILL (spec/14 R246): a core's constant cache is filled from a line's home; with a lane request named in
`slot` and `z`, that lane reads through it. -/
def execConstantFill (s : State) : Out :=
  let a := s.arg
  match a.slot with
  | none => .next s
  | some o =>
    match s.req o a.z with
    | none => .next s
    | some (x, q) =>
      if q.st != .ready then .next s
      else if !(s.opLive x && s.allOver x.after) then .next (s.defer .constantFill)
      else if s.replaying x.gang then
        match s.recallLane x q with
        | some (v, s) => .next (s.laneReplay o x q v)
        | none => .next (s.defer .constantFill)
      else s.constLane o x q

/-! ## Translation (spec/14 R257, R258, spec/18 R311) -/

/-- PAGE_WALK_COMPLETE (spec/14 R257): a leaf fills both TLBs and the access goes on; an absent page is a translation
fault, a malformed entry is unresolvable. -/
def execPageWalkComplete (s : State) : Out :=
  let o := s.arg.x
  match s.req o s.arg.y with
  | none => .next s
  | some (x, q) =>
    if q.st != .ready then .next s
    else
      let p := (s.gang x.gang).part
      let root := match s.parts.find? p with
        | some pt => pt.cfg.ptRoot
        | none => 0
      let s := (s.walkReads q.addr 5 root).foldl (fun (s : State) e => s.l2Watch (s.findSlice (e / 128)) e 16 0 3 (s.opCore x)) s
      match s.walk p q.addr with
      | .leaf l => .next ((s.tlbFill (s.opCore x) p q.addr l).serve o q.id x)
      | .absent => .next (s.post2 .translationFault o q.id)
      | .bad e => .next (s.reqMalformed o x q.addr e)

/-- TRANSLATION_FAULT (spec/14 R258): the request parks, and the Memory core has its fault. -/
def execTranslationFault (s : State) : Out :=
  match s.req s.arg.x s.arg.y with
  | none => .next s
  | some (x, q) => if q.st != .ready then .next s else .next (s.reqPark s.arg.x q.id x q.addr x.accessCode)

/-- Whether an operation is run by the copy engine or a collective, whose attempts deal with their own faults. -/
def Op.engine (x : Op) : Bool :=
  match x.kind with
  | .copy => true
  | .mepi => true
  | .xred => true
  | .xgat => true
  | .xa2a => true
  | .cbld _ => true
  | .seal => true
  | .unseal => true
  | .vref => true
  | _ => false

/-- The Memory core's answer to a fault: resolved, or unresolvable with a DETAIL code (spec/14 R258, spec/16 R287). A
segment of an engine keeps it in its cause: 0x80 resolved, 0x80 plus the code unresolvable. -/
def State.answerFault (s : State) (f : TFault) (why : Nat) : State :=
  let drop (s : State) : State := { s with tfaults := s.tfaults.filter fun x => !(x.part == f.part && x.tag == f.tag) }
  match f.op with
  | some (o, _) =>
    let s := drop s
    (match s.ops.find? o with
     | none => s
     | some x =>
       let rs := x.reqs.filter fun q => q.st == .parked f.tag
       if rs.isEmpty then s
       else if x.engine then
         rs.foldl (init := s) fun s q => (s.modReq o q.id fun q => { q with st := .ready, cause := BitVec.ofNat 8 (0x80 + why) }).serve o q.id x
       else if why = 0 then
         rs.foldl (init := s) fun s q =>
           let s := s.modReq o q.id fun q => { q with st := .ready }
           if x.isLane then s.serveLane o x q else s.serve o q.id x
       else s.reqsUnresolved o (rs.map Req.id) x f.va why 0)
  | none =>
    if why = 0 then drop s
    else { s with tfaults := s.tfaults.map fun x => if x.part = f.part ∧ x.tag = f.tag then { x with answer := some why } else x }

/-- GET of the page-response ring moves past one response (spec/18 R311). -/
def State.responseTaken (s : State) (c : PartCfg) : State := s.benchStore 2 (c.prs + 4) (natBytes 4 (s.mem32 (c.prs + 4) + 1).toNat)

/-- A response to the fault of this TAG; one that names no outstanding fault is ignored (spec/18 R311). -/
def State.pageAnswer (s : State) (p tag : Nat) (resolved : Bool) : State :=
  match s.tfault p tag with
  | none => s
  | some f => if f.answer.isSome then s else s.answerFault f (if resolved then 0 else 1)

/-- PAGE_RESPONSE (spec/18 R311): the driver's response, taken from the page-response ring. -/
def execPageResponse (s : State) : Out :=
  let p := s.arg.x
  match s.parts.find? p with
  | none => .next s
  | some pt =>
    let s := s.ringPut pt.cfg.prs 124 32 [s.arg.w, if s.arg.ok then 1 else 0, 0, 0]
    .next ((s.responseTaken pt.cfg).pageAnswer p s.arg.w.toNat s.arg.ok)

/-- TRANSLATION_TIMEOUT (spec/14 R258): a fault unanswered for the partition's timeout is unresolvable. -/
def execTranslationTimeout (s : State) : Out :=
  let p := s.arg.x
  match s.tfault p s.arg.w.toNat, s.parts.find? p with
  | some f, some pt =>
    if f.answer.isSome then .next s
    else if f.since + 1000 * pt.cfg.ftimeout ≤ s.ns then .next (s.answerFault f 2)
    else .next (s.defer .translationTimeout)
  | _, _ => .next s

/-! ## Scratchpads (spec/04 R106, R107, spec/06 R124 to R127) -/

/-- The requester class and tag of a lane access to a member's scratchpad (spec/06 R124). -/
def State.laneClass (s : State) (x : Op) (m : Nat) : Cls × Nat :=
  if m = x.member % 4 then (.own, Cls.own.tag (s.team x.team).quarter) else (.quad, Cls.quad.tag (x.member % 4))

/-- The kind of an access for watchpoints: 0 read, 1 write, 2 atomic. -/
def Op.watchKind (x : Op) : Nat := if x.kind = .vst then 1 else if x.kind = .vld then 0 else 2

/-- Perform a lane's access in its slot (spec/04 R106, R107). -/
def State.padLane (s : State) (o : Nat) (x : Op) (q : Req) : State :=
  let mk := memberKey x.gang (q.addr / 2 ^ 21)
  let a := q.addr % 2 ^ 21
  let m := s.member mk
  let (_, tag) := s.laneClass x (q.addr / 2 ^ 21)
  let other := m.foreign a tag
  if x.kind = .vst then (s.padStore mk a q.data true tag).finishReq o q.id 0 0
  else if m.lineSt a = 2 then s.lanePoison o x q other
  else
    let old := m.bytes a q.n
    if x.kind = .vld then s.laneResult o x q old 0 0 other
    else
      let new := atomicNew x.aop q.n (bytesNat old) (bytesNat q.data) (bytesNat q.cmp)
      (s.padStore mk a (natBytes q.n new) true tag).laneResult o x q old 0 0 other

/-- The load or atomic waits: its line is EMPTY and `.nf` is not set (spec/04 R106). -/
def State.lineWaits (s : State) (x : Op) (q : Req) : Bool :=
  x.kind != .vst && !x.md.getLsbD 0
    && (s.member (memberKey x.gang (q.addr / 2 ^ 21))).lineSt (q.addr % 2 ^ 21) == 0

/-- SCRATCHPAD_ACCESS (spec/06 R124): a lane's access in its slot: it waits on an EMPTY line, a watchpoint holds it, or it
is performed. -/
def execScratchpadAccess (s : State) : Out :=
  let o := s.arg.x
  match s.req o s.arg.y with
  | none => .next s
  | some (x, q) =>
    if q.st != .ready then .next s
    else if !s.ripe o x q || s.quarterAhead x.gang (x.member % 4) (s.team x.team).quarter (q.addr / 2 ^ 21) o (q.id / 32) then
      .next (s.defer .scratchpadAccess)
    else
      let m := q.addr / 2 ^ 21
      let mk := memberKey x.gang m
      let c := s.laneClass x m
      let other := (s.member mk).foreign (q.addr % 2 ^ 21) c.2
      let back := if x.kind = .vst ∨ !other then none else s.recallLane x q
      match back with
      | some (v, s) => .next (s.laneReplay o x q v)
      | none =>
        if s.lineWaits x q then
          .next ((s.modReq o q.id fun q => { q with st := .line }).post2 .emptyLineWake o q.id)
        else
          match (s.member mk).spHit (q.addr % 2 ^ 21) q.n x.watchKind c.1 (if q.count = 0 then none else some (q.count - 1)) with
          | some wp =>
            let s := s.modReq o q.id fun q => { q with st := .held wp }
            .next (s.spStop mk (s.opRec x 2) (q.addr % 2 ^ 21) (q.id % 32) x.watchKind c.1 wp)
          | none => .next (s.padLane o x q)

/-- EMPTY_LINE_WAKE (spec/06 R127): a request that waits on a line is served once the line is FULL or POISONED. -/
def execEmptyLineWake (s : State) : Out :=
  let o := s.arg.x
  match s.req o s.arg.y with
  | none => .next s
  | some (x, q) =>
    if q.st != .line then .next s
    else if !s.opLive x || s.lineWaits x q then .next (s.defer .emptyLineWake)
    else .next ((s.modReq o q.id fun q => { q with st := .ready }).serve o q.id x)

/-! ## Completion -/

/-- LANE_MEMORY_COMPLETE (spec/04 R105): with every lane done the token becomes DONE or POISONED; a prefetch has none. -/
def execLaneMemoryComplete (s : State) : Out :=
  let o := s.arg.x
  match s.ops.find? o with
  | none => .next s
  | some x =>
    if !x.isLane || !x.allDone then .next s
    else if x.kind = .vprf then .next { s with ops := s.ops.del o }
    else
      let s := s.modTeam x.team fun t => { t with loads := t.loads.map fun e => if e.op = o then { e with done := true } else e }
      .next (s.endOp o x)

/-- SAMPLE_RECORD (spec/24 R377): the reply of a marked request has returned; its record goes into the sample buffer's ring.
The cycles it spent at each stage are timing, which the spec leaves open. -/
def execSampleRecord (s : State) : Out :=
  let a := s.arg
  let waits : Bool := match s.req a.x a.y with
    | some (_, q) => q.st != .done
    | none => false
  if waits then .next (s.defer .sampleRecord)
  else if s.sampleN = 0 ∨ s.sampleS = 0 then .next s
  else
    let word (i : Nat) : W64 := BitVec.ofNat 64 (bytesNat ((a.data.drop (8 * i)).take 8))
    let total := min (s.cycleOf a.v - a.z) (2 ^ 32 - 1)
    let hops := (Config.freeWord s.free) &&& 0xFF
    let rest := (Config.freeWord (s.free + 1)) &&& 0x1FFFFFFF
    let ws : List W64 := [word 0, word 1, word 2, word 3, (hops <<< 32) + word 4, Config.freeWord (s.free + 2),
      BitVec.ofNat 64 (total * 2 ^ 32 + a.u * 2 ^ 29) + rest, 0]
    let s := { s with free := s.free + 3 }
    let s := s.benchWords (s.sampleB + s.sampleC * 64 % s.sampleS) ws
    .next { s with sampleC := s.sampleC + 1 }

end Sys2Proof.Machine
end

