-- ==== Sys2Proof/Machine/Token.lean ====
section
/-! DEFINITION. Waiting on tokens and clearing them (spec/03 R64, R65, spec/11 R205, R207). -/

namespace Sys2Proof.Machine

/-- The token set of a wait: as it stood when the instruction issued (spec/03 R64). -/
def State.namedSet (s : State) (sa : BitVec 6) : W32 :=
  match s.tm.wait with
  | some w => (match w.obj with
    | .tokens set => set
    | _ => (s.rS sa).truncate 32)
  | none => (s.rS sa).truncate 32

/-- The lowest named token in a state. -/
def Team.lowest (t : Team) (set : W32) (f : TokSt → Bool) : Option Nat :=
  (List.range 32).find? fun n => set.getLsbD n && f (t.getT n).st

/-- The token is over. -/
def TokSt.isOver (x : TokSt) : Bool := x == .done || x == .poisoned

/-- After a wait has returned: the wait-poison class with the lowest POISONED named token (spec/16 R282). -/
def State.poisonClass (s : State) (set : W32) : State :=
  match s.tm.lowest set (· == .poisoned) with
  | some n => s.classTrap .waitPoison n
  | none => s

/-- TWAIT (spec/03 R64). -/
def execTwait (sa : BitVec 6) (s : State) : Out :=
  s.withRegs [sa] [] fun s =>
    let set := s.namedSet sa
    if s.tm.settled set then .next (((s.observeSet s.cur set).advance).poisonClass set)
    else s.block (.tokens set) none 0

/-- A wait with a limit returns: 1 satisfied, 0 expired, with the class of its result (spec/03 R64, R65, spec/16 R282).
-/
def State.timedReturn (s : State) (sd : BitVec 6) (set : W32) (v : W64) : Out :=
  let s := ((s.observeSet s.cur set).wS sd v).advance
  .next (if v = 0 then s.classTrap .waitExpired 0 else s.poisonClass set)

/-- TTRY and TWAITT with a limit in cycles: the result is journalled (spec/03 R64, R65). -/
def timedWait (sd sa : BitVec 6) (limit : Nat) (s : State) : Out :=
  let set := s.namedSet sa
  match s.recall (.scalar s.cur) s.tm.rwc with
  | some (v, s) => s.timedReturn sd set (v.headD 0)
  | none =>
    let late := match s.tm.wait with
      | some w => w.result.isSome
      | none => limit == 0
    if s.tm.settled set && !(s.tm.wait.isSome && late) then
      (s.note (.scalar s.cur) s.tm.rwc [1]).timedReturn sd set 1
    else if late then (s.note (.scalar s.cur) s.tm.rwc [0]).timedReturn sd set 0
    else
      let limit := match s.tm.wait with
        | some w => w.limit.getD limit
        | none => limit
      (if s.tm.wait.isSome then s else s.post .waitLimitExpiry s.cur).block (.tokens set) (some limit) 0

def execTtry (sd sa : BitVec 6) (s : State) : Out :=
  s.withRegs [sa] [sd] fun s => timedWait sd sa s.tg.ttryi s
def execTwaitt (sd sa sb : BitVec 6) (s : State) : Out :=
  s.withRegs [sa, sb] [sd] fun s => timedWait sd sa (s.rS sb).toNat s

/-- TCLR: a PENDING named token stops it and nothing changes; else DONE and POISONED ones become FREE (spec/03 R64). -/
def execTclr (sa : BitVec 6) (s : State) : Out :=
  s.withRegs [sa] [] fun s =>
    let set : W32 := (s.rS sa).truncate 32
    if (s.tm.lowest set (· == .pending)).isSome then .next (s.scalarFault kTokenBusy .state 0)
    else .next (s.modTm fun t => (List.range 32).foldl
      (fun (t : Team) n => if set.getLsbD n then t.setT n Tok.blank else t) t).advance

/-- The two-bit states of named tokens (spec/03 R64, TSTAT). -/
def Team.states (t : Team) (set : W32) : W64 :=
  (List.range 32).foldl (fun (w : W64) n =>
    if set.getLsbD n then w ||| (BitVec.ofNat 64 (tokCode (t.getT n).st) <<< (2 * n)) else w) 0

/-- TSTAT (spec/03 R64): it observes the tokens it reports DONE or POISONED; its value is journalled. -/
def execTstat (sd sa : BitVec 6) (s : State) : Out :=
  s.withRegs [sa] [sd] fun s =>
    let set : W32 := (s.rS sa).truncate 32
    let r := s.journal1 (s.tm.states set)
    .next ((r.2.observeSet s.cur set).wS sd r.1).advance

/-- TANY (spec/03 R64): an empty set returns 32 at once. Its wait has phase 1: one token of the set is enough. -/
def execTany (sd sa : BitVec 6) (s : State) : Out :=
  s.withRegs [sa] [sd] fun s =>
    let set := s.namedSet sa
    let ret (n : Nat) (s : State) : Out :=
      let s := ((s.observeSet s.cur set).wS sd (BitVec.ofNat 64 n)).advance
      .next (if n < 32 ∧ (s.tm.getT n).st = .poisoned then s.classTrap .waitPoison n else s)
    match s.recall (.scalar s.cur) s.tm.rwc with
    | some (v, s) => ret (v.headD 32).toNat s
    | none =>
      if set = 0 then ret 32 (s.note (.scalar s.cur) s.tm.rwc [32])
      else
        match s.tm.lowest set TokSt.isOver with
        | some n => ret n (s.note (.scalar s.cur) s.tm.rwc [BitVec.ofNat 64 n])
        | none => s.block (.tokens set) none 1

/-- WAIT_LIMIT_EXPIRY (spec/03 R65): the limit ends with its cycle; a condition met by then wins. -/
def execWaitLimitExpiry (s : State) : Out :=
  let t := s.arg.x
  match (s.team t).wait with
  | some w =>
    (match w.limit with
     | some l =>
       if w.result.isSome || (s.team t).met w then .next s
       else if w.since + l < s.cycleOf (s.teamCore t) ∧ !(s.team t).stopped then
         .next (s.modTeam t fun x => { x with wait := some { w with result := some 0 } })
       else .next (s.defer .waitLimitExpiry)
     | none => .next s)
  | none => .next s

end Sys2Proof.Machine
end

