-- ==== Sys2Proof/Machine/Phase.lean ====
section
/-! DEFINITION. Phase barriers: the object, its events, the words that act on it and the waits on its phases (spec/12
R217 to R223). -/

namespace Sys2Proof.Machine

/-! ## The object (spec/12 R217, R219) -/

/-- A phase barrier's two doublewords with the arrivals held for it: each is poisoned or not. -/
structure PbObj where
  d0 : W64
  d1 : W64
  held : List Bool
deriving DecidableEq, Repr

/-- PHASE. -/
def PbObj.phase (b : PbObj) : W32 := b.d0.truncate 32
/-- ARRIVALS_PENDING. -/
def PbObj.pending (b : PbObj) : Nat := bits b.d0.toNat 32 24
/-- SCOPE. -/
def PbObj.scope (b : PbObj) : Nat := bits b.d0.toNat 56 3
/-- INIT. -/
def PbObj.init (b : PbObj) : Bool := b.d0.getLsbD 60
/-- OPOIS. -/
def PbObj.opois (b : PbObj) : Bool := b.d0.getLsbD 61
/-- EXPECT. -/
def PbObj.expect (b : PbObj) : Nat := bits b.d1.toNat 36 24
/-- BYTES, signed. -/
def PbObj.balance (b : PbObj) : Int :=
  let n := bits b.d1.toNat 0 36
  if 2 ^ 35 ≤ n then (n : Int) - 2 ^ 36 else n

/-- The object with these fields; INIT and SCOPE stay. -/
def PbObj.with (b : PbObj) (phase : W32) (pending : Nat) (pois opois : Bool) (bal : Int) : PbObj :=
  { b with
    d0 := BitVec.ofNat 64 (phase.toNat + pending * 2 ^ 32 + b.scope * 2 ^ 56 + pois.toNat * 2 ^ 59 + 2 ^ 60 + opois.toNat * 2 ^ 61)
    d1 := BitVec.ofNat 64 ((bal % 2 ^ 36).toNat + b.expect * 2 ^ 36) }

/-- POISON. -/
def PbObj.pois (b : PbObj) : Bool := b.d0.getLsbD 59

/-- The check: a phase with nothing awaited completes (spec/12 R219). -/
def PbObj.check (b : PbObj) : PbObj × Bool :=
  if b.pending = 0 ∧ b.balance = 0 then (b.with (b.phase + 1) b.expect b.opois false 0, true) else (b, false)

/-- Apply held arrivals to the new phase, one at a time: those that find none awaited are held on (spec/12 R219). -/
def PbObj.release (b : PbObj) : Nat → List Bool → PbObj
  | 0, l => { b with held := l }
  | _ + 1, [] => { b with held := [] }
  | fuel + 1, a :: l =>
    if b.pending = 0 then { b with held := a :: l }
    else
      let r := (b.with b.phase (b.pending - 1) b.pois (b.opois || a) b.balance).check
      r.1.release fuel l

/-- After a check: a completed phase takes the held arrivals. -/
def PbObj.settle (r : PbObj × Bool) : PbObj :=
  if r.2 then r.1.release (r.1.held.length + 1) r.1.held else r.1

/-- The kinds of event at a phase barrier (spec/12 R219). -/
inductive PbEv where
  | arrive (pois : Bool)
  /-- An expectation adds bytes, a credit takes them away. -/
  | bytes (n : Int) (pois : Bool)
deriving DecidableEq, Repr

/-- An event at the object; none where BYTES would leave its range (spec/12 R219). -/
def PbObj.event (b : PbObj) : PbEv → Option PbObj
  | .arrive pois =>
    if b.pending = 0 then some { b with held := b.held ++ [pois] }
    else some (PbObj.settle (b.with b.phase (b.pending - 1) b.pois (b.opois || pois) b.balance).check)
  | .bytes n pois =>
    let bal := b.balance + n
    if bal < -(2 ^ 35) ∨ 2 ^ 35 ≤ bal then none
    else some (PbObj.settle (b.with b.phase b.pending b.pois (b.opois || pois) bal).check)

/-- What PINIT writes (spec/12 R221). -/
def pbInit (v : W64) : PbObj :=
  let e := bits v.toNat 0 24
  { d0 := BitVec.ofNat 64 (e * 2 ^ 32 + bits v.toNat 24 3 * 2 ^ 56 + 2 ^ 60), d1 := BitVec.ofNat 64 (e * 2 ^ 36), held := [] }

/-! ## Address words and places (spec/12 R218) -/

/-- SPACE, ARG and ADDR of a barrier address word. -/
def pbSpace (w : W64) : Nat := bits w.toNat 54 4
def pbArg (w : W64) : Nat := bits w.toNat 58 6
def pbAddr (w : W64) : Nat := bits w.toNat 0 54

/-- The member of a gang on a core of its quad. -/
def Gang.memberAt (g : Gang) (q : Nat) : Nat := g.cores.findIdx fun c => c % 4 == q

/-- The member whose scratchpad a barrier address word names, for a team on member `m`. -/
def State.pbMember (s : State) (g m : Nat) (w : W64) : Nat :=
  memberKey g (if pbSpace w = 2 then (s.gang g).memberAt (pbArg w) else m)

/-- The checks of an address word at issue, in the order of the reasons (spec/12 R221). -/
def State.pbWord (s : State) (w : W64) (more : Option Reason) (k : Out) : Out :=
  let sp := pbSpace w
  let a : W64 := BitVec.ofNat 64 (pbAddr w)
  if sp < 2 ∧ pbArg w ≠ 0 then illegal s .reserved
  else if 3 ≤ sp ∨ (sp = 2 ∧ 3 < pbArg w) then illegal s .value
  else
    match more with
    | some r => illegal s r
    | none =>
      if pbAddr w % 16 ≠ 0 then faultAt s kMisaligned a
      else if sp ≠ 0 ∧ s.padSize (gangOf s.cur) ≤ pbAddr w then faultAt s kOutOfPart a
      else if sp = 2 ∧ s.tg.cores.length ≤ s.tg.memberAt (pbArg w) then faultAt s kOutOfPart a
      else k

/-- SCOPE suits the space: gang in scratchpad; die, device or pod in global memory (spec/12 R218). -/
def scopeSuits (pad : Bool) (scope : Nat) : Bool := if pad then scope == 0 else decide (1 ≤ scope) && decide (scope ≤ 3)

/-- The held arrivals at a place. -/
def State.pbHeld (s : State) (key : Nat) : List Bool := (s.pbars.get { held := [] } key).held
/-- Keep the held arrivals of a place. -/
def State.setHeld (s : State) (key : Nat) (l : List Bool) : State :=
  { s with pbars := if l.isEmpty then s.pbars.del key else s.pbars.set key { held := l } }

/-- The object in a scratchpad. -/
def State.pbPad (s : State) (mk addr : Nat) : PbObj :=
  let m := s.member mk
  { d0 := BitVec.ofNat 64 (bytesNat (m.bytes addr 8)), d1 := BitVec.ofNat 64 (bytesNat (m.bytes (addr + 8) 8)),
    held := s.pbHeld (padKey mk addr) }
/-- The object in global memory. -/
def State.pbMem (s : State) (pa : Nat) : PbObj := { d0 := s.mem64 pa, d1 := s.mem64 (pa + 8), held := s.pbHeld pa }
/-- The bytes of an object. -/
def PbObj.bytes (b : PbObj) : List Byte := wordBytes [b.d0, b.d1]

/-- An object that an operation other than PINIT may act on: initialised, of a fitting scope, and in a line or granule
without poison (spec/12 R218, R223). -/
def PbObj.usable (b : PbObj) (pad poisoned : Bool) : Bool := b.init && scopeSuits pad b.scope && !poisoned

/-! ## The words (spec/12 R221) -/

/-- The operations in flight whose accesses an arrival follows: the team's own accesses, and what it has observed. -/
def State.issuedBefore (s : State) (t : Nat) : List Nat :=
  (s.ops.filter fun p => p.2.team == t && !p.2.finished && (p.2.cov || p.2.isLane || p.2.isScalar) && p.2.kind != .vprf).map
    Prod.fst

/-- Issue a phase-barrier word: `own` where TD is its own token. -/
def State.issuePb (s : State) (kind : OpKind) (td : BitVec 5) (sp w v : W64) (after : List Nat) (own : Bool) : Out :=
  let set : W64 := if own then sp else sp ||| BitVec.ofNat 64 (2 ^ td.toNat)
  let o := s.scalarOp kind td set w v
  let o := { o with after := o.after ++ after, reqs := [oneReq (pbAddr w) 16 []] }
  if own then s.issue o
  else
    let r := s.addOp o
    .next ((r.1.post .preconditionsMet r.2).advance)

/-- PINIT: its operand and the suit of its scope are checked at issue (spec/12 R218, R221). -/
def execPinit (td : BitVec 5) (sp sa sb : BitVec 6) (s : State) : Out :=
  s.withRegs [sp, sa, sb] [] fun s =>
    let w := s.rS sa
    let v := s.rS sb
    let bad := bits v.toNat 0 24 = 0 ∨ 3 < bits v.toNat 24 3 ∨ bits v.toNat 27 37 ≠ 0
    s.pbWord w (if bad then some .value else none) <|
      if !scopeSuits (pbSpace w != 0) (bits v.toNat 24 3) then faultAt s kProtection (BitVec.ofNat 64 (pbAddr w))
      else s.issuePb .pinit td (s.rS sp) w v [] true

/-- PEXP (spec/12 R221). -/
def execPexp (td : BitVec 5) (sp sa sb : BitVec 6) (s : State) : Out :=
  s.withRegs [sp, sa, sb] [] fun s =>
    let v := s.rS sb
    s.pbWord (s.rS sa) (if 2 ^ 35 ≤ v.toNat then some .value else none) <|
      s.issuePb .pexp td (s.rS sp) (s.rS sa) v [] true

/-- PARR is release-ordered (spec/12 R221); TOKEN_BUSY comes before its release. -/
def execParr (td : BitVec 5) (sp sa : BitVec 6) (s : State) : Out :=
  s.withRegs [sp, sa] [] fun s =>
    s.pbWord (s.rS sa) none <|
      if (s.tm.getT td.toNat).st = .pending then .next (s.scalarFault kTokenBusy .state 0)
      else s.release fun s => s.issuePb .parr td (s.rS sp) (s.rS sa) 0 (s.issuedBefore s.cur) true

/-- TEXP exports T[TD]: one that is FREE gives reason 5 (spec/12 R221). -/
def execTexp (td : BitVec 5) (sp sa : BitVec 6) (s : State) : Out :=
  s.withRegs [sp, sa] [] fun s =>
    s.pbWord (s.rS sa) (if (s.tm.getT td.toNat).st = .free then some .value else none) <|
      s.release fun s =>
        s.issuePb (.texp td.toNat) td (s.rS sp) (s.rS sa) 0 (s.issuedBefore s.cur) false

/-! ## Events at the object (spec/12 R218 to R221) -/

/-- An operation that acts on a phase barrier. -/
def Op.isPb (x : Op) : Bool :=
  match x.kind with
  | .pinit => true
  | .pexp => true
  | .parr => true
  | .texp _ => true
  | .credit => true
  | _ => false

/-- The event of an operation; none for PINIT. A credit op has the bytes in `b`, or `aop` 1 for an arrival. -/
def Op.pbEv (x : Op) : Option PbEv :=
  match x.kind with
  | .pexp => some (.bytes x.b.toNat x.pois.isSome)
  | .parr => some (.arrive x.pois.isSome)
  | .texp _ => some (.arrive x.pois.isSome)
  | .credit => some (if x.aop = 1 then .arrive x.pois.isSome else .bytes (-(x.b.toNat : Int)) x.pois.isSome)
  | _ => none

/-- An earlier event of the same agent, or of the same command, is still on its way to the same barrier; one whose preconditions
are not met is not yet an event (spec/12 R220, R221). -/
def State.pbBefore (s : State) (o : Nat) (x : Op) : Bool :=
  s.ops.any fun p =>
    decide (p.1 < o) && p.2.isPb && (p.2.started || p.2.waiting == 0 && s.allOver p.2.after) && p.2.team == x.team && p.2.a == x.a && p.2.gang == x.gang
      && (p.2.kind == .credit) == (x.kind == .credit) && p.2.pos2 == x.pos2

/-- The operation is over: PINIT, PEXP and PARR complete their token; a credit lets its command complete. -/
def State.endPb (s : State) (o : Nat) (x : Op) : State :=
  match x.kind with
  | .texp _ => { s with ops := s.ops.del o }
  | .credit => { s with ops := s.ops.del o }.post .copyComplete x.pos2
  | _ =>
    let x := match x.pois with
      | some (_, org) => if x.cause = 0 then { x with cause := cInherited, origin := org } else x
      | none => x
    s.endOp o x

/-- The protection fault of an operation at an object: fatal, with the instruction and the object in its record (spec/12
R218). -/
def State.pbFault (s : State) (o : Nat) (x : Op) : State :=
  let f : FRec := { s.opRec x x.unit with kind := kProtection, addr := BitVec.ofNat 64 (pbAddr x.a) }
  (s.modReq o 0 fun q => { q with st := .held 9 }).fatal (ctxOf x.gang) f

/-- Write an object in a scratchpad; PINIT stores it as the scalar stream does, an event leaves the line's state. -/
def State.setPbPad (s : State) (mk addr : Nat) (b : PbObj) (init : Bool) (tag : Nat) : State :=
  let s := if init then s.padStore mk addr b.bytes true tag else s.modMember mk fun m => m.setBytes addr b.bytes
  s.setHeld (padKey mk addr) b.held

/-- An operation reaches an object in a scratchpad. -/
def State.pbAtPad (s : State) (o : Nat) (x : Op) (mk addr : Nat) : State :=
  let b := s.pbPad mk addr
  match x.pbEv with
  | none => (s.setPbPad mk addr (pbInit x.b) true (Cls.own.tag (s.team x.team).quarter)).endPb o x
  | some e =>
    if !b.usable true ((s.member mk).lineSt addr == 2) then s.pbFault o x
    else
      match b.event e with
      | none => s.pbFault o x
      | some b => (s.setPbPad mk addr b false 0).endPb o x

/-- Write an object at its home. -/
def State.setPbMem (s : State) (slice pa : Nat) (b : PbObj) (op : Option (Nat × Nat)) : State :=
  (s.homeStore slice pa b.bytes (fun _ => false) false op).setHeld pa b.held

/-- An operation reaches an object in global memory, at the home of its line; it is over at the home's acknowledgement. One
that meets an uncorrectable error leaves the object as it is (spec/14 R242; DEDUCED, log entry 70). -/
def State.pbAtMem (s : State) (o : Nat) (x : Op) (l : Leaf) (pa : Nat) : State :=
  let slice := sliceOf l.home (pa / 128)
  let b := s.pbMem pa
  let wr := s.nextOp
  let s0 := s.watchHome x l pa 16 2
  let put (s : State) (b : PbObj) : State :=
    (s.setPbMem slice pa b (some (o, 0))).modReq o 0 fun q => { q with st := .home wr }
  match x.pbEv with
  | none =>
    let s := s0.setMark (pa / 64) false
    put { s with ecc := s.ecc.del (pa / 64) } (pbInit x.b)
  | some e =>
    match s0.eccHit pa 16 with
    | (s1, some g) =>
      let r := s1.uncorrectable (s.gang x.gang).part (some (ctxOf x.gang)) (s1.opRec x x.unit) g
      r.1.finishReq o 0 cMemory (r.1.opOrigin x x.unit 0 r.2.toNat)
    | (_, none) =>
      if !b.usable false (s.marked (pa / 64)) then s.pbFault o x
      else
        match b.event e with
        | none => s.pbFault o x
        | some b => put s0 b

/-- The message of an event at a pod barrier homed on another device (spec/18 R314): kind 0 arrival, 1 expectation, 2
credit, with its bytes, 4 a PINIT with its operand. -/
def Op.pbMsg (x : Op) (o peer win off : Nat) : Msg :=
  let kind := match x.kind with
    | .pexp => 1
    | .credit => if x.aop = 1 then 0 else 2
    | .pinit => 4
    | _ => 0
  { code := 0x06, dev := peer, win := win, off := off, data := natBytes 8 x.b.toNat, marks := [x.pois.isSome], slot := none, tag := o,
    arg := kind }

/-- PHASE_BARRIER_EVENT (spec/12 R219): the home applies an operation's event; an acknowledged one is over. -/
def execPhaseBarrierEvent (s : State) : Out :=
  let o := s.arg.x
  match s.req o 0 with
  | none => .next s
  | some (x, q) =>
    if !x.isPb then .next s
    else if q.st = .done then .next (s.endPb o x)
    else if q.st != .ready then .next s
    else if !(s.opLive x && s.allOver x.after) || s.pbBefore o x then .next (s.defer .phaseBarrierEvent)
    else if pbSpace x.a ≠ 0 then .next (s.pbAtPad o x (s.pbMember x.gang (x.member % 4) x.a) (pbAddr x.a))
    else if s.replaying x.gang then .next (s.endPb o x)
    else
      let ok (l : Leaf) : Bool := l.type == 2 && l.w || (if x.pbEv.isNone then l.stores else l.atomics)
      s.withLeaf o 0 x (pbAddr x.a) ok fun l =>
        if l.type = 2 then
          let s := s.modReq o 0 fun q => { q with st := .port }
          .next { s with outbox := s.outbox ++ [x.pbMsg o l.peer l.window (l.pa (pbAddr x.a))] }
        else
          let pa := l.pa (pbAddr x.a)
          if s.evicting (sliceOf l.home (pa / 128)) (pa / 128) then .next (s.defer .phaseBarrierEvent)
          else .next (s.pbAtMem o x l pa)

/-! ## Waits (spec/12 R222) -/

/-- What a wait finds at its barrier. -/
inductive PbSeen where
  /-- The status of phase p now. -/
  | status (v : W64)
  /-- The object does not suit. -/
  | denied
  /-- Its page is not present. -/
  | absent
  /-- Its page's entry is malformed. -/
  | bad (entry : Nat)
  /-- It lives on another device. -/
  | remote (peer win off : Nat)
deriving DecidableEq, Repr

/-- Look at a barrier for a phase. -/
def State.pbLook (s : State) (t : Nat) (w : W64) (p : W32) : PbSeen :=
  let g := gangOf t
  if pbSpace w ≠ 0 then
    let mk := s.pbMember g (s.team t).core w
    let b := s.pbPad mk (pbAddr w)
    if b.usable true ((s.member mk).lineSt (pbAddr w) == 2) then .status (phaseStatus b.d0 p) else .denied
  else
    match s.translate (s.teamCore t) (s.gang g).part (pbAddr w) with
    | .absent => .absent
    | .bad e => .bad e
    | .leaf l =>
      if !l.r then .denied
      else if l.type = 2 then .remote l.peer l.window (l.pa (pbAddr w))
      else
        let pa := l.pa (pbAddr w)
        let b := s.pbMem pa
        if l.type == 0 && b.usable false (s.marked (pa / 64)) then .status (phaseStatus b.d0 p) else .denied

/-- The uncorrectable error that the first look at a barrier in global memory meets, with the state that has counted and
recorded it (spec/14 R242). -/
def State.pbError (s : State) (t : Nat) (w : W64) : Option State :=
  let p := (s.gang (gangOf t)).part
  match s.translate (s.teamCore t) p (pbAddr w) with
  | .leaf l =>
    if pbSpace w ≠ 0 ∨ l.type ≠ 0 then none
    else
      (match s.eccHit (l.pa (pbAddr w)) 16 with
       | (s1, some g) => some (s1.uncorrectable p (some (ctxOf (gangOf t)))
           { FRec.blank with unit := 3, core := s.teamCore t, team := teamNum t, gang := (s.gang (gangOf t)).idx, pc := (s.team t).pc,
                             word := s.word } g).1
       | (_, none) => none)
  | _ => none

/-- What a waiting team sends to the device that homes a pod barrier: the phase that it waits for; `expired` asks for PHASE as it
stands, and takes the wait back (spec/12 R218, R222). The team's key is the message's tag, `req` 1. -/
def waitMsg (t peer win off : Nat) (p : W32) (expired : Bool) : Msg :=
  { code := 0x06, dev := peer, win := win, off := off, data := natBytes 8 p.toNat, marks := [], slot := none, tag := t,
    arg := 3, req := 1, last := expired }

/-- The wait has run out and awaits PHASE from the barrier's home. -/
def Wait.asked (w : Wait) : Bool := decide (2 ^ 33 ≤ w.phase)

/-- DONE of a status. -/
def phaseDone (v : W64) : Bool := v.getLsbD 0

/-- A phase wait returns with its status, which is journalled, and the trap class of its outcome (spec/12 R222, spec/16
R282). -/
def State.phaseReturn (s : State) (sd : BitVec 6) (v : W64) : Out :=
  let s := ((s.note (.scalar s.cur) s.tm.rwc [v]).wS sd v).advance
  .next (if v.getLsbD 3 || (v.getLsbD 0 && v.getLsbD 1) then s.classTrap .waitPoison 0x100
    else if !v.getLsbD 0 then s.classTrap .waitExpired 0 else s)

/-- Begin to wait on a phase: the release message, and with a limit its expiry, are to come. -/
def State.waitPhase (s : State) (w : W64) (p : W32) (limit : Option Nat) : Out :=
  let s := if limit.isSome && s.tm.wait.isNone then s.post .waitLimitExpiry s.cur else s
  (s.post .phaseRelease s.cur).block (.phaseBar w) limit (p.toNat + 1)

/-- PWAIT, and PTRY with its limit (spec/12 R222). The status of a wait whose object has an uncorrectable error is left open:
a free value (DESIGN CHOICE, log entry 70). -/
def phaseWait (sd sa sb : BitVec 6) (limit : Option Nat) (s : State) : Out :=
  let w := s.rS sa
  let p : W32 := (s.rS sb).truncate 32
  s.pbWord w none <|
    match s.recall (.scalar s.cur) s.tm.rwc with
    | some (v, s) => s.phaseReturn sd (v.headD 0)
    | none =>
      let out := match s.tm.wait with
        | some x => x.result
        | none => none
      match out with
      | some v =>
        let asked := match s.tm.wait with
          | some x => x.asked
          | none => false
        if v = deniedStatus then faultAt s kProtection (BitVec.ofNat 64 (pbAddr w))
        else if v ≠ 0 ∨ asked then s.phaseReturn sd v
        else
          match s.pbLook s.cur w p with
          | .status v => s.phaseReturn sd v
          | .remote peer win off =>
            let ask (x : Wait) : Wait := { x with limit := none, phase := p.toNat + 1 + 2 ^ 33, result := none }
            .next ({ s with outbox := s.outbox ++ [waitMsg s.cur peer win off p true] }.modTm fun t => { t with wait := t.wait.map ask })
          | _ => s.phaseReturn sd 0
      | none =>
        if (match s.tm.wait with
          | some x => decide (1 ≤ x.phase)
          | none => false) then stall s
        else
          let s := if pbSpace w = 0 then s.tlbTouch (s.teamCore s.cur) s.tg.part (pbAddr w) else s
          match s.pbError s.cur w with
          | some s => s.fresh.phaseReturn sd (Config.freeWord s.free)
          | none =>
          match s.pbLook s.cur w p with
          | .denied => faultAt s kProtection (BitVec.ofNat 64 (pbAddr w))
          | .status v => if phaseDone v ∨ limit = some 0 then s.phaseReturn sd v else s.waitPhase w p limit
          | .remote peer win off =>
            { s with outbox := s.outbox ++ [waitMsg s.cur peer win off p false] }.waitPhase w p limit
          | .bad e => ((s.unresolvable s.tg.part (some (ctxOf (gangOf s.cur)))
              { FRec.blank with unit := 3, core := s.teamCore s.cur, team := teamNum s.cur, gang := s.tg.idx, pc := s.tm.pc, word := s.word }
              (pbAddr w) 3 e).1).phaseReturn sd unreachedStatus
          | .absent =>
            let r := s.parkStream (gangOf s.cur) (pbAddr w) 0 (.scalar s.cur)
            (match r.2 with
             | none =>
               let s := if limit.isSome && s.tm.wait.isNone then r.1.post .waitLimitExpiry s.cur else r.1
               s.block (.phaseBar w) limit 0
             | some why =>
               ((r.1.unresolvable s.tg.part (some (ctxOf (gangOf s.cur)))
                 { FRec.blank with unit := 3, core := s.teamCore s.cur, team := teamNum s.cur, gang := s.tg.idx, pc := s.tm.pc, word := s.word }
                 (pbAddr w) why 0).1).phaseReturn sd unreachedStatus)

def execPwait (sd sa sb : BitVec 6) (s : State) : Out :=
  s.withRegs [sa, sb] [sd] fun s => phaseWait sd sa sb none s
def execPtry (sd sa sb : BitVec 6) (s : State) : Out :=
  s.withRegs [sa, sb] [sd] fun s => phaseWait sd sa sb (some s.tg.ttryi) s

/-- PHASE_RELEASE (spec/12 R220): the release of a completed phase reaches a waiter; waiters are judged against the
object as it stands. -/
def execPhaseRelease (s : State) : Out :=
  let t := s.arg.x
  match (s.team t).wait with
  | none => .next s
  | some x =>
    match x.obj with
    | .phaseBar w =>
      if x.result.isSome || x.phase = 0 || x.asked then .next s
      else
        (match s.pbLook t w (BitVec.ofNat 32 (x.phase - 1)) with
         | .status v =>
           if phaseDone v then .next (s.modTeam t fun tm => { tm with wait := some { x with result := some v } })
           else .next (s.defer .phaseRelease)
         | _ => .next (s.defer .phaseRelease))
    | _ => .next s

end Sys2Proof.Machine
end

