-- ==== Sys2Proof/Machine/CopyBlock.lean ====
section
/-! DEFINITION. The copy parameter block: its fields, the walk it describes, the checks at acceptance, and the snapshot
read (spec/08 R156 to R164, spec/12 R229 to R231). -/

namespace Sys2Proof.Machine

/-! ## Fields (spec/08 R158) -/

/-- A parameter block: eight doublewords. -/
structure Blk where
  w : List W64
deriving DecidableEq, Repr

/-- `n` bits of doubleword `i` from bit `lo` up. -/
def Blk.f (b : Blk) (i lo n : Nat) : Nat := bits (listGet 0 b.w i).toNat lo n
def Blk.sarg (b : Blk) : Nat := b.f 0 58 6
def Blk.sspace (b : Blk) : Nat := b.f 0 54 4
def Blk.saddr (b : Blk) : Nat := b.f 0 0 54
def Blk.darg (b : Blk) : Nat := b.f 1 58 6
def Blk.dspace (b : Blk) : Nat := b.f 1 54 4
def Blk.daddr (b : Blk) : Nat := b.f 1 0 54
def Blk.trig (b : Blk) : Bool := b.f 2 60 1 == 1
def Blk.credit (b : Blk) : Bool := b.f 2 59 1 == 1
def Blk.dempty (b : Blk) : Bool := b.f 2 58 1 == 1
def Blk.nf (b : Blk) : Bool := b.f 2 57 1 == 1
def Blk.srce (b : Blk) : Bool := b.f 2 56 1 == 1
def Blk.bound (b : Blk) : Bool := b.f 2 55 1 == 1
def Blk.esize (b : Blk) : Nat := 2 ^ b.f 2 48 3
def Blk.n2 (b : Blk) : Nat := b.f 2 32 16
def Blk.n1 (b : Blk) : Nat := b.f 2 16 16
def Blk.n0 (b : Blk) : Nat := b.f 2 0 16
def Blk.window (b : Blk) : Nat := b.f 5 44 12
def Blk.tslot (b : Blk) : Nat := b.f 5 32 12
def Blk.pad (b : Blk) : Nat := b.f 5 24 4
def Blk.rfmt (b : Blk) : Nat := b.f 5 20 4
def Blk.rop (b : Blk) : Nat := b.f 5 16 4
def Blk.peer (b : Blk) : Nat := b.f 5 0 16
/-- The elements of the walk. -/
def Blk.total (b : Blk) : Nat := b.n0 * b.n1 * b.n2

/-- A stride: 32 bits, signed. -/
def Blk.stride (b : Blk) (i lo : Nat) : Int :=
  let v := b.f i lo 32
  if 2 ^ 31 ≤ v then (v : Int) - 2 ^ 32 else v

/-! ## The walk (spec/08 R160) -/

/-- What an element of the walk does. -/
inductive Elem where
  /-- It writes nothing. -/
  | skip
  /-- Zero, or the fill pattern. -/
  | const (zero : Bool)
  /-- The bytes at the source address. -/
  | read
deriving DecidableEq, Repr

/-- The indexes of the element at a position, dimension 0 fastest. -/
def Blk.idx (b : Blk) (p : Nat) : Nat × Nat × Nat := (p % b.n0, p / b.n0 % b.n1, p / (b.n0 * b.n1))

/-- The element at a position. -/
def Blk.elem (b : Blk) (p : Nat) : Elem :=
  let i := b.idx p
  let out := b.bound && (decide (b.f 7 0 16 ≤ i.1) || decide (b.f 7 16 16 ≤ i.2.1) || decide (b.f 7 32 16 ≤ i.2.2))
  if out then (if b.pad = 0 then .skip else .const (b.pad == 1))
  else if b.sspace = 6 then .const false
  else .read

/-- An address of the walk, before it wraps. -/
def Blk.walk (b : Blk) (base i lo1 lo2 : Nat) (p : Nat × Nat × Nat) : Int :=
  (base : Int) + p.1 * b.esize + p.2.1 * b.stride i lo1 + p.2.2 * b.stride i lo2

/-- The source address of an element, modulo 2^64. -/
def Blk.src (b : Blk) (p : Nat) : Nat := (b.walk b.saddr 3 0 32 (b.idx p) % 2 ^ 64).toNat
/-- The destination address of an element; in a FIFO, its place in the command's stream. -/
def Blk.dst (b : Blk) (p : Nat) : Nat :=
  if b.dspace = 3 then p * b.esize else (b.walk b.daddr 4 0 32 (b.idx p) % 2 ^ 64).toNat

/-- `n` bytes of the fill pattern, low byte first, in elements of the block's size. -/
def Blk.fill (b : Blk) (n : Nat) : List Byte :=
  (List.range n).map fun i => BitVec.ofNat 8 (b.f 7 48 16 / 2 ^ (8 * (i % b.esize % 2)))

/-- Two elements that follow one another in one segment: of one kind, at bytes that follow in one 128-byte line of the
destination, read from bytes that follow in one page of the source (spec/08 R154; the cut below 128 bytes: DEDUCED, log entry 14).
-/
def Blk.joins (b : Blk) (p : Nat) : Bool :=
  b.rop == 0 && b.elem p == b.elem (p + 1) && b.dst (p + 1) == b.dst p + b.esize && b.dst (p + 1) % 128 != 0
    && (b.elem p != .read || (b.src (p + 1) == b.src p + b.esize && b.src (p + 1) % 4096 != 0))

/-- The elements of the segment that begins at a position. -/
def Blk.run (b : Blk) : Nat → Nat → Nat
  | 0, _ => 1
  | fuel + 1, p => if p + 1 < b.total ∧ b.joins p = true then 1 + b.run fuel (p + 1) else 1

/-- Some element from a position on writes to a destination line. -/
def Blk.reaches (b : Blk) (line p : Nat) : Bool :=
  (List.range (b.total - p)).any fun i => b.elem (p + i) != .skip && b.dst (p + i) / 128 == line

/-- The destination lines that the command writes. -/
def Blk.dstLines (b : Blk) : List Nat :=
  ((List.range b.total).filterMap fun p => if b.elem p = .skip then none else some (b.dst p / 128)).eraseDups
/-- The source lines that the command reads. -/
def Blk.srcLines (b : Blk) : List Nat :=
  ((List.range b.total).filterMap fun p => if b.elem p = .read then some (b.src p / 128) else none).eraseDups

/-! ## Operand FIFOs (spec/01 R22, spec/08 R162) -/

/-- Bytes of an element of a FIFO. -/
def Fifo.elemBytes (f : Fifo) : Nat := if f.fmt.toNat < 2 then 2 else 1
/-- Bytes of an entry. -/
def Fifo.entryBytes (f : Fifo) : Nat := if f.fmt.toNat < 2 then 512 else if f.fmt = 7 then 128 else 256
/-- The FIFO of a member core. -/
def Member.fifo (m : Member) (n : Nat) : Fifo := m.fifos.get .blank n
/-- The member core with a FIFO changed. -/
def Member.setFifo (m : Member) (n : Nat) (f : Fifo) : Member := { m with fifos := m.fifos.set n f }

/-! ## Checks at acceptance (spec/08 R159 to R164, spec/12 R229, R230) -/

/-- A fault of an acceptance: its kind, its reason, the address it names. -/
abbrev BFault := Nat × Reason × Nat

/-- The member core that a scratchpad space names, if it is one of the gang. -/
def State.padMember (s : State) (x : Op) (space arg : Nat) : Option Nat :=
  if space = 1 then some x.member
  else
    let m := (s.gang x.gang).memberAt arg
    if arg < 4 ∧ m < (s.gang x.gang).cores.length then some (memberKey x.gang m) else none

/-- A space admits its argument and address (spec/08 R159). -/
def State.spaceArg (s : State) (x : Op) (space arg addr : Nat) : Bool :=
  match space with
  | 2 => (s.padMember x 2 arg).isSome
  | 3 => decide (arg < 8) && ((s.member x.member).fifo arg).declared && addr == 0
  | 6 => arg == 0 && addr == 0
  | _ => arg == 0

/-- A reduction's format with the bytes of its elements (spec/08 R161). -/
def reduceBytes (fmt : Nat) : Option Nat :=
  match fmt with
  | 0 => some 4
  | 1 => some 2
  | 2 => some 2
  | 5 => some 4
  | 6 => some 4
  | _ => none

/-- Reserved bits of a block. -/
def Blk.reservedBits (b : Blk) : Bool :=
  b.f 2 61 3 != 0 || b.f 2 51 4 != 0 || b.f 5 56 8 != 0 || b.f 5 28 4 != 0 || b.f 6 58 6 != 0
/-- Reserved codes of a block. -/
def Blk.reservedCodes (b : Blk) : Bool :=
  decide (6 < b.sspace) || decide (6 < b.dspace) || decide (4 < b.f 2 48 3) || decide (2 < b.pad) || decide (3 < b.rop)
    || decide (1 < b.f 6 54 4)

/-- A FIFO destination breaks a rule of spec/08 R162. -/
def State.fifoBad (s : State) (x : Op) (b : Blk) : Bool :=
  let f := (s.member x.member).fifo b.darg
  b.esize != f.elemBytes || b.total * b.esize % f.entryBytes != 0 || listGet 0 b.w 4 != 0 || b.rop != 0 || (b.bound && b.pad == 0)

/-- A direction, argument or constraint that is not admitted (spec/08 R159 to R163, spec/12 R229, R230). -/
def State.blkConstraint (s : State) (x : Op) (b : Blk) : Bool :=
  let far := b.sspace == 4 || b.dspace == 4
  [ b.sspace == 3, b.sspace == 5, b.dspace == 6,
    !s.spaceArg x b.sspace b.sarg b.saddr, !s.spaceArg x b.dspace b.darg b.daddr,
    !b.bound && b.pad != 0, !b.credit && listGet 0 b.w 6 != 0,
    far && decide (1024 ≤ b.peer), !far && b.window != 0, b.trig && !([0, 4, 5].contains b.dspace),
    b.rop != 0 && (reduceBytes b.rfmt != some b.esize || !([0, 1, 2, 4].contains b.dspace)),
    b.dspace == 3 && s.fifoBad x b,
    b.dspace == 5 && (!([0, 1, 2, 6].contains b.sspace) || b.credit || b.rop != 0 || decide (4096 ≤ b.peer)) ].any id

/-- The corners of the box of elements of these counts. -/
def corners (n0 n1 n2 : Nat) : List (Nat × Nat × Nat) :=
  if n0 = 0 ∨ n1 = 0 ∨ n2 = 0 then []
  else [0, n0 - 1].flatMap fun i => [0, n1 - 1].flatMap fun j => [0, n2 - 1].map fun k => (i, j, k)

/-- The counts of the elements that read, or, with PAD = 0, that write. -/
def Blk.inner (b : Blk) : Nat × Nat × Nat :=
  if b.bound then (min b.n0 (b.f 7 0 16), min b.n1 (b.f 7 16 16), min b.n2 (b.f 7 32 16)) else (b.n0, b.n1, b.n2)

/-- The first corner of a scratchpad walk that lies beyond the partition; its first address does not, with no element to move
either. -/
def State.padBeyond (s : State) (x : Op) (b : Blk) (space : Nat) (n : Nat × Nat × Nat) (at_ : Nat × Nat × Nat → Int) : Option Nat :=
  if (space = 1 ∨ space = 2) ∧ s.padSize x.gang ≤ (at_ (0, 0, 0)).toNat then some (at_ (0, 0, 0)).toNat
  else if space = 1 ∨ space = 2 then
    match (corners n.1 n.2.1 n.2.2).find? fun c => decide (at_ c < 0) || decide ((s.padSize x.gang : Int) < at_ c + b.esize) with
    | some c => some (at_ c % 2 ^ 64).toNat
    | none => none
  else none

/-- The alignment of a block's addresses (spec/08 R164, spec/12 R231). -/
def Blk.misaligned (b : Blk) : Option Nat :=
  let e := b.esize
  if b.saddr % e ≠ 0 ∨ b.f 3 0 32 % e ≠ 0 ∨ b.f 3 32 32 % e ≠ 0 then some b.saddr
  else if b.daddr % e ≠ 0 ∨ b.f 4 0 32 % e ≠ 0 ∨ b.f 4 32 32 % e ≠ 0 then some b.daddr
  else if b.f 6 0 54 % 16 ≠ 0 then some (b.f 6 0 54)
  else if b.dspace = 5 ∧ (listGet 0 b.w 7).toNat % 64 ≠ 0 then some (listGet 0 b.w 7).toNat
  else none

/-- A group that the partition may name, with a valid entry (spec/18 R315). -/
def State.groupOk (s : State) (x : Op) (n : Nat) : Bool :=
  (match s.parts.find? (s.gang x.gang).part with
   | some p => decide (p.cfg.grp0 ≤ n) && decide (n ≤ p.cfg.grp1)
   | none => false) && (s.groupTab.get (0, 0) n).2.getLsbD 24

/-- The checks of a snapshot, in the order of the table of spec/08 R164. -/
def State.checkBlk (s : State) (x : Op) (b : Blk) : Option BFault :=
  let wr := if b.pad = 0 then b.inner else (b.n0, b.n1, b.n2)
  if b.reservedBits then some (kIllegal, .reserved, 0)
  else if b.reservedCodes then some (kIllegal, .value, 0)
  else if s.blkConstraint x b then some (kIllegal, .value, 0)
  else
    match b.misaligned with
    | some a => some (kMisaligned, .state, a)
    | none =>
      match s.padBeyond x b b.sspace b.inner (b.walk b.saddr 3 0 32) with
      | some a => some (kOutOfPart, .state, a)
      | none =>
        match s.padBeyond x b b.dspace wr (b.walk b.daddr 4 0 32) with
        | some a => some (kOutOfPart, .state, a)
        | none =>
          if b.credit ∧ b.f 6 54 4 = 1 ∧ s.padSize x.gang ≤ b.f 6 0 54 then some (kOutOfPart, .state, b.f 6 0 54)
          else if b.dspace = 5 ∧ !s.groupOk x b.peer then some (kProtection, .state, b.peer)
          else none

/-- A fatal fault of an operation at its acceptance: it has no effect, its token stays PENDING, and the record holds the
word, its PC and the queue (spec/08 R164). -/
def State.acceptFault (s : State) (x : Op) (f : BFault) : State :=
  s.fatal (ctxOf x.gang) { s.opRec x x.unit with
    kind := f.1, reason := if f.1 = kIllegal then f.2.1.code else 0, addr := BitVec.ofNat 64 f.2.2, snap := x.snap }

/-! ## What an engine reads from outside its gang (spec/24 R367, R369) -/

/-- Journal what an engine operation reads under a key. -/
def State.noteEngine (s : State) (x : Op) (key : Nat) (v : List W64) : State :=
  s.note (.engines x.member) x.rwc (BitVec.ofNat 64 x.team :: BitVec.ofNat 64 key :: v)

/-- What the journal gives an engine operation under a key, in a replay. -/
def State.recallEngine (s : State) (x : Op) (key : Nat) : Option (List W64 × State) :=
  match s.recallBy (.engines x.member) x.rwc fun v => v.take 2 == [BitVec.ofNat 64 x.team, BitVec.ofNat 64 key] with
  | some (v, s) => some (v.drop 2, s)
  | none => none

/-! ## The snapshot (spec/08 R156, R157) -/

/-- How the read of a block, table or descriptor ends. -/
inductive Snap where
  | words (l : List W64) (s : State)
  /-- It waits: parked on a translation fault. -/
  | wait (s : State)
  /-- It failed, with the cause and origin that the token takes. -/
  | bad (cause : BitVec 8) (origin : W64) (s : State)

/-- The unit that the origin of a failed snapshot names: the copy engine for a copy-group or collective word (spec/11
R206). -/
def Op.snapUnit (x : Op) : Nat := if x.unit = 5 then 1 else x.unit

/-- The request number of an operation's snapshot read. -/
def snapId : Nat := 2 ^ 62

/-- Doublewords of bytes. -/
def bytesWords : List Byte → List W64
  | a :: b :: c :: d :: e :: f :: g :: h :: l => BitVec.ofNat 64 (bytesNat [a, b, c, d, e, f, g, h]) :: bytesWords l
  | _ => []

/-- The read of `n` bytes in a scratchpad or global memory, as spec/08 R156 gives it. Memory is read as it stands at this moment, and a
page of TYPE 1 or 2, one without R, and an address beyond 2^54 give the cause TRANSLATION without a record (DESIGN CHOICE, log entry
54). -/
def State.snapNow (s : State) (o : Nat) (x : Op) (space addr n : Nat) : Snap :=
  if space = 1 then
    let m := s.member x.member
    if m.lineSt addr = 2 then .bad cPoisonData (s.opOrigin x x.snapUnit 0 0) s
    else .words (bytesWords (m.bytes addr n)) s
  else if 2 ^ 54 ≤ addr then .bad cTranslation (s.opOrigin x x.snapUnit 0 0) s
  else
    let core := s.opCore x
    let p := (s.gang x.gang).part
    match s.translate core p addr with
    | .absent => .wait ((s.modOp o fun x => { x with reqs := [oneReq addr n [] |> fun q => { q with id := snapId }] }).reqPark o snapId x addr 4)
    | .bad e =>
      let r := s.unresolvable p (some (ctxOf x.gang)) (s.opRec x x.snapUnit) addr 3 e
      .bad cTranslation (r.1.opOrigin x x.snapUnit 0 r.2.toNat) r.1
    | .leaf l =>
      if !l.r || l.type != 0 then .bad cTranslation (s.opOrigin x x.snapUnit 0 0) s
      else
        let pa := l.pa addr
        let h := ((s.tlbFill core p addr l).watchHome x l pa n 0).eccHit pa n
        match h.2 with
        | some g =>
          let r := h.1.uncorrectable p (some (ctxOf x.gang)) (s.opRec x x.snapUnit) g
          .bad cMemory (r.1.opOrigin x x.snapUnit 0 r.2.toNat) r.1
        | none =>
          if h.1.markedRange pa n then .bad cPoisonData (h.1.opOrigin x x.snapUnit 0 0) h.1
          else .words (bytesWords (h.1.memBytes pa n)) h.1

/-- The same, with the answer of a fault that it parked on, and with the journal. -/
def State.snapRead (s : State) (o : Nat) (x : Op) (space addr n : Nat) : Snap :=
  let foreign := decide (space ≠ 1) || (s.member x.member).foreign addr 5
  let back := if foreign then s.recallEngine x snapId else none
  match back with
  | some (v, s) => if v.headD 0 = 0 then .words (v.drop 2) s else .bad ((v.headD 0).truncate 8) (v.getD 1 0) s
  | none =>
    if s.replaying x.gang && foreign then .wait (s.post2 x.access o snapId)
    else
      let answer := match x.reqs.find? fun q => q.id == snapId with
        | some q => q.cause.toNat
        | none => 0
      let out := if 0x80 < answer then
          let r := s.unresolvable (s.gang x.gang).part (some (ctxOf x.gang)) (s.opRec x x.snapUnit) addr (answer - 0x80) 0
          Snap.bad cTranslation (r.1.opOrigin x x.snapUnit 0 r.2.toNat) r.1
        else s.snapNow o x space addr n
      if !foreign then out
      else
        match out with
        | .words l s => .words l (s.noteEngine x snapId (0 :: 0 :: l))
        | .bad c g s => .bad c g (s.noteEngine x snapId [c.zeroExtend 64, g])
        | .wait s => .wait s

/-- The key of a block in a copy engine's cache. -/
def blockKey (w : W64) : Nat := bits w.toNat 54 4 * 2 ^ 54 + bits w.toNat 0 54

/-- A copy's block through the engine's cache of 16 blocks (spec/08 R157). -/
def State.snapBlock (s : State) (o : Nat) (x : Op) (w : W64) : Snap :=
  let key := blockKey w
  let keep (s : State) (l : List W64) : State :=
    s.modMember x.member fun m => { m with bcache := ((key, l) :: m.bcache.filter fun p => p.1 != key).take 16 }
  match (s.member x.member).bcache.find? fun p => p.1 == key with
  | some (_, l) => .words l (keep s l)
  | none =>
    match s.snapRead o x (bits w.toNat 54 4) (bits w.toNat 0 54) 64 with
    | .words l s => .words l (keep s l)
    | r => r

/-! ## Issue (spec/08 R154 to R157, spec/06 R118) -/

/-- The checks of an address word at issue, with the role of the team, in the order of the reasons (spec/08 R156,
spec/06 R118). -/
def State.blockWord (s : State) (w : W64) (align n : Nat) (k : Out) : Out :=
  let a := bits w.toNat 0 54
  if bits w.toNat 58 6 ≠ 0 then illegal s .reserved
  else if 1 < bits w.toNat 54 4 then illegal s .value
  else if !s.tm.copy then illegal s .state
  else if a % align ≠ 0 then faultAt s kMisaligned (BitVec.ofNat 64 a)
  else if bits w.toNat 54 4 = 1 ∧ s.padSize (gangOf s.cur) < a + n then faultAt s kOutOfPart (BitVec.ofNat 64 a)
  else k

/-- CPY (spec/08 R154, R155): into the queue, or the stream stalls while the queue holds 16 commands. A PENDING token is TOKEN_BUSY
before a full queue stalls (DEDUCED, log entry 31). -/
def execCpy (td : BitVec 5) (sp sa : BitVec 6) (q : BitVec 2) (s : State) : Out :=
  s.withRegs [sp, sa] [] fun s =>
    let w := s.rS sa
    s.blockWord w 64 64 <|
      if (s.tm.getT td.toNat).st = .pending then .next (s.scalarFault kTokenBusy .state 0)
      else if 16 ≤ ((s.member (s.memberOf s.cur)).queues.get [] q.toNat).length then s.block (.copyQueue q.toNat) none 0
      else
        let o := { s.scalarOp .copy td (s.rS sp) w 0 with queue := q.toNat, after := s.fenced s.cur ++ s.covered s.cur }
        let n := s.nextOp
        Out.thenDo (s.issue o) fun s =>
          (s.modMember (s.memberOf s.cur) fun m => { m with queues := m.queues.set q.toNat (m.queues.get [] q.toNat ++ [n]) }).post
            .copyStart n

/-- CBLD (spec/08 R166). -/
def execCbld (td : BitVec 5) (sp sa : BitVec 6) (f : BitVec 3) (s : State) : Out :=
  s.withRegs [sp, sa] [] fun s =>
    let w := s.rS sa
    s.blockWord w 32 32 <|
      s.issue { s.scalarOp (.cbld f.toNat) td (s.rS sp) w 0 with after := s.fenced s.cur ++ s.covered s.cur }

/-- CPBI (spec/08 R157): S0, or a word of 0, names every block. -/
def execCpbi (td : BitVec 5) (sp sa : BitVec 6) (s : State) : Out :=
  s.withRegs [sp, sa] [] fun s =>
    let w := s.rS sa
    s.blockWord w 64 64 <| s.issue (s.scalarOp .cpbi td (s.rS sp) w 0)

end Sys2Proof.Machine
end

