-- ==== Sys2Proof/Machine/Copy.lean ====
section
/-! DEFINITION. The copy engine: acceptance, segments, line states, credits, attempts and completion (spec/08 R154 to
R164, spec/11 R209 to R215, spec/12 R229 to R232, spec/13 R236). -/

namespace Sys2Proof.Machine

/-- The block of an operation. -/
def Op.blk (x : Op) : Blk := { w := x.snap }
/-- An outbound epilogue runs its segments once, in the form of a third attempt (spec/08 R176). -/
def Op.lastTry (x : Op) : Bool := decide (3 ≤ x.attempt)
/-- The number of the segment that begins at a position, in the attempt under way. -/
def Op.segId (x : Op) (p : Nat) : Nat := x.attempt * 2 ^ 48 + p
/-- The position of a segment. -/
def segPos (id : Nat) : Nat := id % 2 ^ 48
/-- The origin of an event at the command, with its attempt (spec/11 R206). -/
def State.segOrigin (s : State) (x : Op) (errseq : Nat) : W64 :=
  s.opOrigin x x.unit (if x.kind = .copy then x.attempt else 0) errseq
/-- What names the operation in a record of its attempt. -/
def State.segRec (s : State) (x : Op) : FRec :=
  { s.opRec x x.unit with attempts := if x.kind = .copy then x.attempt else 0, queue := if x.kind = .copy then x.queue else 0 }

/-! ## The acknowledgement record of a multicast (spec/12 R230, R231) -/

/-- The devices of a group's bitmap (spec/18 R315). -/
def State.groupMembers (s : State) (n : Nat) : List Nat :=
  let at_ := bits (s.groupTab.get (0, 0) n).1.toNat 0 54
  (List.range 1024).filter fun d => (s.memByte (at_ + d / 8)).getLsbD (d % 8)

/-- The acknowledgement record without its BITMAP: positive and negative members, the group, the members and the first
four negatives with their causes. -/
def ackWords (group members pos : Nat) (neg : List (Nat × Nat)) : List W64 :=
  let slot (i : Nat) : W64 := match neg[i]? with
    | some (d, c) => BitVec.ofNat 64 (c * 2 ^ 16 + d)
    | none => 0xFFFF
  [BitVec.ofNat 64 (neg.length * 2 ^ 32 + pos), BitVec.ofNat 64 (group * 2 ^ 32 + members), slot 0, slot 1, slot 2, slot 3]

/-- The bitmap of negative members. -/
def negBitmap (neg : List (Nat × Nat)) : List Byte :=
  natBytes 128 (neg.foldl (fun n p => n ||| 2 ^ p.1) 0)

/-- A fatal fault of a segment: it is not performed (spec/04 R108, spec/16 R281). -/
def State.segFatal (s : State) (o id : Nat) (x : Op) (kind addr : Nat) : State :=
  (s.modReq o id fun q => { q with st := .held 9 }).fatal (ctxOf x.gang) { s.segRec x with kind := kind, addr := BitVec.ofNat 64 addr }

/-- A write of the engine beside its segments, of the record or bitmap of a multicast: a page that is not there parks it, one that
does not allow it is a protection fault, and an unresolvable fault poisons the token (spec/12 R231, spec/14 R254, R258). -/
def State.sideServe (s : State) (o : Nat) (x : Op) (q : Req) : State :=
  let p := (s.gang x.gang).part
  let lost (s : State) (why entry : Nat) : State :=
    let r := s.unresolvable p (some (ctxOf x.gang)) (s.segRec x) q.dst why entry
    let origin := r.1.segOrigin x r.2.toNat
    ((r.1.modReq o q.id fun q => { q with st := .done }).modOp o fun y => y.addCause cTranslation origin).post .copyComplete o
  if 0x80 < q.cause.toNat then lost s (q.cause.toNat - 0x80) 0
  else if 2 ^ 54 ≤ q.dst then s.segFatal o q.id x kProtection q.dst
  else
    match s.translate (s.opCore x) p q.dst with
    | .absent => s.reqPark o q.id x q.dst 5
    | .bad e => lost s 3 e
    | .leaf l =>
      if !l.w || 2 ≤ l.type || l.isSealed then s.segFatal o q.id x kProtection q.dst
      else
        let s := s.tlbFill (s.opCore x) p q.dst l
        let pa := l.pa q.dst
        if ((s.dir (sliceOf l.home (pa / 128)) (pa / 128)).map fun d => d.evict.isSome) = some true then s.post2 .copySegment o q.id
        else s.homeReq o q.id l pa q.data (fun _ => false) true

/-- Begin such a write; it waits in a request of its own. -/
def State.sideWrite (s : State) (o id va : Nat) (data : List Byte) : State :=
  let q : Req := { oneReq va data.length data with id := id, dst := va, stage := 3 }
  let s := s.modOp o fun x => { x with reqs := x.reqs ++ [q] }
  match s.ops.find? o with
  | some x => s.sideServe o x q
  | none => s

/-- The start of a multicast: its members and its group's entry, which is kept in `aop` (spec/12 R230), the
BITMAP address that is read, and the record as it stands then; a fault of either parks the command. -/
def State.mcastStart (s : State) (o : Nat) (x : Op) : Snap :=
  let va := (listGet 0 x.snap 7).toNat
  let members := s.groupMembers x.blk.peer
  let entry := (s.groupTab.get (0, 0) x.blk.peer).2.toNat
  let write (s : State) (bitmap : Nat) : Snap :=
    let s := s.modOp o fun x => { x with list := members, aop := entry, b := BitVec.ofNat 64 bitmap, reqs := [] }
    let s := s.sideWrite o (snapId + 1) va (wordBytes (ackWords x.blk.peer members.length 0 []))
    .words [] (if bitmap = 0 then s else s.sideWrite o (snapId + 2) bitmap (negBitmap []))
  let h := s.eccHit (bits (s.groupTab.get (0, 0) x.blk.peer).1.toNat 0 54) 128
  match h.2 with
  | some g =>
    let r := h.1.uncorrectable (s.gang x.gang).part (some (ctxOf x.gang)) (h.1.segRec x) g
    .bad cMemory (r.1.segOrigin x r.2.toNat) r.1
  | none =>
  let s := h.1
  match s.snapRead o x 0 va 64 with
  | .words l s =>
    let bitmap := (listGet 0 l 6).toNat
    if bitmap = 0 then write s 0
    else if bitmap % 128 ≠ 0 then .words [1] (s.acceptFault x (kMisaligned, .state, bitmap))
    else
      match s.snapRead o x 0 bitmap 128 with
      | .words _ s => write s bitmap
      | r => r
  | r => r

/-! ## Acceptance (spec/08 R154, R156, R162, R164) -/

/-- Set a scratchpad line's state. -/
def State.setLineSt (s : State) (mk line : Nat) (v : BitVec 2) : State := s.modMember mk fun m => m.setLine (line * 128) v

/-- The FIFO of a command's destination. -/
def State.dstFifo (s : State) (x : Op) : Fifo := (s.member x.member).fifo x.blk.darg

/-- Start a command whose snapshot has passed its checks: FIFO positions are reserved, DEMPTY empties its lines, and its
first segment follows. With a POISONED precondition nothing of it runs (spec/11 R215). -/
def State.acceptCopy (s : State) (o : Nat) (x : Op) : State :=
  let b := x.blk
  let f := s.dstFifo x
  let n := if b.dspace = 3 then b.total * b.esize / f.entryBytes else 0
  let s := if b.dspace = 3 then
      s.modMember x.member fun m => m.setFifo b.darg { f with reserved := f.reserved + BitVec.ofNat 32 n }
    else s
  let runs := x.pois.isNone
  let s := if b.dempty && runs && (b.dspace == 1 || b.dspace == 2) then
      match s.padMember x b.dspace b.darg with
      | some k => s.each b.dstLines fun s line => s.setLineSt k line 0
      | none => s
    else s
  let s := s.modOp o fun x => { x with
    started := true, pos := 0, attempt := 1
    list := if b.dspace = 3 then [f.reserved.toNat, n] else x.list
    cause := if runs then 0 else cInherited
    origin := match x.pois with
      | some p => p.2
      | none => 0
    reqs := x.reqs.filter fun q => q.stage == 3 }
  s.post2 .copySegment o (2 ^ 48)

/-- The head of its copy queue. -/
def State.queueHead (s : State) (o : Nat) (x : Op) : Bool := ((s.member x.member).queues.get [] x.queue).head? == some o

/-- COPY_START (spec/08 R154): the head of a queue whose preconditions are met reads its snapshot, is checked and is
accepted. -/
def execCopyStart (s : State) : Out :=
  let o := s.arg.x
  match s.ops.find? o with
  | none => .next s
  | some x =>
    if x.kind != .copy || x.started || !s.queueHead o x then .next s
    else if (x.reqs.any fun q => q.id == snapId && q.st != .ready) then .next s
    else if !s.opFresh x then .next (s.defer .copyStart)
    else if x.waiting != 0 || !s.allOver x.after then .next (s.defer .copyStart)
    else
      let fail (c : BitVec 8) (g : W64) (s : State) : State :=
        ((s.modOp o fun x => { x with cause := c, origin := g, started := true, finished := true, reqs := [] })).post .copyComplete o
      match s.snapBlock o x x.a with
      | .wait s => .next s
      | .bad c g s => .next (match x.pois with
          | some p => fail cInherited p.2 s
          | none => fail c g s)
      | .words l s =>
        let x' := { x with snap := l }
        match s.checkBlk x' x'.blk with
        | some f => .next ((s.modOp o fun _ => { x' with started := true, reqs := [] }).acceptFault x' f)
        | none =>
          let s := s.modOp o fun _ => x'
          if x'.blk.dspace = 5 ∧ x.pois.isNone then
            match s.mcastStart o x' with
            | .wait s => .next s
            | .bad c g s => .next (fail c g s)
            | .words [] s => .next (match s.ops.find? o with
                | some x => s.acceptCopy o x
                | none => s)
            | .words _ s => .next (s.modOp o fun _ => { x' with started := true, reqs := [] })
          else .next (s.acceptCopy o x')

/-! ## Reading a segment's source (spec/08 R160, spec/11 R211, R215) -/

/-- How the read of a segment ends. -/
inductive Rd where
  /-- Its bytes, with a mark for each that carries poison. -/
  | ok (data : List Byte) (pois : List Bool) (s : State)
  /-- It is to be tried again. -/
  | again (s : State)
  /-- It goes on with an answer: of a fault, of a port, or of a debug session; or the context has stopped. -/
  | held (s : State)
  /-- The segment fails, with the cause and its origin. -/
  | fail (cause : BitVec 8) (origin : W64) (s : State)

/-- Marks of `n` bytes from their granules. -/
def State.byteMarks (s : State) (pa n : Nat) : List Bool := (List.range n).map fun i => s.marked ((pa + i) / 64)

/-- A message of an operation to a peer (spec/12 R229). -/
def segMsg (o id peer win off n : Nat) : Msg :=
  { code := 0, dev := peer, win := win, off := off, data := [], marks := [], slot := none, tag := o, arg := 1, req := id, len := n }

/-- Hand a message to a fabric port: the request waits for its answer. -/
def State.toPort (s : State) (o id : Nat) (m : Msg) : State :=
  { s.modReq o id (fun q => { q with st := .port }) with outbox := s.outbox ++ [m] }

/-- The message with which a segment was handed to the fabric, the latest one. -/
def State.sent (s : State) (o id : Nat) : Option Msg :=
  s.outbox.reverse.find? fun m => m.tag == o && m.req == id && (m.code == 0 || m.code == 3 || m.code == 4 || m.code == 6)
    && !(m.code == 0 && (m.arg == 4 || m.arg == 5))

/-! ## Sealed ranges of peers (spec/12 R234) -/

/-- What the device keeps of a place in a peer's sealed range under a version, if it keeps all of `n` bytes there. -/
def State.sealedAt (s : State) (p : Nat) (l : Leaf) (off n : Nat) : Option (List Byte) :=
  (s.sealedPeer.find? fun c => c.part == p && c.dev == l.peer && c.win == l.window && c.version == l.version && decide (c.off ≤ off)
    && decide (off + n ≤ c.off + c.data.length)).map fun c => (c.data.drop (off - c.off)).take n

/-- A copy's read of a peer's sealed range has been answered: its bytes are kept with the version that it named, unless poison came
with them. -/
def State.keepSealed (s : State) (x : Op) (o id : Nat) (data : List Byte) (marks : List Bool) : State :=
  match s.sent o id with
  | some m =>
    if m.code != 4 || marks.any (fun b => b) then s
    else
      let c : SealedCopy := { part := (s.gang x.gang).part, dev := m.dev, win := m.win, off := m.off, version := m.arg, data := data }
      { s with sealedPeer := c :: s.sealedPeer.filter fun d => !(d.part == c.part && d.dev == c.dev && d.win == c.win && d.off == c.off) }
  | none => s

/-- The member of the gang that an engine of core `m` reaches, as a requester class with its tag (spec/06 R124). -/
def engineClass (x : Op) (mk : Nat) : Cls × Nat :=
  if x.kind = .mepi then (if mk = x.member then (.matrix, Cls.matrix.tag 0) else (.quad, Cls.quad.tag (x.member % 4)))
  else if mk = x.member then (.copy, Cls.copy.tag 0) else (.quad, Cls.quad.tag (x.member % 4))

/-- A scratchpad watchpoint holds a segment. -/
def State.segHold (s : State) (o : Nat) (x : Op) (q : Req) (mk addr n kind : Nat) : Option State :=
  let c := engineClass x mk
  match (s.member mk).spHit addr n kind c.1 (if q.count = 0 then none else some (q.count - 1)) with
  | none => none
  | some wp =>
    let s := s.modReq o q.id fun q => { q with st := .held wp }
    some (s.spStop mk (s.segRec x) addr 0 kind c.1 wp)

/-- The words that journal what a segment read: its bytes and its marks. -/
def segWords (data : List Byte) (pois : List Bool) : List W64 :=
  let d := bytesNat data
  let m := ((List.range 128).filter fun i => listGet false pois i).foldl (fun a i => a + 2 ^ i) 0
  (List.range 16).map (fun i => BitVec.ofNat 64 (d / 2 ^ (64 * i))) ++ [BitVec.ofNat 64 m, BitVec.ofNat 64 (m / 2 ^ 64)]

/-- The key under which what a segment reads is journalled: its position, and whether its source or its destination. -/
def Req.key (q : Req) : Nat := segPos q.id * 4 + q.stage

/-- Read `n` bytes of a scratchpad as an engine does: an EMPTY line is waited for unless `nf`; POISONED lines poison the
bytes that they hold. -/
def State.readPad (s : State) (o : Nat) (x : Op) (q : Req) (mk addr n : Nat) (nf : Bool) : Rd :=
  let m := s.member mk
  let c := engineClass x mk
  let other := m.foreign addr c.2 || m.foreign (addr + n - 1) c.2
  let line (i : Nat) : BitVec 2 := m.lineSt (addr + i)
  match (if other then s.recallEngine x q.key else none) with
  | some (v, s) =>
    let all := v.foldr (fun (w : W64) n => w.toNat + 2 ^ 64 * n) 0
    .ok (natBytes n all) ((List.range n).map fun i => (all / 2 ^ (1024 + i)) % 2 == 1) s
  | none =>
    if !nf && ((line 0 == 0) || line (n - 1) == 0) then .again s
    else
      match s.segHold o x q mk addr n 0 with
      | some s => .held s
      | none =>
        let data := m.bytes addr n
        let pois := (List.range n).map fun i => line i == 2
        .ok data pois (if other then s.noteEngine x q.key (segWords data pois) else s)

/-- Read `n` bytes at a virtual address as an engine does (spec/14 R242, R254, spec/11 R211). `access` is the code of a
fault of it. An address at or beyond 2^54 is a protection fault at its segment (spec/08 R159; DESIGN CHOICE, log entry 49). Of
a peer's sealed range the device may have kept the bytes: whether it serves them is left open (spec/12 R234, log entry 51). -/
def State.readMem (s : State) (o : Nat) (x : Op) (q : Req) (va n access : Nat) : Rd :=
  let p := (s.gang x.gang).part
  if 2 ^ 54 ≤ va then .held (s.segFatal o q.id x kProtection va)
  else
    match s.translate (s.opCore x) p va with
    | .absent => .held (s.reqPark o q.id x va access)
    | .bad e =>
      let r := s.unresolvable p (some (ctxOf x.gang)) (s.segRec x) va 3 e
      .fail cTranslation (r.1.segOrigin x r.2.toNat) r.1
    | .leaf l =>
      if !l.r then .held (s.segFatal o q.id x kProtection va)
      else
        let s := s.tlbFill (s.opCore x) p va l
        if l.type = 2 then
          let m := segMsg o q.id l.peer l.window (l.pa va) n
          if !l.isSealed then .held (s.toPort o q.id m)
          else
            match (s.sealedAt p l (l.pa va) n).filter fun _ => Config.pick s.free with
            | some data => .ok data (List.replicate n false) s.fresh
            | none => .held (s.fresh.toPort o q.id { m with code := 4, arg := l.version })
        else
          let pa := l.pa va
          let h := (s.watchHome x l pa n 0).eccHit pa n
          match h.2 with
          | some g =>
            let r := h.1.uncorrectable p (some (ctxOf x.gang)) (h.1.segRec x) g
            .fail cMemory (r.1.segOrigin x r.2.toNat) r.1
          | none => .ok (h.1.memBytes pa n) (h.1.byteMarks pa n) h.1

/-- The read of global memory with the journal of a recording, or its replay. -/
def State.readOut (s : State) (o : Nat) (x : Op) (q : Req) (va n access : Nat) : Rd :=
  let key := q.key
  match s.recallEngine x key with
  | some (v, s) =>
    if v.length < 3 then .fail ((v.headD 0).truncate 8) (v.getD 1 0) s
    else
      let all := v.foldr (fun (w : W64) k => w.toNat + 2 ^ 64 * k) 0
      .ok (natBytes n all) ((List.range n).map fun i => all / 2 ^ (1024 + i) % 2 == 1) s
  | none =>
    if s.replaying x.gang then .again s
    else
      match s.readMem o x q va n access with
      | .ok d m s => .ok d m (s.noteEngine x key (segWords d m))
      | .fail c g s => .fail c g (s.noteEngine x key [c.zeroExtend 64, g])
      | r => r

/-- Read the source of a segment. -/
def State.readSeg (s : State) (o : Nat) (x : Op) (q : Req) : Rd :=
  let b := x.blk
  let clean (l : List Byte) : Rd := .ok l (List.replicate q.n false) s
  if 1 ≤ q.stage then .ok q.data ((List.range q.n).map fun i => listGet 0 q.cmp i != 0) s
  else if x.pois.isSome then .ok (List.replicate q.n 0) (List.replicate q.n true) s
  else
    match b.elem (segPos q.id) with
    | .skip => clean []
    | .const zero => clean (if zero then List.replicate q.n 0 else b.fill q.n)
    | .read =>
      if b.sspace = 0 then s.readOut o x q q.addr q.n 4
      else if b.sspace = 4 then
        match s.recallEngine x q.key with
        | some (v, s) =>
          let all := v.foldr (fun (w : W64) k => w.toNat + 2 ^ 64 * k) 0
          .ok (natBytes q.n all) ((List.range q.n).map fun i => all / 2 ^ (1024 + i) % 2 == 1) s
        | none =>
          if s.replaying x.gang then .again s
          else .held (s.toPort o q.id (segMsg o q.id b.peer b.window q.addr q.n))
      else
        match s.padMember x b.sspace b.sarg with
        | some k => s.readPad o x q k q.addr q.n b.nf
        | none => clean (List.replicate q.n 0)

/-- No segment of the operation is still to be sent after this one: what is left of the walk writes nothing. -/
def Op.lastMsg (x : Op) (q : Req) : Bool :=
  if x.kind = .mepi then x.reqs.all fun r => r.id == q.id || r.stage == 3
  else (List.range (x.blk.total - x.pos)).all fun i => x.blk.elem (x.pos + i) == .skip || x.commit.contains (x.pos + i)

/-! ## Writing a segment's destination (spec/08 R161 to R163, spec/11 R212 to R214, spec/13 R236) -/

/-- The key of a scratchpad line in an operation's bookkeeping. -/
def lineKey (mk line : Nat) : Nat := mk * 2 ^ 14 + line

/-- A segment has been performed. -/
def State.performed (s : State) (o id : Nat) : State :=
  (s.modReq o id fun q => { q with st := .performed, stage := 3 }).post2 .copySegmentAck o id

/-- No other segment of the attempt will write a line after this one (spec/08 R163). -/
def Op.lastOn (x : Op) (q : Req) (line : Nat) : Bool :=
  let after := x.reqs.any fun r => r.id != q.id && r.stage != 3 && decide (r.id / 2 ^ 48 = x.attempt) && r.dst / 128 == line
  !after && (x.kind == .mepi || !x.blk.reaches line x.pos)

/-- The line state that a performed segment gives: FULL or POISONED at the last write to its line, once for the command
(spec/06 R127, spec/11 R212). -/
def State.lineAfter (s : State) (o : Nat) (x : Op) (q : Req) (mk : Nat) (pois : Bool) : State :=
  let line := q.dst / 128
  let key := lineKey mk line
  let x := if pois then { x with neg := (key, 3) :: x.neg } else x
  let s := s.modOp o fun y => { y with neg := x.neg }
  if !x.lastOn q line then s
  else
    let bad := x.neg.contains (key, 3)
    let code := if bad then 2 else 1
    if x.neg.contains (key, 2) || (!bad && x.neg.contains (key, 1)) then s
    else (s.setLineSt mk line (if bad then 2 else 1)).modOp o fun y => { y with neg := (key, code) :: y.neg }

/-- Write a segment into a scratchpad; `keep` leaves the bytes as they are. -/
def State.writePad (s : State) (o : Nat) (x : Op) (q : Req) (mk : Nat) (data : List Byte) (pois keep : Bool) : State :=
  match (if keep then none else s.segHold o x q mk q.dst q.n 1) with
  | some s => s
  | none =>
    let s := if keep then s else s.padStore mk q.dst data false (engineClass x mk).2
    (s.lineAfter o x q mk pois).performed o q.id

/-- The codes of a FIFO's elements in stream bytes. -/
def Fifo.codes (f : Fifo) (data : List Byte) : List Nat :=
  if f.elemBytes = 2 then (List.range (data.length / 2)).map fun i => bytesNat ((data.drop (2 * i)).take 2)
  else if f.fmt = 7 then data.flatMap fun b => [b.toNat % 16, b.toNat / 16]
  else data.map BitVec.toNat

/-- Put codes into a list of elements from an index on. -/
def putCodes (l : List Nat) (i : Nat) (c : List Nat) : List Nat := l.take i ++ c ++ l.drop (i + c.length)

/-- Write a segment into the stream of a FIFO: none while its position is not free. An entry that has landed is left as it
is; one that is complete is about to land (spec/08 R162, spec/11 R209, R212). -/
def State.writeFifo (s : State) (o : Nat) (x : Op) (q : Req) (data : List Byte) (pois : Bool) : Option State :=
  let n := x.blk.darg
  let f := (s.member x.member).fifo n
  let i := q.dst / f.entryBytes
  let pos : W32 := BitVec.ofNat 32 (listGet 0 x.list 0 + i)
  if f.depth ≤ (pos - f.popped).toNat ∧ (pos - f.popped).toNat < 2 ^ 31 then none
  else if x.neg.contains (2 ^ 40 + i, 4) then some (s.performed o q.id)
  else
    let e := f.entries.get { elems := List.replicate 256 0, got := 0, landed := false, pois := false, origin := 0 } pos.toNat
    let per := 256 * (q.dst % f.entryBytes) / f.entryBytes
    let e := { e with elems := putCodes e.elems per (f.codes data), got := e.got + q.n, pois := e.pois || pois,
                      origin := if pois && !e.pois then x.origin else e.origin }
    let s := s.modMember x.member fun m => m.setFifo n { f with entries := f.entries.set pos.toNat e }
    let s := if e.got = f.entryBytes then
        (s.modOp o fun y => { y with neg := (2 ^ 40 + i, 4) :: y.neg }).post2 .fifoEntryLand o pos.toNat
      else s
    some (s.performed o q.id)

/-- The granules that the poisoned bytes of a segment reach. -/
def markOf (pa : Nat) (pois : List Bool) (g : Nat) : Bool :=
  (List.range pois.length).any fun i => listGet false pois i && (pa + i) / 64 == g

/-- Progress is a prefix (spec/16 R291, DEDUCED, log entry 71): a segment of the attempt before this one is not yet made, so that this one
waits with its write, or, with its request already at a port, with its acknowledgement. Writes that go out at a port follow one another
there without waiting. -/
def Op.behind (x : Op) (q : Req) (port : Bool) : Bool :=
  !x.failed && x.reqs.any fun r => decide (r.id < q.id) && decide (r.id / 2 ^ 48 = q.id / 2 ^ 48)
    && (r.open_ || (r.st == .port && (!port || r.stage != 3)))

/-- A segment keeps what it has read and tries its write again. -/
def State.keepSeg (s : State) (o : Nat) (q : Req) (data : List Byte) (pois : List Bool) (failing : Bool) : Rd :=
  .again (s.modReq o q.id fun r => { r with
    data := if failing then [] else data, cmp := pois.map fun p => if p then 1 else 0, stage := max r.stage 1 })

/-- What a write of a segment has met: journalled in a recording (spec/24 R367). -/
def State.writeFault (s : State) (x : Op) (q : Req) (c : BitVec 8) (g : W64) : Rd :=
  .fail c g (s.noteEngine x (2 ^ 60 + q.id) [c.zeroExtend 64, g])

/-- Write a segment at a virtual address: it is tried again while its line is being evicted, and fails at a malformed entry or
an uncorrectable error (spec/11 R211). A failing one marks its granules, where it can reach them, and writes no byte. -/
def State.writeMem (s : State) (o : Nat) (x : Op) (q : Req) (data : List Byte) (pois : List Bool) (failing : Bool) : Rd :=
  let p := (s.gang x.gang).part
  if 2 ^ 54 ≤ q.dst then .held (s.segFatal o q.id x kProtection q.dst)
  else if s.replaying x.gang then
    (match (if failing then none else s.recallEngine x (2 ^ 60 + q.id)) with
     | some (v, s) => .fail ((v.headD 0).truncate 8) (v.getD 1 0) s
     | none => .ok [] [] (s.performed o q.id))
  else
    match s.translate (s.opCore x) p q.dst with
    | .absent =>
      if failing ∧ 0x80 < q.cause.toNat ∧ 1 ≤ q.stage then .ok [] [] (s.performed o q.id)
      else
        let s := s.modReq o q.id fun q =>
          { q with data := data, cmp := pois.map fun b => if b then 1 else 0, stage := max q.stage 1 }
        .held (s.reqPark o q.id x q.dst 5)
    | .bad e =>
      if failing then .ok [] [] (s.performed o q.id)
      else
        let r := s.unresolvable p (some (ctxOf x.gang)) (s.segRec x) q.dst 3 e
        r.1.writeFault x q cTranslation (r.1.segOrigin x r.2.toNat)
    | .leaf l =>
      if !l.w || (l.isSealed && l.type != 2) then .held (s.segFatal o q.id x kProtection q.dst)
      else if x.behind q (l.type == 2) then s.keepSeg o q data pois failing
      else
        let s := s.tlbFill (s.opCore x) p q.dst l
        let pa := l.pa q.dst
        let b := x.blk
        if l.type = 2 then
          let m := segMsg o q.id l.peer l.window pa q.n
          let m := { m with code := if b.trig then 3 else 0, slot := if b.trig then some b.tslot else none, arg := if failing then 2 else 0,
                            data := if failing then [] else data, marks := if failing then List.replicate q.n true else pois,
                            last := x.lastMsg q }
          .ok [] [] ((s.modReq o q.id fun q => { q with stage := 3 }).toPort o q.id m)
        else if s.evicting (sliceOf l.home (pa / 128)) (pa / 128) then .again s
        else
          let s := s.watchHome x l pa q.n 1
          let h := if failing then (s, none) else s.partError pa q.n
          let s := h.1
          match h.2 with
          | some g =>
            let r := s.uncorrectable p (some (ctxOf x.gang)) (s.segRec x) g
            r.1.writeFault x q cMemory (r.1.segOrigin x r.2.toNat)
          | none =>
            let s := if failing then s.homeReq o q.id l pa (s.memBytes pa q.n) (fun _ => true) false
              else s.homeReq o q.id l pa data (markOf pa pois) true
            .ok [] [] (s.modReq o q.id fun q => { q with stage := 3 })

/-- The leaf switches of a multicast's members, each with those below it (spec/18 R315). -/
def State.leaves' (s : State) (members : List Nat) : List (List Nat) :=
  ((members.map fun d => s.leaf.get 0 d).eraseDups).map fun sw => members.filter fun d => s.leaf.get 0 d == sw

/-- Send a multicast segment: one message for each leaf switch where the switches replicate, else one for each member
(spec/12 R230, spec/18 R315). -/
def State.writeMcast (s : State) (o : Nat) (x : Op) (q : Req) (data : List Byte) (pois : List Bool) (failing : Bool) : State :=
  if s.replaying x.gang then s.performed o q.id
  else
    let b := x.blk
    let e : W64 := BitVec.ofNat 64 x.aop
    let sets := if e.getLsbD 25 && s.accept.getLsbD 2 then s.leaves' x.list else x.list.map fun d => [d]
    let msg (l : List Nat) : Msg :=
      { code := 1, dev := l.headD 0, win := bits e.toNat 12 12, off := q.dst, data := if failing then [] else data,
        marks := if failing then List.replicate q.n true else pois, slot := if b.trig then some b.tslot else none, tag := o,
        arg := if failing then 2 else 0, req := q.id, len := q.n, last := x.lastMsg q, members := l,
        group := b.peer }
    { s.performed o q.id with outbox := s.outbox ++ sets.map msg }

/-- Write a segment in its space. -/
def State.writeSeg (s : State) (o : Nat) (x : Op) (q : Req) (data : List Byte) (pois : List Bool) (failing : Bool) : Rd :=
  let b := x.blk
  let any := failing || pois.any id
  let ghost := x.pois.isSome
  let s := s.modReq o q.id fun q => { q with pois := any }
  if b.dspace != 0 && x.behind q (b.dspace == 4 && !ghost && !s.replaying x.gang) then s.keepSeg o q data pois failing
  else match b.dspace with
  | 0 => if ghost then .ok [] [] (s.performed o q.id) else s.writeMem o x q data pois failing
  | 3 =>
    let junk := (List.range q.n).map fun i => BitVec.ofNat 8 (Config.freeWord (s.free + i)).toNat
    (match s.writeFifo o x q (if failing && !ghost then junk else data) any with
     | some s => .ok [] [] (if failing then { s with free := s.free + q.n } else s)
     | none => s.keepSeg o q data pois failing)
  | 4 =>
    if ghost ∨ s.replaying x.gang = true then .ok [] [] (s.performed o q.id)
    else
      let m := segMsg o q.id b.peer b.window q.dst q.n
      .ok [] [] ((s.modReq o q.id fun q => { q with stage := 3 }).toPort o q.id
        { m with code := if b.trig then 3 else 0, slot := if b.trig then some b.tslot else none, arg := if failing then 2 else 0,
                 data := if failing then [] else data, marks := if failing then List.replicate q.n true else pois,
                 last := x.lastMsg q })
  | 5 => if ghost then .ok [] [] (s.performed o q.id) else .ok [] [] (s.writeMcast o x q data pois failing)
  | _ =>
    match s.padMember x b.dspace b.darg with
    | some k => .ok [] [] (s.writePad o x q k data any (failing || ghost))
    | none => .ok [] [] (s.performed o q.id)

/-! ## Reductions (spec/08 R161, spec/11 R213) -/

/-- dest op x in an element format (spec/08 R161). -/
def reduceOp (fmt op old v : Nat) : Nat :=
  let float (f : FFmt) : Nat :=
    if op = 1 then f.add .rne (f.value old) (f.value v) else f.minMax (op == 3) old v
  match fmt with
  | 0 => float f32
  | 1 => float f16
  | 2 => float b16
  | 5 => if op = 1 then (old + v) % 2 ^ 32 else atomicNew (if op = 2 then 1 else 2) 4 old v 0
  | _ => if op = 1 then (old + v) % 2 ^ 32 else if op = 2 then min old v else max old v

/-- Read the destination element of a reduction. -/
def State.readDst (s : State) (o : Nat) (x : Op) (q : Req) : Rd :=
  let b := x.blk
  match b.dspace with
  | 0 => s.readOut o x q q.dst q.n 5
  | 4 =>
    if s.replaying x.gang then .ok (List.replicate q.n 0) (List.replicate q.n false) s
    else .held (s.toPort o q.id (segMsg o q.id b.peer b.window q.dst q.n))
  | _ =>
    match s.padMember x b.dspace b.darg with
    | some k => s.readPad o x q k q.dst q.n true
    | none => .ok (List.replicate q.n 0) (List.replicate q.n false) s

/-! ## A segment (spec/08 R154, R160) -/

/-- The segment has met a cause; POISON_DATA only adds to the token (spec/11 R215). -/
def State.meets (s : State) (o : Nat) (c : BitVec 8) (g : W64) : State :=
  s.modOp o fun x => if x.pois.isSome then x else x.addCause c g

/-- A segment fails: attempts 1 and 2 are abandoned; attempt 3 writes it as poisoned (spec/11 R211, R213). -/
def State.segFails (s : State) (o : Nat) (q : Req) (c : BitVec 8) (g : W64) : Rd :=
  let s := s.meets o c g
  match s.ops.find? o with
  | none => .held s
  | some x =>
    if !x.lastTry then .held ((s.modOp o fun x => { x with failed := true }).post .copyAttemptFail o)
    else s.writeSeg o x q [] (List.replicate q.n true) true

/-- Write a segment; a write that fails fails the segment (spec/11 R211). -/
def State.writeOut (s : State) (o : Nat) (x : Op) (q : Req) (data : List Byte) (pois : List Bool) : Rd :=
  match s.writeSeg o x q data pois false with
  | .fail c g s => s.segFails o q c g
  | r => r

/-- Read the destination where the command reduces, combine, and write. -/
def State.combine (s : State) (o : Nat) (x : Op) (q : Req) (data : List Byte) (pois : List Bool) : Rd :=
  let b := x.blk
  let s := if pois.any id then s.meets o cPoisonData (s.segOrigin x 0) else s
  let x := (s.ops.find? o).getD x
  if b.rop = 0 ∨ x.kind = .mepi ∨ x.pois.isSome = true then s.writeOut o x q data pois
  else
    let s := s.modReq o q.id fun q => { q with data := data, cmp := pois.map fun p => if p then 1 else 0, stage := max q.stage 1 }
    let q := { q with data := data, cmp := pois.map fun p => if p then 1 else 0, stage := max q.stage 1 }
    if q.stage = 2 then s.writeOut o x q data pois
    else
      match s.readDst o x q with
      | .ok old marks s =>
        let s := if marks.any id then s.meets o cPoisonData (s.segOrigin x 0) else s
        let new := natBytes q.n (reduceOp b.rfmt b.rop (bytesNat old) (bytesNat data))
        let both := (List.range q.n).map fun i => listGet false pois i || listGet false marks i
        let s := s.modReq o q.id fun q => { q with data := new, cmp := both.map fun p => if p then 1 else 0, stage := 2 }
        s.writeOut o x { q with data := new, stage := 2 } new both
      | .fail c g s => s.segFails o q c g
      | r => r

/-- How an earlier attempt of the command had the segment at a position refused by a peer, which is final: 6 a read, whose
destination is written as poisoned, 7 a write, which is not made again (spec/12 R229). -/
def refusedKey (p : Nat) : Nat := 2 ^ 42 + p

/-- Perform a segment that is ready: its fault's answer, its read, its write. -/
def State.runSeg (s : State) (o : Nat) (x : Op) (q : Req) : Rd :=
  let answered := decide (0x80 ≤ q.cause.toNat)
  let why := q.cause.toNat - 0x80
  let rec_ := s.unresolvable (s.gang x.gang).part (some (ctxOf x.gang)) (s.segRec x) (if q.stage = 0 then q.addr else q.dst) why 0
  if answered && why != 0 then rec_.1.segFails o q cTranslation (rec_.1.segOrigin x rec_.2.toNat)
  else if answered && !x.lastTry then .held ((s.modOp o fun x => { x with failed := true }).post .copyAttemptFail o)
  else
    let q := { q with cause := 0 }
    let s := s.modReq o q.id fun q => { q with cause := 0 }
    if x.neg.contains (refusedKey (segPos q.id), 7) then .ok [] [] (s.performed o q.id)
    else if (1 ≤ q.stage ∧ q.data.isEmpty = true) ∨ x.neg.contains (refusedKey (segPos q.id), 6) = true then
      s.writeSeg o x q [] (List.replicate q.n true) true
    else match s.readSeg o x q with
    | .ok d m s => s.combine o x q d m
    | .fail c g s => s.segFails o q c g
    | r => r

/-- Outstanding segments of the attempt. -/
def Op.outstanding (x : Op) : Nat := (x.reqs.filter fun q => q.st != .done).length

/-- What follows a segment that has been handed on: the next of the walk, or the command's end; a reduction waits until
its element is committed. -/
def State.nextSeg (s : State) (o : Nat) : State :=
  match s.ops.find? o with
  | none => s
  | some x =>
    if x.kind != .copy then s
    else if x.blk.rop != 0 && x.reqs.any (fun q => q.st != .done) then s
    else if x.pos < x.blk.total then s.post2 .copySegment o (x.segId x.pos)
    else s.post .copyComplete o

/-- Run a segment, and what follows it. -/
def State.segTurn (s : State) (o : Nat) (x : Op) (q : Req) : State :=
  match s.runSeg o x q with
  | .ok _ _ s => s.nextSeg o
  | .held s =>
    (match s.req o q.id with
     | some (_, r) => if r.st = .port ∧ q.stage = 0 then s.nextSeg o else s
     | none => s)
  | .again s => s.post2 .copySegment o q.id
  | .fail _ _ s => s.nextSeg o

/-- Form the segment at the command's position; elements that write nothing, or are committed, are passed over. -/
def State.newSeg (s : State) (o : Nat) (x : Op) : State :=
  let b := x.blk
  let p := x.pos
  if b.total ≤ p then s.post .copyComplete o
  else if b.elem p = .skip ∨ x.commit.contains p = true then (s.modOp o fun x => { x with pos := p + 1 }).nextSeg o
  else if 32 ≤ x.outstanding then s.post2 .copySegment o (x.segId p)
  else
    let n := b.run 127 p
    let q : Req := { oneReq (b.src p) (n * b.esize) [] with id := x.segId p, dst := b.dst p }
    let s := s.modOp o fun x => { x with pos := p + n, reqs := x.reqs ++ [q] }
    let s := s.sampled (s.opCore x) o q.id 6 x.pc q.addr x.team x.rwc
    match s.ops.find? o with
    | some x => s.segTurn o x q
    | none => s

/-- A peer has answered the read of a segment (spec/12 R229): its bytes and markers; a reduction that had its source has
its destination element now. -/
def State.peerData (s : State) (o : Nat) (x : Op) (q : Req) (data : List Byte) (marks : List Bool) : State :=
  let pois := (List.range q.n).map fun i => listGet false marks i
  let go (s : State) (q' : Req) : State :=
    let s := s.modReq o q.id fun _ => q'
    if x.kind = .mepi ∨ s.opLive x = false then s
    else
      match s.combine o x q' q'.data ((List.range q.n).map fun i => listGet 0 q'.cmp i != 0) with
      | .again s => s.post2 .copySegment o q.id
      | .ok _ _ s => if x.blk.rop = 0 then s else s.nextSeg o
      | .held s => s
      | .fail _ _ s => s
  if q.stage = 0 then
    let s := s.noteEngine x q.key (segWords data pois)
    go s { q with st := .ready, data := data, cmp := pois.map fun p => if p then 1 else 0, stage := 1 }
  else
    let new := natBytes q.n (reduceOp x.blk.rfmt x.blk.rop (bytesNat data) (bytesNat q.data))
    let both := (List.range q.n).map fun i => listGet false pois i || listGet 0 q.cmp i != 0
    let s := if pois.any id then s.meets o cPoisonData (s.segOrigin x 0) else s
    go s { q with st := .ready, data := new, cmp := both.map fun p => if p then 1 else 0, stage := 2 }

/-- COPY_SEGMENT (spec/08 R160): the engine forms the command's next segment, or serves one that waits; with `z` 1 a peer
answers a read with `data` and `marks`, of a segment or of a seal descriptor. -/
def execCopySegment (s : State) : Out :=
  let a := s.arg
  match s.ops.find? a.x with
  | none => .next s
  | some x =>
    if a.z = 1 ∧ (x.kind = .seal ∨ x.kind = .unseal ∨ x.kind = .vref) then
      let due := x.reqs.any fun q => q.id == snapId && q.st == .port
      .next (if due && a.data.length == 16 then
          ((s.modReq a.x snapId fun q => { q with st := .ready, data := a.data }).post .preconditionsMet a.x).repliedTo x.gang
        else s)
    else if snapId < a.y then
      match x.reqs.find? fun q => q.id == a.y with
      | some q => .next (if q.st != .ready then s else if !s.opLive x then s.defer .copySegment else s.sideServe a.x x q)
      | none => .next s
    else if !x.started || x.finished || (x.kind != .copy && x.kind != .mepi) then .next s
    else
      match x.reqs.find? fun q => q.id == a.y with
      | some q =>
        if a.z = 1 then
          .next (if q.st = .port ∧ q.stage < 3 ∧ x.failed = false ∧ a.data.length = q.n then
              (s.keepSealed x a.x q.id a.data a.marks).peerData a.x x q a.data a.marks else s)
        else if q.st != .ready || x.failed then .next s
        else if !s.opLive x then .next (s.defer .copySegment)
        else .next (s.segTurn a.x x q)
      | none =>
        if x.failed || a.y != x.segId x.pos || a.z = 1 || x.kind != .copy then .next s
        else if !s.opFresh x then .next (s.defer .copySegment)
        else .next (s.newSeg a.x x)

/-! ## Acknowledgement, credit and completion (spec/08 R163, spec/11 R212) -/

/-- Credit the bytes of a segment to the command's phase barrier: a message of its own on its way to the barrier. -/
def State.credit (s : State) (o : Nat) (x : Op) (n : Nat) (pois : Bool) : State :=
  let w := listGet 0 x.snap 6
  let c := { Op.blank with
    kind := .credit, gang := x.gang, team := x.team, member := x.member, tok := x.tok, queue := x.queue, pc := x.pc, word := x.word,
    a := w, b := BitVec.ofNat 64 n, pois := if pois then some (0, x.origin) else none, width := x.unit, pos2 := o, started := true,
    reqs := [oneReq (pbAddr w) 16 []], disp := x.disp, rwc := x.rwc }
  let r := s.addOp c
  r.1.post .phaseBarrierEvent r.2

/-- The key under which a command keeps that the credit of a segment carried poison. -/
def poisKey (p : Nat) : Nat := 2 ^ 41 + p

/-- Credit a segment: its bytes once for the command; poison that comes to it in a later attempt than its credit follows in a credit
of no bytes (spec/08 R163, spec/11 R212, R215). -/
def State.creditSeg (s : State) (o : Nat) (q : Req) : State :=
  match s.ops.find? o with
  | none => s
  | some x =>
    let p := segPos q.id
    let first := !x.applied.contains p
    let bad := x.pois.isSome || q.pois
    let late := !first && bad && !x.neg.contains (poisKey p, 5)
    let s := s.modOp o fun x => { x with
      applied := if first then x.applied ++ [p] else x.applied, credited := if first then x.credited + q.n else x.credited
      neg := if x.blk.credit && bad && (first || late) then (poisKey p, 5) :: x.neg else x.neg }
    if !x.blk.credit then s else if first then s.credit o x q.n bad else if late then s.credit o x 0 true else s

/-- Credits follow the order of the segments: what is done is credited up to the first segment that is not (spec/12 R220). -/
def State.creditRun (s : State) (o : Nat) (x : Op) : State :=
  let done := (x.reqs.filter fun q => q.id < snapId).takeWhile fun q => q.st == .done
  done.foldl (fun s q => s.creditSeg o q) s

/-- COPY_SEGMENT_ACK (spec/08 R163): a performed segment is credited once for the command, in the order of the segments; an element
of a reduction is committed. -/
def execCopySegmentAck (s : State) : Out :=
  let o := s.arg.x
  match s.req o s.arg.y with
  | none => .next s
  | some (x, q) =>
    if q.st != .performed then .next s
    else
      let side := decide (snapId ≤ q.id)
      let s := s.modReq o q.id fun q => { q with st := .done }
      let s := if side || x.blk.rop = 0 then s else s.modOp o fun x => { x with commit := x.commit ++ [segPos q.id] }
      let s := match s.ops.find? o with
        | some x => if side then s else s.creditRun o x
        | none => s
      .next (if side then s.post .copyComplete o else if x.blk.rop != 0 then s.nextSeg o else s.post .copyComplete o)

/-- COPY_ATTEMPT_FAIL (spec/11 R211, R212): once the segments that the attempt has performed are acknowledged, the next one
starts from the first element; FIFO entries that have not landed are filled anew. -/
def execCopyAttemptFail (s : State) : Out :=
  let o := s.arg.x
  match s.ops.find? o with
  | none => .next s
  | some x =>
    if !x.failed || x.lastTry || !x.started then .next s
    else if !s.opLive x then .next (s.defer .copyAttemptFail)
    else
      let going (q : Req) : Bool := !q.open_ && q.st != .done && q.stage == 3
      if x.reqs.any going then .next (s.defer .copyAttemptFail)
      else
        let f := s.dstFifo x
        let mine (p : Nat × FEntry) : Bool :=
          let i := ((BitVec.ofNat 32 p.1 - BitVec.ofNat 32 (listGet 0 x.list 0)) : W32).toNat
          decide (i < listGet 0 x.list 1) && !x.neg.contains (2 ^ 40 + i, 4)
        let s := if x.blk.dspace = 3 then
            s.modMember x.member fun m => m.setFifo x.blk.darg { f with entries := f.entries.filter fun p => !mine p }
          else s
        let refusal := x.neg.reverse.find? fun p => p.2 % 16 == 8
        let s := s.modOp o fun x => { x with
          attempt := x.attempt + 1, pos := 0, failed := false
          cause := if refusal.isSome then cFabric else 0
          origin := match refusal with
            | some p => s.opOrigin x 6 0 (p.2 / 16)
            | none => 0
          reqs := x.reqs.filter fun q => snapId ≤ q.id, neg := x.neg.filter fun p => p.2 != 3 }
        let s := s.count x.member 9
        .next (s.post2 .copySegment o ((x.attempt + 1) * 2 ^ 48))

/-- Nothing of the command is outstanding. -/
def State.opQuiet (s : State) (o : Nat) (x : Op) : Bool :=
  x.reqs.all (fun q => q.st == .done) && s.ops.all fun p => !(p.2.kind == .credit && p.2.pos2 == o)

/-- An entry of the command is complete and has not landed. -/
def State.landing (s : State) (x : Op) : Bool :=
  let f := s.dstFifo x
  x.blk.dspace == 3 && f.entries.any fun p =>
    decide (((BitVec.ofNat 32 p.1 - BitVec.ofNat 32 (listGet 0 x.list 0)) : W32).toNat < listGet 0 x.list 1) && !p.2.landed && p.2.got == f.entryBytes

/-- The token of a copy takes the command's outcome, and the queue goes on with its next command (spec/08 R154, spec/11
R209). -/
def State.endCopy (s : State) (o : Nat) (x : Op) : State :=
  let b := x.blk
  let s := if b.dspace = 3 ∧ x.cause ≠ 0 then
      let f := s.dstFifo x
      let mine (p : Nat × FEntry) : Bool :=
        decide (((BitVec.ofNat 32 p.1 - BitVec.ofNat 32 (listGet 0 x.list 0)) : W32).toNat < listGet 0 x.list 1)
      let fix (p : Nat × FEntry) : Nat × FEntry := if mine p && p.2.pois then (p.1, { p.2 with origin := x.origin }) else p
      s.modMember x.member fun m => m.setFifo b.darg { f with entries := f.entries.map fix }
    else s
  let s := if b.srce && x.pois.isNone && (b.sspace == 1 || b.sspace == 2) && x.pos == b.total then
      match s.padMember x b.sspace b.sarg with
      | some k => s.each b.srcLines fun s line => s.setLineSt k line 0
      | none => s
    else s
  let s := s.modMember x.member fun m => { m with queues := m.queues.set x.queue ((m.queues.get [] x.queue).filter fun n => n != o) }
  let s := s.endOp o x
  match ((s.member x.member).queues.get [] x.queue).head? with
  | some n => s.post .copyStart n
  | none => s

/-- The record of a multicast whose members have all answered is written before its token completes (spec/12 R230). -/
def State.mcastEnd (s : State) (o : Nat) (x : Op) : State :=
  let va := (listGet 0 x.snap 7).toNat
  let neg := x.neg
  let w := wordBytes (ackWords x.blk.peer x.list.length x.pos2 neg)
  let s := s.modOp o fun x => { x with credited := 2 ^ 62 }
  let s := if x.b = 0 then s else s.sideWrite o (snapId + 3) x.b.toNat (negBitmap neg)
  let s := s.sideWrite o (snapId + 4) va (w.take 8)
  (s.sideWrite o (snapId + 5) (va + 16) (w.drop 16)).post .copyComplete o

/-- The multicast of a command waits for answers: of `list` members, `pos2` have answered positively and `neg` hold the
others with their causes. -/
def Op.answered (x : Op) : Bool := x.pos2 + x.neg.length == x.list.length

/-- COPY_COMPLETE (spec/08 R163): every segment is performed and credited, and the token completes; CBLD, CPBI, a
collective or a reach word that is over completes too. -/
def execCopyComplete (s : State) : Out :=
  let o := s.arg.x
  match s.ops.find? o with
  | none => .next s
  | some x =>
    match x.kind with
    | .copy =>
      if x.finished then .next (s.endCopy o x)
      else if !x.started || x.failed || x.pos < x.blk.total || x.snap.isEmpty || !s.opQuiet o x || s.landing x then .next s
      else if x.blk.dspace = 5 ∧ x.pois.isNone ∧ x.blk.total ≠ 0 then
        if x.credited = 2 ^ 62 then .next (s.endCopy o x)
        else if x.answered || s.replaying x.gang then .next (s.mcastEnd o x)
        else .next s
      else .next (s.endCopy o x)
    | .mepi => .next (if s.opQuiet o x then s.post .matrixComplete x.gang else s)
    | _ => .next (if !x.finished then s else if x.isPb then s.endPb o x else s.endOp o x)

/-! ## CBLD (spec/08 R166) -/

/-- A CBLD of a FIFO is running: it awaits its switch, or has begun to read its table (spec/08 R166). -/
def State.cbldBusy (s : State) (o : Nat) (x : Op) (f : Nat) : Bool :=
  ((s.member x.member).fifo f).cbld.isSome || s.ops.any fun p =>
    p.2.kind == .cbld f && p.2.member == x.member && p.1 != o && (p.2.started || !p.2.reqs.isEmpty)

/-- The codebook of a CBLD replaces the old one once every entry below its switch position has been popped. -/
def State.cbldSwitch (s : State) (mk f : Nat) : State :=
  let x := (s.member mk).fifo f
  match x.cbld with
  | none => s
  | some (at_, code, o) =>
    if (x.popped - at_).getLsbD 31 then s
    else
      let s := s.modMember mk fun m => m.setFifo f { x with code := code, cbld := none }
      (s.modOp o fun x => { x with finished := true }).post .copyComplete o

/-- CBLD starts: it reads its table and fixes its switch position. -/
def State.cbldStart (s : State) (o : Nat) (x : Op) (f : Nat) : State :=
  let q := (s.member x.member).fifo f
  if !q.declared || q.fmt != 7 then (s.modOp o fun x => { x with started := true }).acceptFault x (kIllegal, .value, 0)
  else
    match s.snapRead o x (bits x.a.toNat 54 4) (bits x.a.toNat 0 54) 32 with
    | .wait s => s
    | .bad c g s => (s.modOp o fun x => { x with started := true, finished := true, cause := c, origin := g, reqs := [] }).post .copyComplete o
    | .words l s =>
      let code := (List.range 16).map fun i => BitVec.ofNat 16 ((listGet 0 l (i / 4)).toNat / 2 ^ (16 * (i % 4)))
      let s := s.modMember x.member fun m => let q := m.fifo f; m.setFifo f { q with cbld := some (q.reserved, code, o) }
      (s.modOp o fun x => { x with started := true, reqs := [] }).cbldSwitch x.member f

/-- CPBI removes one block, or every one. -/
def State.cpbiRun (s : State) (o : Nat) (x : Op) : State :=
  let s := s.modMember x.member fun m =>
    { m with bcache := if x.a = 0 then [] else m.bcache.filter fun p => p.1 != blockKey x.a }
  s.endOp o x

end Sys2Proof.Machine
end

