-- ==== Sys2Proof/Machine/Collective.lean ====
section
/-! DEFINITION. Collectives: the descriptor, its checks, the ring's steps and completion (spec/08 R167, R168). -/

namespace Sys2Proof.Machine

/-- A collective's descriptor: eight doublewords (spec/08 R167). -/
structure Desc where
  w : List W64
deriving DecidableEq, Repr

/-- `n` bits of doubleword `i` from bit `lo` up. -/
def Desc.f (d : Desc) (i lo n : Nat) : Nat := bits (listGet 0 d.w i).toNat lo n
def Desc.okind (d : Desc) : Nat := d.f 0 54 2
def Desc.oaddr (d : Desc) : Nat := d.f 0 0 54
def Desc.rkind (d : Desc) : Nat := if d.f 1 54 2 = 2 then d.okind else d.f 1 54 2
def Desc.raddr (d : Desc) : Nat := if d.f 1 54 2 = 2 then d.oaddr else d.f 1 0 54
def Desc.fmt (d : Desc) : Nat := d.f 2 40 4
def Desc.op (d : Desc) : Nat := d.f 2 36 4
def Desc.e (d : Desc) : Nat := d.f 2 0 32
def Desc.rank (d : Desc) : Nat := d.f 3 16 16
def Desc.n (d : Desc) : Nat := d.f 3 0 16
def Desc.rtab (d : Desc) : W64 := listGet 0 d.w 4
def Desc.pbar (d : Desc) : W64 := listGet 0 d.w 5
def Desc.stage (d : Desc) : Nat := (listGet 0 d.w 6).toNat
/-- Bytes of an element. -/
def Desc.size (d : Desc) : Nat := (reduceBytes d.fmt).getD 1

/-- The descriptor of an operation. -/
def Op.desc (x : Op) : Desc := { w := x.snap }

/-- Elements that a collective reads, and that it writes, on this rank. -/
def Desc.reads (d : Desc) (k : OpKind) : Nat := if k = .xa2a then d.n * d.e else d.e
def Desc.writes (d : Desc) (k : OpKind) : Nat := if k = .xred then d.e else d.n * d.e

/-- Elements of a chunk of an XRED: ⌈E/N⌉, the last ones shorter (spec/08 R168). -/
def Desc.chunk (d : Desc) : Nat := (d.e + d.n - 1) / d.n
/-- The first element of a chunk, and how many it has. -/
def Desc.chunkAt (d : Desc) (c : Nat) : Nat × Nat := (c * d.chunk, min d.chunk (d.e - c * d.chunk))

/-! ## Checks (spec/08 R164, R167) -/

/-- Accumulator tiles of a core (spec/01 R21). -/
def State.tileCount (s : State) (g : Nat) : Nat := 16 * (s.gang g).acc
/-- A tile of a member core. -/
def Member.tile (m : Member) (n : Nat) : Tile := m.tiles.get .blank n

/-- Element types of accumulator tiles suit the format. -/
def State.tilesSuit (s : State) (x : Op) (d : Desc) (first n : Nat) : Bool :=
  (List.range ((n + 255) / 256)).all fun i =>
    if ((s.member x.member).tile (first + i)).int then d.fmt == 5 || d.fmt == 6 else d.fmt == 0

/-- A place that the operand or result occupies lies beyond the scratchpad or the tiles. -/
def State.placeFault (s : State) (x : Op) (d : Desc) (kind addr n : Nat) : Option BFault :=
  if kind = 0 then
    (if addr % d.size ≠ 0 then some (kMisaligned, .state, addr)
     else if s.padSize x.gang < addr + n * d.size then some (kOutOfPart, .state, addr) else none)
  else if s.tileCount x.gang < addr + (n + 255) / 256 then some (kIllegal, .state, 0)
  else none

/-- The checks of a descriptor. The staging area of an XGAT and an XA2A is taken to hold E elements, as spec/08 R167 gives its size for
XRED only (DESIGN CHOICE, log entry 47). -/
def State.checkDesc (s : State) (x : Op) (d : Desc) : Option BFault :=
  let bits_ := [d.f 0 56 8, d.f 1 56 8, d.f 2 44 20, d.f 2 32 4, d.f 3 32 32, d.f 5 58 6, d.f 7 0 64]
  let op := if x.kind = .xred then decide (1 ≤ d.op) && decide (d.op ≤ 3) else d.op == 0
  let rk := if x.kind = .xred then decide (d.f 1 54 2 ≤ 2) else decide (d.f 1 54 2 ≤ 1)
  let stage := if x.kind = .xred then d.chunk else d.e
  if bits_.any (· != 0) then some (kIllegal, .reserved, 0)
  else if 1 < d.okind ∨ rk = false ∨ (reduceBytes d.fmt).isNone = true ∨ op = false ∨ 1 < d.f 5 54 4
      ∨ d.n < 2 ∨ 1024 < d.n ∨ d.n ≤ d.rank then
    some (kIllegal, .value, 0)
  else if (d.okind = 1 ∨ d.rkind = 1) ∧ d.size ≠ 4 then some (kIllegal, .value, 0)
  else
    match s.placeFault x d d.okind d.oaddr (d.reads x.kind) with
    | some f => some f
    | none =>
      match s.placeFault x d d.rkind d.raddr (d.writes x.kind) with
      | some f => some f
      | none =>
        if d.okind = 1 ∧ !s.tilesSuit x d d.oaddr (d.reads x.kind) then some (kIllegal, .value, 0)
        else if d.pbar.toNat % 16 ≠ 0 then some (kMisaligned, .state, d.f 5 0 54)
        else if d.f 5 54 4 = 1 ∧ s.padSize x.gang ≤ d.f 5 0 54 then some (kOutOfPart, .state, d.f 5 0 54)
        else s.placeFault x d 0 d.stage stage

/-! ## Elements -/

/-- An element as the operand holds it, with its poison. -/
def State.elemAt (s : State) (x : Op) (kind addr size i : Nat) : Nat × Bool :=
  let m := s.member x.member
  if kind = 0 then
    let a := addr + i * size
    (bytesNat (m.bytes a size), m.lineSt a == 2)
  else
    let t := m.tile (addr + i / 256)
    ((listGet 0 t.elems (i % 256)).toNat, t.pois)

/-- Write an element of the result: the lines and tiles that poison reaches are noted. -/
def State.putElem (s : State) (o : Nat) (x : Op) (d : Desc) (i v : Nat) (pois : Bool) : State :=
  if d.rkind = 0 then
    let a := d.raddr + i * d.size
    let s := s.padStore x.member a (natBytes d.size v) false (Cls.copy.tag 0)
    if pois then s.modOp o fun x => { x with neg := (lineKey x.member (a / 128), 3) :: x.neg } else s
  else
    let n := d.raddr + i / 256
    s.modMember x.member fun m =>
      let t := m.tile n
      let t := { t with elems := listSet t.elems (i % 256) (BitVec.ofNat 32 v), int := d.fmt != 0, pois := t.pois || pois,
                        origin := if pois && !t.pois then x.origin else t.origin }
      { m with tiles := m.tiles.set n t }

/-- Elements from `first` on: their values with their poison. -/
def State.elemsOf (s : State) (x : Op) (kind addr size first n : Nat) : List (Nat × Bool) :=
  (List.range n).map fun i => s.elemAt x kind addr size (first + i)

/-- Write elements of the result from `first` on. -/
def State.putElems (s : State) (o : Nat) (x : Op) (d : Desc) : Nat → List (Nat × Bool) → State
  | _, [] => s
  | first, e :: l => (s.putElem o x d first e.1 e.2).putElems o x d (first + 1) l

/-- Poison among elements adds to the token (spec/11 R215). -/
def State.elemPoison (s : State) (o : Nat) (x : Op) (l : List (Nat × Bool)) : State :=
  if l.any (fun e => e.2) then s.modOp o fun y => y.addCause cPoisonData (s.opOrigin x 5 0 0) else s

/-- Write elements of the result, poison with the origin that the token has then (spec/08 R168, spec/11 R214, R215). -/
def State.keepElems (s : State) (o : Nat) (x : Op) (d : Desc) (first : Nat) (l : List (Nat × Bool)) : State :=
  let s := s.elemPoison o x l
  match s.ops.find? o with
  | some x => s.putElems o x d first l
  | none => s

/-! ## Steps (spec/08 R168) -/

/-- The requests of a collective's sends are numbered from here; a number holds the rank in its low 10 bits. -/
def sendId : Nat := 2 ^ 61

/-- A send reads its rank's entry of the rank table, the device and the staging base, and goes out; an entry that is not there parks
it, and one that cannot be read poisons the token (spec/08 R167, spec/14 R242, R258, spec/11 R215; what an unreadable entry does
is DEDUCED, log entry 14). -/
def State.sendServe (s : State) (o : Nat) (x : Op) (q : Req) : State :=
  let d := x.desc
  let p := (s.gang x.gang).part
  let va := d.rtab.toNat + 16 * (q.id % 1024)
  let bad (s : State) (c : BitVec 8) (errseq : Nat) : State :=
    let g := s.opOrigin x 5 0 errseq
    ((s.modReq o q.id fun q => { q with st := .done }).modOp o fun y => y.addCause c g).post .collectiveComplete o
  let lost (s : State) (why entry : Nat) : State :=
    let r := s.unresolvable p (some (ctxOf x.gang)) (s.opRec x 5) va why entry
    bad r.1 cTranslation r.2.toNat
  if 0x80 < q.cause.toNat then lost s (q.cause.toNat - 0x80) 0
  else if 2 ^ 54 ≤ va then bad s cTranslation 0
  else
    match s.translate (s.opCore x) p va with
    | .absent => s.reqPark o q.id x va 4
    | .bad e => lost s 3 e
    | .leaf l =>
      if !l.r || l.type != 0 then bad s cTranslation 0
      else
        let pa := l.pa va
        let h := (s.tlbFill (s.opCore x) p va l).eccHit pa 16
        match h.2 with
        | some g =>
          let r := h.1.uncorrectable p (some (ctxOf x.gang)) (h.1.opRec x 5) g
          bad r.1 cMemory r.2.toNat
        | none =>
          if h.1.markedRange pa 16 then bad h.1 cPoisonData 0
          else
            let s := (h.1.modReq o q.id fun q => { q with st := .done }).post .collectiveComplete o
            let m : Msg := { segMsg o d.rank ((s.mem64 pa).toNat % 2 ^ 16) 0 (s.mem64 (pa + 8)).toNat q.n with
              arg := 0, data := q.data, marks := q.cmp.map fun b => b != 0 }
            { s with outbox := s.outbox ++ [m] }

/-- Send elements to a rank's staging area. -/
def State.sendRank (s : State) (o : Nat) (x : Op) (d : Desc) (r : Nat) (l : List (Nat × Bool)) : State :=
  if s.replaying x.gang then s
  else
    match s.ops.find? o with
    | none => s
    | some y =>
      let data := l.flatMap fun e => natBytes d.size e.1
      let q : Req := { oneReq 0 data.length data with
        id := sendId + 1024 * y.reqs.length + r, cmp := l.flatMap fun e => List.replicate d.size (if e.2 then 1 else 0) }
      (s.modOp o fun y => { y with reqs := y.reqs ++ [q] }).sendServe o x q

/-- What a step receives lands in the local staging area, the states of whose lines stay as they are (spec/08 R167; DESIGN CHOICE, log
entry 14). -/
def State.stageChunk (s : State) (x : Op) (d : Desc) (l : List (Nat × Bool)) : State :=
  s.padStore x.member d.stage (l.flatMap fun e => natBytes d.size e.1) false (Cls.copy.tag 0)

/-- The chunk or part that step `k` of a ring brings to a rank. -/
def ringChunk (n rank k : Nat) : Nat := (rank + 2 * n - 1 - k) % n

/-- Steps in which a collective receives. -/
def Op.steps (x : Op) : Nat := if x.kind = .xred then 2 * (x.desc.n - 1) else x.desc.n - 1

/-- Start a collective: what it sends first, and its own part of the result. -/
def State.collectiveStart (s : State) (o : Nat) (x : Op) : State :=
  let d := x.desc
  let next := (d.rank + 1) % d.n
  let part (first n : Nat) : List (Nat × Bool) := s.elemsOf x d.okind d.oaddr d.size first n
  match x.kind with
  | .xred =>
    let c := d.chunkAt d.rank
    (s.elemPoison o x (part c.1 c.2)).sendRank o x d next (part c.1 c.2)
  | .xgat =>
    let own := part 0 d.e
    (s.keepElems o x d (d.rank * d.e) own).sendRank o x d next own
  | _ =>
    let s' := (s.elemPoison o x (part 0 (d.n * d.e))).keepElems o x d (d.rank * d.e) (part (d.rank * d.e) d.e)
    s'.each ((List.range d.n).filter fun r => r != d.rank) fun s r => s.sendRank o x d r (part (r * d.e) d.e)

/-- The elements that bytes with marks hold. -/
def unpackElems (size : Nat) (data : List Byte) (marks : List Bool) : List (Nat × Bool) :=
  (List.range (data.length / size)).map fun i =>
    (bytesNat ((data.drop (i * size)).take size), ((marks.drop (i * size)).take size).any id)

/-- What step `k` receives: where it belongs, and how many elements it has. `src` is the sender of an XA2A block. -/
def Op.stepAt (x : Op) (k src : Nat) : Nat × Nat :=
  let d := x.desc
  match x.kind with
  | .xred => d.chunkAt (if k < d.n - 1 then ringChunk d.n d.rank k else ringChunk d.n (d.rank + 1) (k - (d.n - 1)))
  | .xgat => (ringChunk d.n d.rank k * d.e, d.e)
  | _ => (src * d.e, d.e)

/-- One step: an XRED folds in its first half, the received fold before its own element; every ring passes on what the
next rank still needs. -/
def State.collectiveStep (s : State) (o : Nat) (x : Op) (src : Nat) (l : List (Nat × Bool)) : State :=
  let d := x.desc
  let k := x.pos
  let c := x.stepAt k src
  let s := s.stageChunk x d l
  let own := s.elemsOf x d.okind d.oaddr d.size c.1 c.2
  let folds := x.kind == .xred && decide (k < d.n - 1)
  let l := if folds then (l.zip own).map fun p => (reduceOp d.fmt d.op p.1.1 p.2.1, p.1.2 || p.2.2) else l
  let keep := !folds || decide (k + 2 = d.n)
  let s := if keep then s.keepElems o x d c.1 l else s.elemPoison o x l
  let s := s.modOp o fun x => { x with pos := k + 1, list := src :: x.list }
  let s := if x.kind != .xa2a && decide (k + 1 < x.steps) then s.sendRank o x d ((d.rank + 1) % d.n) l else s
  if k + 1 = x.steps then s.post .collectiveComplete o else s

/-- COLLECTIVE_STEP (spec/08 R168): the ring brings a chunk, part or block with `data` and `marks`; `u` is the rank that
sends an XA2A block. With `y` the number of a send, that one reads its rank's entry again. -/
def execCollectiveStep (s : State) : Out :=
  let a := s.arg
  match s.ops.find? a.x with
  | none => .next s
  | some x =>
    if !([OpKind.xred, .xgat, .xa2a].contains x.kind) || !x.started || x.finished then .next s
    else if sendId ≤ a.y ∧ a.z ≠ 1 then
      match x.reqs.find? fun q => q.id == a.y with
      | some q => .next (if q.st != .ready then s else if !s.opLive x then s.defer .collectiveStep else s.sendServe a.x x q)
      | none => .next s
    else if x.steps ≤ x.pos then .next s
    else if !s.opFresh x then .next (s.defer .collectiveStep)
    else
      let n := (x.stepAt x.pos a.u).2 * x.desc.size
      let known := x.kind != .xa2a || (decide (a.u < x.desc.n) && a.u != x.desc.rank && !x.list.contains a.u)
      match s.recallEngine x (2 ^ 61 + x.pos) with
      | some (v, s) =>
        let all := v.drop 1
        let bytes := (wordBytes all).take n
        let marks := ((wordBytes (all.drop ((n + 7) / 8))).take n).map fun b => b != 0
        .next (s.collectiveStep a.x x (v.headD 0).toNat (unpackElems x.desc.size bytes marks))
      | none =>
        if a.data.length != n || !known || a.z != 1 || s.replaying x.gang then .next s
        else
          let pad (l : List Byte) : List W64 := bytesWords (l ++ List.replicate ((8 - l.length % 8) % 8) 0)
          let marks := (List.range n).map fun i => if listGet false a.marks i then (1 : Byte) else 0
          let s := s.noteEngine x (2 ^ 61 + x.pos) (BitVec.ofNat 64 a.u :: pad a.data ++ pad marks)
          .next (s.collectiveStep a.x x a.u (unpackElems x.desc.size a.data a.marks))

/-- COLLECTIVE_COMPLETE (spec/08 R168): the result's lines become FULL or POISONED, the collective arrives once at PBAR, and
its token completes. -/
def execCollectiveComplete (s : State) : Out :=
  let o := s.arg.x
  match s.ops.find? o with
  | none => .next s
  | some x =>
    if !([OpKind.xred, .xgat, .xa2a].contains x.kind) || !x.started || x.finished || decide (x.pos < x.steps)
        || x.reqs.any (fun q => q.st != .done) then .next s
    else
      let d := x.desc
      let first := d.raddr / 128
      let last := (d.raddr + d.writes x.kind * d.size + 127) / 128
      let s := if d.rkind = 0 then
          s.each ((List.range (last - first)).map fun i => first + i) fun s l =>
            s.setLineSt x.member l (if x.neg.contains (lineKey x.member l, 3) then 2 else 1)
        else s
      let c := { Op.blank with
        kind := .credit, gang := x.gang, team := x.team, member := x.member, tok := x.tok, pc := x.pc, word := x.word, a := d.pbar, aop := 1,
        pois := if x.cause = 0 then none else some (0, x.origin), width := 5, pos2 := o, started := true,
        reqs := [oneReq (pbAddr d.pbar) 16 []], disp := x.disp, rwc := x.rwc }
      let r := (s.modOp o fun x => { x with finished := true }).addOp c
      .next (r.1.post .phaseBarrierEvent r.2)

/-- Begin a collective whose preconditions are met: its descriptor is read and checked. -/
def State.beginCollective (s : State) (o : Nat) (x : Op) : State :=
  match s.snapRead o x (bits x.a.toNat 54 4) (bits x.a.toNat 0 54) 64 with
  | .wait s => s
  | .bad c g s =>
    (s.modOp o fun x => { x with started := true, finished := true, cause := c, origin := g, reqs := [] }).post .copyComplete o
  | .words l s =>
    let x := { x with snap := l, started := true, reqs := [] }
    let s := s.modOp o fun _ => x
    match s.checkDesc x x.desc with
    | some f => s.acceptFault x f
    | none =>
      let s := s.collectiveStart o x
      if s.replaying x.gang then s.push ((List.range x.steps).map fun _ => turnOf .collectiveStep o 0) else s

/-- XRED, XGAT and XA2A (spec/08 R167). -/
def collective (k : OpKind) (td : BitVec 5) (sp sa : BitVec 6) (s : State) : Out :=
  s.withRegs [sp, sa] [] fun s =>
    let w := s.rS sa
    s.blockWord w 64 64 <| s.issue { s.scalarOp k td (s.rS sp) w 0 with after := s.fenced s.cur ++ s.covered s.cur }

def execXred (td : BitVec 5) (sp sa : BitVec 6) (s : State) : Out := collective .xred td sp sa s
def execXgat (td : BitVec 5) (sp sa : BitVec 6) (s : State) : Out := collective .xgat td sp sa s
def execXa2a (td : BitVec 5) (sp sa : BitVec 6) (s : State) : Out := collective .xa2a td sp sa s

end Sys2Proof.Machine
end

