-- ==== Sys2Proof/Machine/Reach.lean ====
section
/-! DEFINITION. Trigger slots and sealed versions, and the start of every asynchronous operation of the scalar stream
(spec/03 R61, spec/12 R233, R234). -/

namespace Sys2Proof.Machine

/-! ## Trigger slots (spec/12 R233) -/

/-- The state with a trigger slot changed. -/
def State.modSlot (s : State) (n : Nat) (f : Slot → Slot) : State := { s with slots := s.slots.set n (f (s.slots.get .blank n)) }

/-- TRIG (spec/12 R233). -/
def execTrig (td : BitVec 5) (sp sa sb : BitVec 6) (s : State) : Out :=
  s.withRegs [sp, sa, sb] [] fun s =>
    let v := s.rS sa
    if bits v.toNat 14 50 ≠ 0 then illegal s .reserved
    else
      let range := match s.parts.find? s.tg.part with
        | some p => decide (p.cfg.slot0 ≤ bits v.toNat 0 12) && decide (bits v.toNat 0 12 ≤ p.cfg.slot1)
        | none => false
      s.blockWord (s.rS sb) 64 64 <|
        if !range then faultAt s kProtection (BitVec.ofNat 64 (bits v.toNat 0 12))
        else s.issue { s.scalarOp .trig td (s.rS sp) (s.rS sb) v with
          queue := bits v.toNat 12 2, after := s.fenced s.cur ++ s.covered s.cur }

/-- Fire an armed operation: it enters its queue as a CPY does, or, where a segment of the incoming command was refused,
it is poisoned; none while the queue is full. -/
def State.fireOp (s : State) (o : Nat) (x : Op) (refused : Bool) : Option State :=
  if refused then some (s.endOp o { x with cause := cFabric, origin := s.opOrigin x 6 0 0 })
  else
    let q := (s.member x.member).queues.get [] x.queue
    if 16 ≤ q.length then none
    else
      let s := s.modOp o fun x => { x with kind := .copy, started := false, failed := false, pos := 0 }
      let s := s.modMember x.member fun m => { m with queues := m.queues.set x.queue (q ++ [o]) }
      some (s.post .copyStart o)

/-- TRIG once its preconditions are met. -/
def State.trigRun (s : State) (o : Nat) (x : Op) : Out :=
  let n := bits x.b.toNat 0 12
  let slot := s.slots.get .blank n
  match slot.st with
  | .idle => .next ((s.modSlot n fun c => { c with st := .armed, op := o }).modOp o fun x => { x with started := true })
  | .armed =>
    let f : FRec := { s.opRec x 3 with kind := kProtection, addr := BitVec.ofNat 64 n }
    .next ((s.modOp o fun x => { x with started := true }).fatal (ctxOf x.gang) f)
  | .latched =>
    match s.fireOp o x slot.refused with
    | some s => .next (s.modSlot n fun _ => Slot.blank)
    | none => .next (s.defer .preconditionsMet)

/-- The answer to the sender of a command that finds its slot LATCHED: TRIGGER_OVERRUN, or a multicast's first refusal
(spec/12 R230, R232, R233). -/
def Inc.overrun (c : Inc) (m : Msg) : Msg :=
  if c.mcast then { c.ack with arg := if c.cause = 0 then 7 else c.cause } else { m with code := 8, arg := 7 }

/-- TRIGGER_FIRE (spec/12 R233): every segment of the incoming command `z` of device `y` that names slot `x` has been
performed or refused here: the slot latches, or its armed command is to fire and the slot becomes IDLE. With `u` 1 the armed
operation `y` enters its queue, once its context is resident; `ok` says that a segment was refused. -/
def execTriggerFire (s : State) : Out :=
  let a := s.arg
  if a.u = 1 then
    match s.ops.find? a.y with
    | none => .next s
    | some x =>
      if x.kind != .trig || !x.failed then .next s
      else if !s.opLive x then .next (s.defer .triggerFire)
      else
        match s.fireOp a.y x a.ok with
        | some s => .next s
        | none => .next (s.defer .triggerFire)
  else
    let mine (c : Inc) : Bool := c.dev == a.y && c.tag == a.z && c.slot == some a.x && c.held.isSome
    match s.incoming.find? mine with
    | none => .next s
    | some c =>
      let s := { s with incoming := s.incoming.filter fun c => !mine c }
      let m := c.held.getD c.ack
      let slot := s.slots.get .blank a.x
      match slot.st with
      | .idle => .next ((s.modSlot a.x fun _ => { st := .latched, op := 0, refused := c.cause != 0 }).send m)
      | .latched => .next (s.send (c.overrun m))
      | .armed =>
        let s := (s.modSlot a.x fun _ => Slot.blank).modOp slot.op fun x => { x with failed := true }
        .next ((s.send m).push [.event .triggerFire { Args.none with y := slot.op, u := 1, ok := c.cause != 0 }])

/-! ## Sealed versions (spec/12 R234) -/

/-- The leaf of an address with the address of its entry. -/
def State.leafEntry (s : State) (p va : Nat) : Option (Nat × Leaf) :=
  match s.walk p va, s.parts.find? p with
  | .leaf l, some pt =>
    (match (s.walkReads va 5 pt.cfg.ptRoot).getLast? with
     | some e => some (e, { l with dw0 := s.mem64 e, dw1 := s.mem64 (e + 8) })
     | none => none)
  | _, _ => none

/-- The pages of a range, each with its entry; none where one cannot be translated. `fuel` bounds their number. -/
def State.pagesOf (s : State) (p : Nat) : Nat → Nat → Nat → Option (List (Nat × Leaf))
  | 0, _, _ => some []
  | fuel + 1, va, end_ =>
    if end_ ≤ va then some []
    else if 2 ^ 54 ≤ va then none
    else
      match s.leafEntry p va with
      | none => none
      | some e =>
        match s.pagesOf p fuel ((va / 2 ^ e.2.bits + 1) * 2 ^ e.2.bits) end_ with
        | some l => some (e :: l)
        | none => none

/-- Sealed copies of the lines of a partition's page are no longer used, also of one that a peer homes (spec/12 R234). -/
def State.dropSealed (s : State) (p : Nat) (l : Leaf) : State :=
  let on (line : Nat) : Bool := decide (l.base / 128 ≤ line) && decide (line < (l.base + 2 ^ l.bits) / 128)
  if l.type = 2 then
    { s with sealedPeer := s.sealedPeer.filter fun c =>
        !(c.part == p && c.dev == l.peer && c.win == l.window && decide (c.off < l.base + 2 ^ l.bits) && decide (l.base < c.off + c.data.length)) }
  else if l.type ≠ 0 then s
  else { s with cores := s.cores.map fun c =>
    (c.1, { c.2 with near := c.2.near.filter fun p => !(p.2.st == .sealedc && on p.1) }) }

/-- Write the sealed bit and the version of pages, as the Memory core does, and let no TLB keep the old entries, nor a near cache
or this device sealed copies of them (spec/12 R234, spec/14 R254, R257). -/
def State.sealPages (s : State) (p : Nat) (l : List (Nat × Leaf)) (lo hi : Nat) (isSealed : Bool) (version : Nat → Nat) : State :=
  let s := l.foldl (fun (s : State) e =>
    let d := e.2.dw1.toNat % 2 ^ 47 + isSealed.toNat * 2 ^ 47 + version e.2.version % 2 ^ 16 * 2 ^ 48
    (s.benchWords (e.1 + 8) [BitVec.ofNat 64 d]).dropSealed p e.2) s
  s.tlbInvalidate p lo hi

/-- A seal word has failed: its token is POISONED, and nothing changes. -/
def State.sealBad (s : State) (o : Nat) (x : Op) (cause : BitVec 8) (errseq : Nat) : State :=
  s.endOp o { x with cause := cause, origin := s.opOrigin x 3 0 errseq }

/-- A seal word whose range does not suit it, or cannot be translated: TRANSLATION (spec/12 R234). -/
def State.sealFails (s : State) (o : Nat) (x : Op) (errseq : Nat) : State := s.sealBad o x cTranslation errseq

/-- The descriptor's address is 16-byte aligned (spec/12 R234). -/
def State.sealWord (s : State) (w : W64) (bad : Bool) (k : Out) : Out :=
  if bad then illegal s .value
  else if !s.tm.copy then illegal s .state
  else if w.toNat % 16 ≠ 0 then faultAt s kMisaligned w
  else k

/-- Issue a word that acts on a range: the team's accesses so far, what it has observed and the preconditions come first
(spec/12 R234). -/
def State.issueSeal (s : State) (kind : OpKind) (td : BitVec 5) (sp w v : W64) : Out :=
  s.issue { s.scalarOp kind td sp w v with after := s.fenced s.cur ++ s.issuedBefore s.cur }

def execSeal (td : BitVec 5) (sp sa sb : BitVec 6) (s : State) : Out :=
  s.withRegs [sp, sa, sb] [] fun s =>
    let v := s.rS sb
    s.sealWord (s.rS sa) (v = 0 ∨ 2 ^ 16 ≤ v.toNat) <| s.issueSeal .seal td (s.rS sp) (s.rS sa) v

def execUnseal (td : BitVec 5) (sp sa : BitVec 6) (s : State) : Out :=
  s.withRegs [sp, sa] [] fun s => s.sealWord (s.rS sa) false <| s.issueSeal .unseal td (s.rS sp) (s.rS sa) 0

def execVref (td : BitVec 5) (sp sa : BitVec 6) (s : State) : Out :=
  s.withRegs [sp, sa] [] fun s => s.sealWord (s.rS sa) false <| s.issueSeal .vref td (s.rS sp) (s.rS sa) 0

/-- How the read of a seal descriptor ends. -/
inductive SealDesc where
  | range (base len : Nat) (s : State)
  | wait (s : State)
  | bad (cause : BitVec 8) (errseq : Nat) (s : State)

/-- Check a descriptor's two doublewords: reserved bits, and multiples of 4 KiB (spec/12 R234). -/
def sealRange (d0 d1 : W64) (s : State) : SealDesc :=
  let base := d0.toNat
  let len := d1.toNat
  if 2 ^ 54 ≤ base ∨ 2 ^ 40 ≤ len ∨ base % 4096 ≠ 0 ∨ len % 4096 ≠ 0 ∨ len = 0 then .bad cTranslation 0 s else .range base len s

/-- Read the descriptor: in the device's memory, or, on a peer's page, through the fabric (spec/14 R254). -/
def State.sealDesc (s : State) (o : Nat) (x : Op) : SealDesc :=
  let va := x.a.toNat
  let p := (s.gang x.gang).part
  let q := x.reqs.find? fun q => q.id == snapId
  let answer := match q with
    | some q => q.cause.toNat
    | none => 0
  let got := match q with
    | some q => q.data
    | none => []
  if got.length = 16 then sealRange (BitVec.ofNat 64 (bytesNat (got.take 8))) (BitVec.ofNat 64 (bytesNat (got.drop 8))) s
  else if 0x80 < answer then
    let r := s.unresolvable p (some (ctxOf x.gang)) (s.opRec x 3) va (answer - 0x80) 0
    .bad cTranslation r.2.toNat r.1
  else if 2 ^ 54 ≤ va then .bad cTranslation 0 s
  else
    let req : Req := { oneReq va 16 [] with id := snapId }
    match s.translate (s.opCore x) p va with
    | .absent => .wait ((s.modOp o fun x => { x with reqs := [req] }).reqPark o snapId x va 0)
    | .bad e =>
      let r := s.unresolvable p (some (ctxOf x.gang)) (s.opRec x 3) va 3 e
      .bad cTranslation r.2.toNat r.1
    | .leaf l =>
      if !l.r || l.type == 1 then .bad cTranslation 0 s
      else if l.type = 2 then
        .wait ((s.modOp o fun x => { x with reqs := [req] }).toPort o snapId (segMsg o snapId l.peer l.window (l.pa va) 16))
      else
        let pa := l.pa va
        let h := s.eccHit pa 16
        match h.2 with
        | some g =>
          let r := h.1.uncorrectable p (some (ctxOf x.gang)) (s.opRec x 3) g
          .bad cMemory r.2.toNat r.1
        | none => if s.markedRange pa 16 then .bad cPoisonData 0 s else sealRange (s.mem64 pa) (s.mem64 (pa + 8)) s

/-- The pages of a range as runs that lie side by side in one window of one peer: the first page of each, with its virtual address
and length. -/
def sealRuns (lo hi : Nat) : List (Nat × Leaf) → List (Leaf × Nat × Nat)
  | [] => []
  | e :: rest =>
    let l := e.2
    let next := (lo / 2 ^ l.bits + 1) * 2 ^ l.bits
    let n := min next hi - lo
    match sealRuns next hi rest with
    | [] => [(l, lo, n)]
    | (f, va, m) :: more =>
      if f.peer = l.peer ∧ f.window = l.window ∧ f.pa va = l.pa lo + n then (l, lo, n + m) :: more else (l, lo, n) :: (f, va, m) :: more

/-- SEAL, UNSEAL and VREF once their preconditions are met: the Memory core changes the entries of the range, or asks the
home device for them. -/
def State.sealRun (s : State) (o : Nat) (x : Op) : State :=
  match s.sealDesc o x with
  | .wait s => s
  | .bad c e s => s.sealBad o x c e
  | .range base len s =>
    let p := (s.gang x.gang).part
    match s.pagesOf p (len / 4096 + 1) base (base + len) with
    | none => s.sealFails o x 0
    | some l =>
      let local_ := l.all fun e => e.2.type != 2
      let v := x.b.toNat
      match x.kind with
      | .seal =>
        if !local_ || l.any (fun e => e.2.isSealed || e.2.version == v) then s.sealFails o x 0
        else (s.sealPages p l base (base + len) true fun _ => v).endOp o x
      | .unseal =>
        if !local_ || l.any (fun e => !e.2.isSealed) then s.sealFails o x 0
        else (s.sealPages p l base (base + len) false fun w => w).endOp o x
      | _ =>
        if l.isEmpty || l.any (fun e => e.2.type != 2) then s.sealFails o x 0
        else
          let runs := sealRuns base (base + len) l
          let ask (i : Nat) (r : Leaf × Nat × Nat) : Msg :=
            { segMsg o i r.1.peer r.1.window (r.1.pa r.2.1) r.2.2 with code := 4, arg := r.1.version }
          let req (i : Nat) (r : Leaf × Nat × Nat) : Req := { oneReq r.2.1 r.2.2 [] with id := i, st := .port }
          { s.modOp o fun x => { x with
              started := true, snap := [BitVec.ofNat 64 base, BitVec.ofNat 64 len], reqs := runs.mapIdx req } with
            outbox := s.outbox ++ runs.mapIdx ask }

/-- SEAL_REPLY (spec/12 R234): the home's current version `y` of run `z`, or its unsealed state, is installed in this device's
translations of it; with every run installed VREF's token completes. -/
def execSealReply (s : State) : Out :=
  let o := s.arg.x
  match s.ops.find? o with
  | none => .next s
  | some x =>
    match x.reqs.find? fun q => q.id == s.arg.z && q.st == .port with
    | none => .next s
    | some q =>
      if x.kind != .vref || !x.started then .next s
      else
        let s := s.repliedTo x.gang
        match s.pagesOf (s.gang x.gang).part (q.n / 4096 + 1) q.addr (q.addr + q.n) with
        | none => .next (s.sealFails o x 0)
        | some l =>
          let v := s.arg.y
          let s := s.sealPages (s.gang x.gang).part l q.addr (q.addr + q.n) s.arg.ok fun w => if s.arg.ok then v else w
          .next (if x.reqs.all (fun r => r.id == q.id || r.st == .done) then s.endOp o x
            else s.modReq o q.id fun q => { q with st := .done })

/-! ## The start of an operation (spec/03 R61) -/

/-- Start an operation whose preconditions are met and were DONE. -/
def State.startOp (s : State) (o : Nat) (x : Op) : Out :=
  let begun (s : State) : State := s.modOp o fun x => { x with started := true }
  match x.kind with
  | .sldg _ => .next ((begun s).sampled (s.opCore x) o 0 4 x.pc x.a.toNat x.team x.rwc |>.serve o 0 x)
  | .sstg _ => .next ((begun s).sampled (s.opCore x) o 0 5 x.pc x.a.toNat x.team x.rwc |>.serve o 0 x)
  | .cbld f => if s.cbldBusy o x f then .next (s.defer .preconditionsMet) else .next (s.cbldStart o x f)
  | .cpbi => .next (s.cpbiRun o x)
  | .xred => .next (s.beginCollective o x)
  | .xgat => .next (s.beginCollective o x)
  | .xa2a => .next (s.beginCollective o x)
  | .trig => s.trigRun o x
  | .seal => .next (s.sealRun o x)
  | .unseal => .next (s.sealRun o x)
  | .vref => .next (s.sealRun o x)
  | _ => .next (if x.isPb then (begun s).post .phaseBarrierEvent o else s)

/-- An operation with a POISONED precondition does not run: its token inherits (spec/03 R61, spec/11 R215). -/
def State.inherit (s : State) (o : Nat) (x : Op) (origin : W64) : State :=
  let s := s.modTeam x.team fun t =>
    { t with loads := t.loads.map fun e => if e.op = o then { e with done := true, oldS := t.getS (BitVec.ofNat 6 x.reg) } else e }
  s.endOp o { x with cause := cInherited, origin := origin }

/-- The kinds whose poisoned preconditions do not keep them from running: a copy that marks its destinations, and the events
of a phase barrier (spec/03 R61, spec/11 R215). -/
def OpKind.runsPoisoned : OpKind → Bool
  | .copy => true
  | .pexp => true
  | .parr => true
  | .texp _ => true
  | _ => false

/-- PRECONDITIONS_MET (spec/03 R61). -/
def execPreconditionsMet (s : State) : Out :=
  let o := s.arg.x
  match s.ops.find? o with
  | none => .next s
  | some x =>
    if x.started || x.isLane || x.kind == .copy || x.kind == .mepi || x.kind == .credit then .next s
    else if (x.reqs.any fun q => q.id == snapId && q.st != .ready) then .next s
    else if x.waiting != 0 || !s.allOver x.after || !s.opFresh x then .next (s.defer .preconditionsMet)
    else
      match x.pois with
      | some p => if x.kind.runsPoisoned then s.startOp o x else .next (s.inherit o x p.2)
      | none => s.startOp o x

end Sys2Proof.Machine
end

