-- ==== Sys2Proof/Machine/Fabric.lean ====
section
/-! DEFINITION. The fabric: segments that arrive from other devices, the answers to what this device has sent, pod
barriers, sealed versions and ports (spec/12 R220, R229 to R234, spec/18 R313 to R316). -/

namespace Sys2Proof.Machine

/-! ## Windows (spec/18 R316) -/

/-- The cause with which the window refuses an access, 0 where it allows it (spec/12 R232, spec/18 R316). -/
def State.windowCheck (s : State) (dev part win off n : Nat) (write : Bool) : Nat :=
  match s.windows.find? win with
  | none => 2
  | some (w, revoked) =>
    let d2 := (listGet 0 w 2).toNat
    let d3 := (listGet 0 w 3).toNat
    let toDev := bits d2 0 16 == 0xFFFF || bits d2 0 16 == dev
    let toPart := bits d2 19 1 == 1 || bits d2 16 3 == part
    if bits d3 0 1 = 0 ∨ !(toDev && toPart) ∨ bits d3 (if write then 2 else 1) 1 = 0 then 2
    else if revoked then 1
    else if (listGet 0 w 1).toNat < off + n then 3
    else 0

/-- The exporting partition of a window, and the virtual address of an offset in it. -/
def State.windowVa (s : State) (win off : Nat) : Nat × Nat :=
  match s.windows.find? win with
  | none => (0, off)
  | some (w, _) => (bits (listGet 0 w 3).toNat 8 3, (listGet 0 w 0).toNat + off)

/-- A refusal for which spec/12 R232 lists no cause takes one of the causes, left open (DESIGN CHOICE, log entry 19). -/
def State.openCause (s : State) : Nat := 1 + (Config.freeWord s.free).toNat % 8

/-- What an incoming access finds. -/
inductive PeerAt where
  /-- The page and the physical address. -/
  | at (l : Leaf) (pa : Nat) (s : State)
  | refused (cause : Nat) (s : State)
  /-- It waits for the Memory core. -/
  | parked (s : State)

/-- Hand the fault of an incoming access to the Memory core: it names no context (spec/14 R258, spec/18 R311, log entry
19). -/
def State.peerFault (s : State) (p va access : Nat) : State :=
  match s.parts.find? p with
  | none => s
  | some pt =>
    let f : TFault := { tag := pt.prTag, part := p, ctx := 2 ^ 60, gang := 2 ^ 60, va := va, access := access, op := none, agent := none,
                        since := s.ns, answer := none }
    let s := { s.modPart p fun x => { x with prTag := pt.prTag + 1 } with tfaults := s.tfaults ++ [f] }
    let c := (Config.freeWord s.free).toNat % 256
    let ws : List W64 := [BitVec.ofNat 64 va, BitVec.ofNat 64 (c + access * 256), BitVec.ofNat 64 pt.prTag, 0]
    let s := s.fresh
    let s := if s.ringFree pt.cfg.prq 124 then s.ringPut pt.cfg.prq 124 32 ws else s
    s.push [.event .translationTimeout { Args.none with x := p, w := BitVec.ofNat 64 pt.prTag }]

/-- Find the page of an incoming access through the exporter's table and permissions (spec/18 R316). -/
def State.peerAt (s : State) (dev part win off n : Nat) (write : Bool) : PeerAt :=
  let c := s.windowCheck dev part win off n write
  let p := (s.windowVa win off).1
  let va := (s.windowVa win off).2
  let access := if write then 5 else 4
  let mine (f : TFault) : Bool := f.part == p && f.va == va && f.access == access && f.op.isNone && f.agent.isNone
  let others := s.arriving.any fun x => x.win != win && s.windowVa x.win x.off == (p, va)
  if c ≠ 0 then .refused c { s with tfaults := s.tfaults.filter fun f => !(mine f && !others) }
  else
    let deny (s : State) : PeerAt := .refused s.openCause s.fresh
    let lost (s : State) (why entry : Nat) : PeerAt := deny (s.unresolvable p none { FRec.blank with unit := 6 } va why entry).1
    match s.tfaults.find? mine with
    | some f =>
      (match f.answer with
       | none => .parked s
       | some why => lost { s with tfaults := s.tfaults.filter fun x => !(x.part == f.part && x.tag == f.tag) } why 0)
    | none =>
      if (s.parts.find? p).isNone || decide (2 ^ 54 ≤ va) then deny s
      else
        match s.walk p va with
        | .absent => .parked (s.peerFault p va access)
        | .bad e => lost s 3 e
        | .leaf l =>
          if l.type = 2 ∨ (if write then l.w else l.r) = false then deny s
          else if write && l.isSealed then .refused 4 s
          else .at l (l.pa va) s

/-- The segment is to wait: it is kept among those that are arriving, and comes again. -/
def State.parkPeer (s : State) (w : PeerW) (i : Instr) : State :=
  { s with arriving := if s.arriving.contains w then s.arriving else s.arriving ++ [w] }.defer i

/-- What answers the segment that arrives (the operands of the step: `x` the device, `y` its partition, `z` the window,
`u` the offset, `v` and `w` what names the segment and its command there). -/
def State.peerW (s : State) (slot : Option Nat) (mcast : Bool) : PeerW :=
  { dev := s.arg.x, tag := s.arg.w.toNat, req := s.arg.v, win := s.arg.z, off := s.arg.u, slot := slot, mcast := mcast }

/-- Write at its home for a peer: it is answered when every sharer has acknowledged (spec/12 R229, spec/14 R248). -/
def State.homePeer (s : State) (w : PeerW) (l : Leaf) (pa : Nat) (data : List Byte) (mark : Nat → Bool) (whole : Bool) : State :=
  let wr := s.nextOp
  let s := s.homeStore (sliceOf l.home (pa / 128)) pa data mark whole none
  match s.hw.find? wr with
  | some h => { s with hw := s.hw.set wr { h with peer := some w } }
  | none => s

/-- A segment that writes arrives: it is wholly performed, or wholly refused (spec/18 R316). One without bytes only marks
its granules (spec/12 R229). A segment lies within one line, as its sender cuts it (spec/08 R160). -/
def State.peerWrite (s : State) (w : PeerW) (i : Instr) : Out :=
  let a := s.arg
  let n := max a.data.length a.marks.length
  if n = 0 ∨ 128 < a.u % 128 + n then .next s
  else
    let s := s.arrive w a.ok
    match s.peerAt a.x a.y a.z a.u n true with
    | .parked s => .next (s.parkPeer w i)
    | .refused c s => .next (s.peerAnswer w c)
    | .at l pa s =>
      let slice := sliceOf l.home (pa / 128)
      if s.evicting slice (pa / 128) then .next (s.parkPeer w i)
      else
        let s := s.l2Watch slice pa n 1 2 a.x
        let h := if a.data.isEmpty then (s, none) else s.partError pa n
        match h.2 with
        | some g => .next ((h.1.uncorrectable (s.windowVa a.z a.u).1 none { FRec.blank with unit := 6 } g).1.peerAnswer w 5)
        | none =>
          .next (if a.data.isEmpty then s.homePeer w l pa (s.memBytes pa n) (markOf pa a.marks) false
            else s.homePeer w l pa a.data (markOf pa a.marks) true)

/-- PEER_WRITE_SEGMENT (spec/12 R229, spec/18 R316). -/
def execPeerWriteSegment (s : State) : Out := s.peerWrite (s.peerW none false) .peerWriteSegment

/-- TRIG_SEG (spec/12 R233): a write that names a trigger slot; `ok` marks the last of its command to come. -/
def execTrigSeg (s : State) : Out :=
  match s.arg.slot with
  | none => .next s
  | some n => if 4096 ≤ n then .next s else s.peerWrite (s.peerW (some n) false) .trigSeg

/-- MCAST_SEG (spec/12 R230): this device performs it if it is one of the members that the message lists. -/
def execMcastSeg (s : State) : Out :=
  match s.pod with
  | none => .next s
  | some d => if s.arg.list.contains d then s.peerWrite (s.peerW s.arg.slot true) .mcastSeg else .next s

/-- PEER_READ_SEGMENT (spec/12 R229, R234): coherent bytes with their markers; `list` holds the number of bytes, and the
version that a sealed read names. -/
def execPeerReadSegment (s : State) : Out :=
  let a := s.arg
  let n := listGet 0 a.list 0
  let w := s.peerW none false
  if n = 0 ∨ 128 < a.u % 128 + n then .next s
  else
    match s.peerAt a.x a.y a.z a.u n false with
    | .parked s => .next (s.parkPeer w .peerReadSegment)
    | .refused c s => .next (s.peerAnswer w c)
    | .at l pa s =>
      let stale := match a.list[1]? with
        | some v => !l.isSealed || l.version != v
        | none => false
      if stale then .next (s.peerAnswer w 8)
      else
        let h := (s.l2Watch (sliceOf l.home (pa / 128)) pa n 0 2 a.x).eccHit pa n
        match h.2 with
        | some g => .next ((h.1.uncorrectable (s.windowVa a.z a.u).1 none { FRec.blank with unit := 6 } g).1.peerAnswer w 5)
        | none =>
          let s := { h.1 with arriving := h.1.arriving.filter fun x => x != w }
          .next (s.send { w.answer 0 with arg := 5, data := s.memBytes pa n, marks := s.byteMarks pa n, len := n })

/-! ## Answers to what this device has sent (spec/12 R229 to R232) -/

/-- The fault record of a negative: the peer with its cause, and the window offset (spec/12 R229, R302, spec/16 R287).
Answers ERRSEQ. -/
def State.negative (s : State) (x : Op) (peer off cause : Nat) : State × W32 :=
  s.faultRecord (s.gang x.gang).part (some (ctxOf x.gang))
    { s.opRec x 6 with kind := 0x02, queue := 0, addr := BitVec.ofNat 64 off, detail := BitVec.ofNat 64 (peer + cause * 2 ^ 16) }

/-- A peer's refusal is final and is no failure: one record for each peer that refuses the command, the token's cause is
FABRIC_NACK; a refused write is not written, a refused read writes its destination as poisoned (spec/12 R229). -/
def State.copyRefused (s : State) (o : Nat) (x : Op) (q : Req) (m : Msg) (cause : Nat) : State :=
  let key := 2 ^ 50 + m.dev
  let s := if x.neg.any fun p => p.1 == key && p.2 % 16 == 8 then s
    else
      let r := s.negative x m.dev m.off cause
      (r.1.modOp o fun y => { y with neg := (key, 8 + 16 * r.2.toNat) :: y.neg }).meets o cFabric (s.opOrigin x 6 0 r.2.toNat)
  let s := s.modOp o fun y => { y with neg := (refusedKey (segPos q.id), if q.stage = 3 then 7 else 6) :: y.neg }
  if q.stage = 3 then s.performed o q.id
  else (s.modReq o q.id fun q => { q with st := .ready, data := [], cmp := [], stage := max q.stage 1 }).post2 .copySegment o q.id

/-- A refusal has come for what an operation sent (spec/12 R229, R232; DESIGN CHOICE, log entry 19 for words that are no copies). -/
def State.refused (s : State) (o id cause : Nat) : State :=
  match s.ops.find? o, s.sent o id with
  | some x, some m =>
    let q := x.reqs.find? fun q => q.id == id && q.st == .port
    let fails (s : State) : State × Op :=
      let r := s.negative x m.dev m.off cause
      (r.1, { x with cause := cFabric, origin := s.opOrigin x 6 0 r.2.toNat })
    match x.kind, q with
    | .copy, some q => s.copyRefused o x q m cause
    | .mepi, some q => s.copyRefused o x q m cause
    | .xred, _ => (fails s).1.modOp o fun y => y.addCause cFabric (fails s).2.origin
    | .xgat, _ => (fails s).1.modOp o fun y => y.addCause cFabric (fails s).2.origin
    | .xa2a, _ => (fails s).1.modOp o fun y => y.addCause cFabric (fails s).2.origin
    | .seal, some _ => ((fails s).1.endOp o (fails s).2).repliedTo x.gang
    | .unseal, some _ => ((fails s).1.endOp o (fails s).2).repliedTo x.gang
    | .vref, some _ => ((x.reqs.filter fun q => q.st == .port).foldl (fun s _ => s.repliedTo x.gang) (fails s).1).endOp o (fails s).2
    | .vref, none => if x.started then (fails s).1.endOp o (fails s).2 else s
    | _, some q => if x.isPb then
        (((fails s).1.modOp o fun _ => { (fails s).2 with reqs := [{ q with st := .done }] }).post .phaseBarrierEvent o).repliedTo x.gang else s
    | _, none => s
  | _, _ => s

/-- The code with which a pod barrier's home answers an event or wait that does not suit the object, or overflows it: the
protection fault is raised where it came from (spec/12 R218, R219; DESIGN CHOICE, log entry 19). -/
def pbDenied : Nat := 9

/-- The wait of a team on a pod barrier is refused: one at an object that does not suit is a protection fault, any other leaves
the barrier unreached (spec/12 R218, R222; DESIGN CHOICE, log entry 19). -/
def State.waitRefused (s : State) (t cause : Nat) : State :=
  let v := if cause = pbDenied then deniedStatus else unreachedStatus
  s.modTeam t fun tm => { tm with wait := tm.wait.map fun w => match w.obj with
    | .phaseBar _ => if w.result.isNone && decide (1 ≤ w.phase) then { w with result := some v } else w
    | _ => w }

/-- An event of an operation at a pod barrier of another device meets an object that does not suit: the protection fault of spec/12
R218 and R219. -/
def State.pbDeny (s : State) (o : Nat) : State :=
  match s.req o 0 with
  | some (x, q) => if x.isPb && q.st == .port then (s.pbFault o x).repliedTo x.gang else s
  | none => s

/-- An answer to a write of a command or epilogue has come ahead of an earlier one's: it is taken after it (spec/16 R291, DEDUCED, log
entry 71). -/
def State.answerEarly (s : State) (o id : Nat) : Bool :=
  match s.req o id with
  | some (x, q) => (x.kind == .copy || x.kind == .mepi) && q.st == .port && q.stage == 3 && x.behind q false
  | none => false

/-- SEG_NACK (spec/12 R229, R232): segment `y` of operation `x` is refused with cause `z`; with `u` 1 the wait of team `x`. -/
def execSegNack (s : State) : Out :=
  let a := s.arg
  .next (if a.z = 0 ∨ 9 < a.z then s
    else if a.u = 1 then s.waitRefused a.x a.z
    else if s.answerEarly a.x a.y then s.defer .segNack
    else if a.z = pbDenied then s.pbDeny a.x
    else s.refused a.x a.y a.z)

/-- STALE_NACK (spec/12 R232, R234). -/
def execStaleNack (s : State) : Out :=
  .next (if s.answerEarly s.arg.x s.arg.y then s.defer .staleNack else s.refused s.arg.x s.arg.y 8)

/-- PEER_WRITE_ACK (spec/12 R229, spec/16 R297): the peer has performed the segment; its credit follows. -/
def execPeerWriteAck (s : State) : Out :=
  let a := s.arg
  match s.req a.x a.y with
  | none => .next s
  | some (x, q) =>
    if q.st != .port || q.stage != 3 && !x.isPb then .next s
    else if x.isPb then .next (((s.modReq a.x a.y fun q => { q with st := .done }).post .phaseBarrierEvent a.x).repliedTo x.gang)
    else if s.answerEarly a.x a.y then .next (s.defer .peerWriteAck)
    else .next (s.performed a.x a.y)

/-- A member of a multicast has answered: with cause 0 positively. Its first answer counts (spec/12 R230, R231, R302). -/
def State.memberAnswers (s : State) (o dev cause off : Nat) : State :=
  match s.ops.find? o with
  | none => s
  | some x =>
    if x.kind != .copy || !x.started || x.snap.isEmpty || x.blk.dspace != 5 || !x.list.contains dev || x.neg.any (fun p => p.1 == dev)
        || x.answered || x.commit.contains (2 ^ 43 + dev) then s
    else if cause = 0 then (s.modOp o fun x => { x with pos2 := x.pos2 + 1, commit := x.commit ++ [2 ^ 43 + dev] }).post .copyComplete o
    else
      let r := s.negative x dev off cause
      ((r.1.modOp o fun x => { x with neg := x.neg ++ [(dev, cause)] }).meets o cFabric (s.opOrigin x 6 0 r.2.toNat)).post .copyComplete o

/-- MEMBER_ACK (spec/12 R230): device `y` answers command `x`: cause `z`, 0 for a positive answer, and the offset `u` of the
first refused segment. -/
def execMemberAck (s : State) : Out := .next (s.memberAnswers s.arg.x s.arg.y s.arg.z s.arg.u)

/-- LINK_TIMEOUT (spec/12 R232, spec/18 R322): the peer has not answered segment `y` of operation `x`, or member `z` a
multicast, or with `u` 1 the wait of team `x`: UNREACHABLE. -/
def execLinkTimeout (s : State) : Out :=
  let a := s.arg
  if a.u = 1 then .next (s.waitRefused a.x 6)
  else
  match s.ops.find? a.x with
  | none => .next s
  | some x =>
    if x.kind == .copy && x.started && !x.snap.isEmpty && x.blk.dspace == 5 then .next (s.memberAnswers a.x a.z 6 (x.blk.dst 0))
    else if s.answerEarly a.x a.y then .next (s.defer .linkTimeout)
    else .next (s.refused a.x a.y 6)

/-! ## Sealed versions at the home (spec/12 R234) -/

/-- SEAL_QUERY: a device asks for the version of `list` bytes of a window; the range is sealed where every page of it is,
with one version. -/
def execSealQuery (s : State) : Out :=
  let a := s.arg
  let n := listGet 0 a.list 0
  let w := s.peerW none false
  let c := s.windowCheck a.x a.y a.z a.u n false
  if n = 0 then .next s
  else if c ≠ 0 then .next (s.peerAnswer w c)
  else
    let (p, va) := s.windowVa a.z a.u
    match s.pagesOf p (n / 4096 + 2) va (va + n) with
    | some (e :: l) =>
      let one := e.2.isSealed && l.all fun f => f.2.isSealed && f.2.version == e.2.version
      .next (s.send { w.answer 0 with code := 9, arg := if one then e.2.version else 0, len := n, last := one })
    | _ => .next (s.fresh.peerAnswer w s.openCause)

/-! ## Pod barriers (spec/12 R218 to R220) -/

/-- Apply an event `n` times; none where one of them cannot be applied. -/
def PbObj.events (b : PbObj) : Nat → PbEv → Option PbObj
  | 0, _ => some b
  | n + 1, e =>
    match b.event e with
    | some b => b.events n e
    | none => none

/-- PBAR_EVENT (spec/12 R219, R220): a device's arrivals, expectation, credit or wait reaches a barrier homed here; `list`
holds the kind (0 arrival, 1 expectation, 2 credit, 3 wait, 4 a PINIT), and the number of arrivals, the bytes, the phase or the
operand; a wait that has run out (`ok`) is answered with PHASE as it stands. An object that does not suit denies it. At an
uncorrectable error it is refused with MEMORY (DEDUCED, log entry 70). -/
def execPbarEvent (s : State) : Out :=
  let a := s.arg
  let w := s.peerW none false
  let kind := listGet 0 a.list 0
  let n := listGet 0 a.list 1
  if 4 < kind ∨ a.u % 16 ≠ 0 then .next s
  else
    match s.peerAt a.x a.y a.z a.u 16 (kind != 3) with
    | .parked s => .next (s.parkPeer w .pbarEvent)
    | .refused c s => .next (s.peerAnswer w c)
    | .at l pa s =>
      let slice := sliceOf l.home (pa / 128)
      let b := s.pbMem pa
      let deny : Out := .next (s.peerAnswer w pbDenied)
      let h := if kind = 4 then (s, none) else s.eccHit pa 16
      let put (s : State) (b : PbObj) : Out :=
        let wr := s.nextOp
        let s := (s.l2Watch slice pa 16 2 2 a.x).setPbMem slice pa b none
        .next (match s.hw.find? wr with
          | some h => { s with hw := s.hw.set wr { h with peer := some w } }
          | none => s)
      if l.type ≠ 0 then deny
      else
      match h.2 with
      | some g => .next ((h.1.uncorrectable (s.windowVa a.z a.u).1 none { FRec.blank with unit := 6 } g).1.peerAnswer w 5)
      | none =>
      if kind = 4 then
        if s.evicting slice (pa / 128) then .next (s.parkPeer w .pbarEvent)
        else
          let s := s.setMark (pa / 64) false
          put { s with ecc := s.ecc.del (pa / 64) } (pbInit (BitVec.ofNat 64 n))
      else if !b.usable false (s.marked (pa / 64)) then deny
      else if kind = 3 then
        let s := { s with arriving := s.arriving.filter fun x => x != w }
        let mine (p : Nat × Nat × Nat × Nat × Nat) : Bool := p == (pa, a.x, a.z, a.u, n)
        if a.ok then
          .next ({ s with podWaits := s.podWaits.eraseP mine }.send
            { code := 0x07, dev := a.x, win := a.z, off := a.u, data := natBytes 4 b.phase.toNat, marks := [], slot := none, tag := w.tag,
              arg := b.pois.toNat, req := w.req })
        else .next ({ s with podWaits := s.podWaits ++ [(pa, a.x, a.z, a.u, n)] }.podRelease pa 16)
      else if s.evicting slice (pa / 128) then .next (s.parkPeer w .pbarEvent)
      else
        let r := match kind with
          | 0 => (match b.event (.arrive a.ok) with
              | some b => b.events (n - 1) (.arrive false)
              | none => none)
          | 1 => b.event (.bytes n a.ok)
          | _ => b.event (.bytes (-(n : Int)) a.ok)
        match r with
        | none => deny
        | some b' => put s b'

/-- PBAR_RELEASE (spec/12 R220): the barrier at offset `u` of window `z` of device `x` has PHASE `w` and POISON `ok`: the
teams that wait on a phase of it that has completed go on, and so does one whose wait has run out (spec/12 R222). -/
def execPbarRelease (s : State) : Out :=
  let a := s.arg
  let d0 : W64 := BitVec.ofNat 64 (a.w.toNat % 2 ^ 32 + a.ok.toNat * 2 ^ 59 + 2 ^ 60)
  let free (p : Nat × Team) : Nat × Team :=
    match p.2.wait with
    | some x =>
      (match x.obj with
       | .phaseBar w =>
         let v := phaseStatus d0 (BitVec.ofNat 32 (x.phase - 1))
         let isOver := phaseDone v || x.asked
         (match s.pbLook p.1 w (BitVec.ofNat 32 (x.phase - 1)) with
          | .remote peer win off =>
            if peer = a.x ∧ win = a.z ∧ off = a.u ∧ 1 ≤ x.phase ∧ x.result.isNone = true ∧ isOver = true then
              (p.1, { p.2 with wait := some { x with result := some v } })
            else p
          | _ => p)
       | _ => p)
    | none => p
  .next { s with teams := s.teams.map free }

/-! ## Messages and ports (spec/18 R313, R314) -/

/-- RESERVED_MESSAGE (spec/18 R314): a message of a reserved code is dropped and counted. -/
def execReservedMessage (s : State) : Out :=
  .next (if s.arg.x = 0 ∨ 10 ≤ s.arg.x then { s with dropped := s.dropped + 1 } else s)

/-- A port that has never trained. -/
def Port.blank : Port := { up := false, lanes := 0, failed := 0, penura := false }

/-- A port as it trains: 4 lanes, 2 with one failed lane, down with more (spec/18 R313). -/
def Port.train (p : Port) : Port :=
  { p with up := decide (p.failed ≤ 1), lanes := if p.failed = 0 then 4 else if p.failed = 1 then 2 else 0 }

/-- LINK_TRAIN (spec/18 R313): port `x` trains, at the rate of the Penura devices where both ends are such and the
configuration permits it, and else at the standard's; with neither permitted it stays down (DESIGN CHOICE, log entry 11). -/
def execLinkTrain (s : State) : Out :=
  let n := s.arg.x
  let p := (s.ports.get .blank n).train
  let own := s.arg.ok && s.penuraRate
  let q := if own || s.stdRate then { p with penura := own } else { p with up := false, lanes := 0, penura := false }
  .next (if Config.ports ≤ n then s else { s with ports := s.ports.set n q })

/-- LANE_FAILURE (spec/18 R313): a lane of port `x` fails. -/
def execLaneFailure (s : State) : Out :=
  let n := s.arg.x
  let p := s.ports.get .blank n
  .next (if Config.ports ≤ n ∨ !p.up ∨ 4 ≤ p.failed then s else { s with ports := s.ports.set n { p with failed := p.failed + 1 }.train })

end Sys2Proof.Machine
end

