-- ==== Sys2Proof/Machine/Codec.lean ====
section
/-! DEFINITION. Writing values as doublewords and reading them back: the part of a saved image that spec/07 R142 and spec/16 R290
leave without a layout, the work in flight (DESIGN CHOICE, log entry 15). -/

namespace Sys2Proof.Machine

/-- A way to write a value as doublewords, and to read one at the head of a list. -/
structure Codec (α : Type) where
  put : α → List W64
  get : List W64 → Option (α × List W64)

/-! ## Building codecs -/

/-- Values that stand for others. -/
def Codec.map {α β : Type} (c : Codec α) (into : β → α) (back : α → β) : Codec β :=
  { put := fun b => c.put (into b), get := fun l => (c.get l).map fun p => (back p.1, p.2) }

/-- One value behind another. -/
def Codec.and {α β : Type} (a : Codec α) (b : Codec β) : Codec (α × β) :=
  { put := fun p => a.put p.1 ++ b.put p.2
    get := fun l => match a.get l with
      | none => none
      | some (x, l) => (b.get l).map fun p => ((x, p.1), p.2) }

/-- Doublewords of a number, low first. -/
def numWords (n v : Nat) : List W64 := (List.range n).map fun i => BitVec.ofNat 64 (v / 2 ^ (64 * i))
/-- The number that doublewords hold. -/
def wordsNat (l : List W64) : Nat := l.foldr (fun w a => w.toNat + 2 ^ 64 * a) 0

/-- A number of any size: itself, or a count of doublewords with bit 63 set and those doublewords. -/
def cNat : Codec Nat :=
  { put := fun n =>
      if n < 2 ^ 63 then [BitVec.ofNat 64 n] else BitVec.ofNat 64 (2 ^ 63 + (n.log2 / 64 + 1)) :: numWords (n.log2 / 64 + 1) n
    get := fun l => match l with
      | [] => none
      | x :: l =>
        if x.toNat < 2 ^ 63 then some (x.toNat, l)
        else if l.length < x.toNat - 2 ^ 63 then none
        else some (wordsNat (l.take (x.toNat - 2 ^ 63)), l.drop (x.toNat - 2 ^ 63)) }

/-- A number in `n` doublewords. -/
def cFixed (n : Nat) : Codec Nat :=
  { put := numWords n, get := fun l => if l.length < n then none else some (wordsNat (l.take n), l.drop n) }

/-- `n` values of a codec. -/
def Codec.getN {α : Type} (c : Codec α) : Nat → List W64 → Option (List α × List W64)
  | 0, l => some ([], l)
  | n + 1, l =>
    match c.get l with
    | none => none
    | some (x, l) => (c.getN n l).map fun p => (x :: p.1, p.2)

/-- A list of a length that both sides know. -/
def Codec.times {α : Type} (c : Codec α) (n : Nat) : Codec (List α) := { put := fun l => l.flatMap c.put, get := c.getN n }

/-- A list behind its length. -/
def Codec.list {α : Type} (c : Codec α) : Codec (List α) :=
  { put := fun l => BitVec.ofNat 64 l.length :: l.flatMap c.put
    get := fun l => match l with
      | [] => none
      | n :: l => c.getN n.toNat l }

/-- A value that may be absent. -/
def Codec.opt {α : Type} (c : Codec α) : Codec (Option α) := c.list.map Option.toList List.head?

def cBv (w : Nat) : Codec (BitVec w) := cNat.map BitVec.toNat (BitVec.ofNat w)
def cBool : Codec Bool := cNat.map Bool.toNat (· == 1)
def cNats : Codec (List Nat) := cNat.list
def cWord : Codec W64 := (cFixed 1).map BitVec.toNat (BitVec.ofNat 64)

/-- A finite map. -/
def cSparse {α : Type} (c : Codec α) : Codec (Sparse α) := (cNat.and c).list.map id fun l => l.foldl (fun m p => m.set p.1 p.2) []

/-- Number `i` of some. -/
def nth (l : List Nat) (i : Nat) : Nat := listGet 0 l i
/-- Flag `i` of some. -/
def flag (l : List Nat) (i : Nat) : Bool := listGet 0 l i == 1
/-- Bit vector `i` of some. -/
def bvAt (w : Nat) (l : List Nat) (i : Nat) : BitVec w := BitVec.ofNat w (listGet 0 l i)

/-! ## The parts of a team -/

/-- The object of a wait by a kind and a number. -/
def WaitObj.pair : WaitObj → Nat × Nat
  | .tokens set => (0, set.toNat)
  | .barrier n => (1, n.toNat)
  | .line a => (2, a)
  | .fifoEmpty f => (3, f)
  | .fifoFull f => (4, f)
  | .pool b => (5, b)
  | .queue => (6, 0)
  | .phaseBar w => (7, w.toNat)
  | .watch => (8, 0)
  | .fabric => (9, 0)
  | .host => (10, 0)
  | .copyQueue q => (11, q)
  | .fence => (12, 0)
  | .settle => (13, 0)
  | .fault => (14, 0)

/-- The object of a wait from its pair. -/
def WaitObj.ofPair (k a : Nat) : WaitObj :=
  match k with
  | 0 => .tokens (BitVec.ofNat 32 a)
  | 1 => .barrier (BitVec.ofNat 4 a)
  | 2 => .line a
  | 3 => .fifoEmpty a
  | 4 => .fifoFull a
  | 5 => .pool a
  | 6 => .queue
  | 7 => .phaseBar (BitVec.ofNat 64 a)
  | 8 => .watch
  | 9 => .fabric
  | 10 => .host
  | 11 => .copyQueue a
  | 12 => .fence
  | 13 => .settle
  | _ => .fault

def cWait : Codec Wait :=
  (cNats.and (cNat.opt.and (cBv 64).opt)).map (fun w => ([w.obj.pair.1, w.obj.pair.2, w.since, w.phase], w.limit, w.result))
    fun (l, limit, result) => { obj := .ofPair (nth l 0) (nth l 1), since := nth l 2, limit := limit, phase := nth l 3, result := result }

def cPois : Codec (Option (Nat × W64)) := (cNat.and (cBv 64)).opt

def cBlock : Codec Block :=
  (cNats.and (cPois.and ((cSparse (cBv 64)).and ((cSparse (cBv 64)).and (cNats.and cNats))))).map
    (fun b => ([b.disp, b.idx, b.tok, b.set.toNat, b.waiting.toNat, b.budget], b.pois, b.snap, b.later, b.unsure, b.after))
    fun (l, pois, snap, later, unsure, after) =>
      { disp := nth l 0, idx := nth l 1, tok := nth l 2, set := bvAt 32 l 3, waiting := bvAt 32 l 4, budget := nth l 5
        pois := pois, snap := snap, later := later, unsure := unsure, after := after }

def cPendW : Codec PendW :=
  (cNats.and (cSparse (cBv 32))).map (fun p => ([p.reg, p.left, p.chain], p.old))
    fun (l, old) => { reg := nth l 0, left := nth l 1, chain := nth l 2, old := old }

def cLoadE : Codec LoadE :=
  (cNats.and (cNats.and (cNat.opt.and (cSparse (cBv 32))))).map
    (fun e => ([e.op, e.tok, e.scal.toNat, e.reg, e.n, e.done.toNat, e.lanes.toNat, e.clob.toNat, e.oldS.toNat], e.isOver, e.cover, e.old))
    fun (l, isOver, cover, old) =>
      { op := nth l 0, tok := nth l 1, scal := flag l 2, reg := nth l 3, n := nth l 4, done := flag l 5, lanes := bvAt 1024 l 6
        clob := flag l 7, isOver := isOver, cover := cover, old := old, oldS := bvAt 64 l 8 }

def cFenceE : Codec FenceE := (cNats.and cBool).map (fun f => (f.cover, f.cst)) fun (c, b) => { cover := c, cst := b }

def cDirty : Codec Dirty :=
  cNats.map (fun e => [e.disp, e.isMask.toNat, e.reg, e.old.toNat, e.oldM.toNat])
    fun l => { disp := nth l 0, isMask := flag l 1, reg := nth l 2, old := bvAt 64 l 3, oldM := bvAt 1024 l 4 }

/-- What a watch entry holds beside its saved form. -/
def cWatch : Codec WatchE :=
  (cNats.and cBool.opt).map
    (fun e => ([e.id, e.page, e.struckSeal.toNat, e.rwc.toNat, e.disp, e.home, e.op], e.answer))
    fun (l, answer) =>
      { id := nth l 0, st := .unresolved, set := 0, isSealed := false, born := 0, line := 0, version := 0, epoch := 0, mask := 0
        page := nth l 1, struckSeal := flag l 2, answer := answer, rwc := bvAt 64 l 3, disp := nth l 4, home := nth l 5, op := nth l 6 }

/-- A lane instruction's fields. -/
def cLaneF : Codec LaneF :=
  cNats.map (fun f => [f.e.toNat, f.stall.toNat, f.ch.toNat, f.msk.toNat, f.dst.toNat, f.sa.toNat, f.sb.toNat, f.sc.toNat, f.md.toNat, f.imm.toNat])
    fun l => { e := flag l 0, stall := bvAt 4 l 1, ch := flag l 2, msk := bvAt 4 l 3, dst := bvAt 9 l 4, sa := bvAt 9 l 5
               sb := bvAt 9 l 6, sc := bvAt 9 l 7, md := bvAt 8 l 8, imm := bvAt 32 l 9 }

def cCmpdE : Codec CmpdE :=
  (cLaneF.and (cNats.and (cSparse (cBv 32)))).map
    (fun e => (e.f, [e.disp, e.act.toNat, e.left.toNat, e.hit.toNat], e.vals))
    fun (f, l, vals) => { f := f, disp := nth l 0, act := bvAt 1024 l 1, left := bvAt 1024 l 2, hit := bvAt 1024 l 3, vals := vals, vb := 0 }

/-- What a stream holds beside its saved form: the dispatch of its producer and the V registers that it follows. -/
def cFlow : Codec Link := cNats.map (fun k => k.disp :: k.vsrc) fun l => { Link.blank with disp := nth l 0, vsrc := l.drop 1 }

/-- What a team holds beside its record and its lane area. -/
def cTeam : Codec Team :=
  (cNats.and ((cSparse cNat).and (cWait.opt.and (cBlock.list.and (cBlock.list.and (cBlock.opt.and (cPendW.list.and (cLoadE.list.and
    (cDirty.list.and (cNats.and (cFenceE.list.and (cNats.and (cWatch.list.and (cCmpdE.list.and ((cSparse cFlow).and (cSparse cFlow)))))))))))))))).map
    (fun t =>
      let queued := t.queue.filterMap fun q => match q with
        | .block b => some { b with snap := [] }
        | .fmt _ => none
      ([t.launchBudget, t.disp, t.deadlineDue.toNat, t.lanes], t.tokDisp, t.wait, t.ended, queued, t.running.map fun b => { b with snap := [] },
        t.pend, t.loads, t.dirty, t.recon, t.fences, t.stack.map fun e => e.mark, t.watch, t.cmpd, t.links.filter fun p => p.2.st == .streaming || p.2.pend, t.vs))
    fun (l, tokDisp, wait, ended, queued, running, pend, loads, dirty, recon, fences, marks, watch, cmpd, links, vs) =>
      { Team.blank with
        launchBudget := nth l 0, disp := nth l 1, deadlineDue := flag l 2, lanes := nth l 3, tokDisp := tokDisp, wait := wait
        ended := ended, queue := queued.map .block, running := running, pend := pend, loads := loads, dirty := dirty, recon := recon
        fences := fences, watch := watch, cmpd := cmpd, links := links, vs := vs
        stack := marks.map fun m => { kind := .ifk, mask := 0, fmt := 0, start := 0, block := 0, cont := 0, mark := m } }

/-! ## The parts of a gang and of its member cores -/

def cBEv : Codec BEv :=
  (cNats.and cNats).map
    (fun e => (match e.kind with
      | .arrive b p => [e.mem, 0, b.toNat, p.toNat]
      | .join g => [e.mem, 1, g.toNat, 0]
      | .leave g => [e.mem, 2, g.toNat, 0]
      | .leaveAll => [e.mem, 3, 0, 0], e.after))
    fun (l, after) =>
      { mem := nth l 0, after := after
        kind := match nth l 1 with
          | 0 => .arrive (bvAt 4 l 2) (flag l 3)
          | 1 => .join (bvAt 3 l 2)
          | 2 => .leave (bvAt 3 l 2)
          | _ => .leaveAll }

def cMInstr : Codec MInstr :=
  (cNats.and (cNat.opt.and (cNats.and cNats))).map
    (fun i => ([i.seq, i.pc.toNat, i.word.toNat], i.ba.map BitVec.toNat, i.left, i.ops))
    fun (l, ba, left, ops) => { seq := nth l 0, pc := bvAt 64 l 1, word := bvAt 64 l 2, ba := ba.map (BitVec.ofNat 4), left := left, ops := ops }

/-- What a gang holds beside the header, the sequencer and the gang section. -/
def cGang : Codec Gang :=
  (cNats.and (cWait.opt.and (cBEv.list.and (cMInstr.list.and (cSparse (cNats.and cNat.opt)))))).map
    (fun g => ([g.secLo, g.secHi, g.mseq, g.interval.toNat, g.ckCount, g.suspended.toNat], g.swait, g.bevents, g.minstrs,
      g.bars.map fun p => (p.1, p.2.poisoned.map BitVec.toNat, p.2.rebind.map BitVec.toNat)))
    fun (l, swait, bevents, minstrs, bars) =>
      { Gang.blank with
        secLo := nth l 0, secHi := nth l 1, mseq := nth l 2, interval := bvAt 32 l 3, ckCount := nth l 4, suspended := flag l 5
        swait := swait, bevents := bevents, minstrs := minstrs
        bars := bars.map fun p =>
          (p.1, { Bar.blank with poisoned := p.2.1.map (BitVec.ofNat 32), rebind := p.2.2.map (BitVec.ofNat 3) }) }

def cMIns : Codec MIns :=
  cNats.map
    (fun i => [i.seq, i.opc, i.kv.toNat, i.nv.toNat, i.nv2.toNat, i.f.c.toNat, i.f.fa.toNat, i.f.fb.toNat, i.f.k.toNat, i.f.ifmt.toNat,
      i.f.hold.toNat, i.f.epi.toNat, i.f.bw.toNat, i.f.ba.toNat, i.f.imm.toNat])
    fun l =>
      { seq := nth l 0, opc := nth l 1, kv := bvAt 48 l 2, nv := bvAt 32 l 3, nv2 := bvAt 32 l 4
        f := { c := bvAt 8 l 5, fa := bvAt 3 l 6, fb := bvAt 3 l 7, k := bvAt 3 l 8, ifmt := bvAt 4 l 9, hold := bvAt 2 l 10
               epi := bvAt 6 l 11, bw := bvAt 5 l 12, ba := bvAt 5 l 13, imm := bvAt 17 l 14 } }

/-- What a gang holds on a member core beside the FIFO, scratchpad, accumulator and debug sections. -/
def cMember : Codec Member :=
  ((cSparse cNat).and ((cSparse cNats).and ((cNat.and cWord.list).list.and (cMIns.list.and (cNat.opt.and (cNat.opt.and (cNats.and
    (cSparse (cNat.opt.and (cSparse cNat)))))))))).map
    (fun m => (m.tag, m.queues, m.bcache, m.mq, m.mheld, m.mskip, m.vq,
      m.fifos.map fun p => (p.1, p.2.cbld.map fun c => c.2.2, p.2.entries.map fun e => (e.1, e.2.got))))
    fun (tag, queues, bcache, mq, mheld, mskip, vq, fifos) =>
      { Member.blank with
        tag := tag, queues := queues, bcache := bcache, mq := mq, mheld := mheld, mskip := mskip, vq := vq
        fifos := fifos.map fun p => (p.1, { Fifo.blank with
          cbld := p.2.1.map fun o => (0, [], o)
          entries := p.2.2.map fun e => (e.1, { elems := [], got := e.2, landed := false, pois := false, origin := 0 }) }) }

/-! ## Operations -/

def OpKind.pair : OpKind → Nat × Nat
  | .sldg w => (0, w.toNat)
  | .sstg w => (1, w.toNat)
  | .vld => (2, 0)
  | .vst => (3, 0)
  | .vlds => (4, 0)
  | .vamo => (5, 0)
  | .vrmo => (6, 0)
  | .vprf => (7, 0)
  | .copy => (8, 0)
  | .cbld f => (9, f)
  | .cpbi => (10, 0)
  | .xred => (11, 0)
  | .xgat => (12, 0)
  | .xa2a => (13, 0)
  | .pinit => (14, 0)
  | .pexp => (15, 0)
  | .parr => (16, 0)
  | .texp td => (17, td)
  | .trig => (18, 0)
  | .seal => (19, 0)
  | .unseal => (20, 0)
  | .vref => (21, 0)
  | .mepi => (22, 0)
  | .credit => (23, 0)

def OpKind.ofPair (k a : Nat) : OpKind :=
  match k with
  | 0 => .sldg (a == 1)
  | 1 => .sstg (a == 1)
  | 2 => .vld
  | 3 => .vst
  | 4 => .vlds
  | 5 => .vamo
  | 6 => .vrmo
  | 7 => .vprf
  | 8 => .copy
  | 9 => .cbld a
  | 10 => .cpbi
  | 11 => .xred
  | 12 => .xgat
  | 13 => .xa2a
  | 14 => .pinit
  | 15 => .pexp
  | 16 => .parr
  | 17 => .texp a
  | 18 => .trig
  | 19 => .seal
  | 20 => .unseal
  | 21 => .vref
  | 22 => .mepi
  | _ => .credit

def ReqSt.triple : ReqSt → Nat × Nat × Nat
  | .ready => (0, 0, 0)
  | .parked t => (1, t, 0)
  | .line => (2, 0, 0)
  | .home w => (3, w, 0)
  | .port => (4, 0, 0)
  | .performed => (5, 0, 0)
  | .held w => (6, w, 0)
  | .merged o r => (7, o, r)
  | .done => (8, 0, 0)

def ReqSt.ofTriple (k a b : Nat) : ReqSt :=
  match k with
  | 0 => .ready
  | 1 => .parked a
  | 2 => .line
  | 3 => .home a
  | 4 => .port
  | 5 => .performed
  | 6 => .held a
  | 7 => .merged a b
  | _ => .done

def cBytes : Codec (List Byte) := (cBv 8).list

def cReq : Codec Req :=
  (cNats.and (cBytes.and cBytes)).map
    (fun q => ([q.id, q.addr, q.n, q.pois.toNat, q.count, q.stage, q.dst, q.st.triple.1, q.st.triple.2.1, q.st.triple.2.2, q.cause.toNat],
      q.data, q.cmp))
    fun (l, data, cmp) =>
      { id := nth l 0, addr := nth l 1, n := nth l 2, pois := flag l 3, count := nth l 4, stage := nth l 5, dst := nth l 6
        st := .ofTriple (nth l 7) (nth l 8) (nth l 9), cause := bvAt 8 l 10, data := data, cmp := cmp }

def cOp : Codec Op :=
  (cNats.and (cPois.and (cNats.and (cWord.list.and (cNats.and (cNats.and (cNats.and ((cNat.and cNat).list.and cReq.list)))))))).map
    (fun x => ([x.kind.pair.1, x.kind.pair.2, x.gang, x.team, x.member, x.tok, x.queue, x.pc.toNat, x.word.toNat, x.wordh.toNat, x.lidx,
        x.waiting.toNat, x.a.toNat, x.b.toNat, x.reg, x.width, x.aop, x.md.toNat, x.xm.toNat, x.disp, x.cov.toNat, x.started.toNat, x.pos,
        x.attempt, x.failed.toNat, x.cause.toNat, x.origin.toNat, x.credited, x.pos2, x.rwc.toNat, x.finished.toNat],
      x.pois, x.after, x.snap, x.applied, x.commit, x.list, x.neg, x.reqs))
    fun (l, pois, after, snap, applied, commit, list, neg, reqs) =>
      { kind := .ofPair (nth l 0) (nth l 1), gang := nth l 2, team := nth l 3, member := nth l 4, tok := nth l 5, queue := nth l 6
        pc := bvAt 64 l 7, word := bvAt 64 l 8, wordh := bvAt 32 l 9, lidx := nth l 10, waiting := bvAt 32 l 11, a := bvAt 64 l 12
        b := bvAt 64 l 13, reg := nth l 14, width := nth l 15, aop := nth l 16, md := bvAt 8 l 17, xm := bvAt 8 l 18, disp := nth l 19
        cov := flag l 20, started := flag l 21, pos := nth l 22, attempt := nth l 23, failed := flag l 24, cause := bvAt 8 l 25
        origin := bvAt 64 l 26, credited := nth l 27, pos2 := nth l 28, rwc := bvAt 64 l 29, finished := flag l 30, skid := 0
        pois := pois, after := after, snap := snap, applied := applied, commit := commit, list := list, neg := neg, reqs := reqs }

/-! ## The rest of an image -/

/-- What an image holds beside the sections of spec/07 R140 to R142, and whether its context had halted on a fatal fault. -/
def cImage : Codec (Bool × Image) :=
  (cBool.and (cGang.and ((cSparse cTeam).and ((cSparse cMember).and (cSparse cOp))))).map
    (fun p => (p.1, p.2.gang, p.2.teams, p.2.members, p.2.ops))
    fun (fatal, gang, teams, members, ops) =>
      (fatal, { kind := 0, gangKey := 0, gang := gang, teams := teams, members := members, ops := ops, journal := [] })

end Sys2Proof.Machine
end

