-- ==== Sys2Proof/Machine/LaneFloat.lean ====
section
/-! DEFINITION. The float lane instructions, their links and digits, early decisions and trims (spec/04 R84 to R92,
spec/20 R328 to R336). -/

namespace Sys2Proof.Machine

/-- The format of a float instruction: 0 FP32, 1 `.f16x2`, 2 `.b16x2`, 3 reserved (spec/01 R17, spec/02 R41). -/
def State.floatCode (s : State) (f : LaneF) : Nat := if f.hi2 = 0 then bits s.tm.fmt.toNat 2 2 else f.hi2 - 1
/-- The rounding mode of a float instruction. -/
def State.floatMode (s : State) (f : LaneF) : RMode :=
  if f.up3 = 0 then .ofCode (bits s.tm.fmt.toNat 0 2) else .ofCode (f.up3 - 1)

/-- A paired format from FMT with a link operand or a chain (spec/04 R84): a combination that is not admitted. -/
def State.badPair (s : State) (sp : LSpec) (f : LaneF) : Bool :=
  (s.floatCode f == 1 || s.floatCode f == 2) && (linkOperand sp f || f.ch)

/-- Apply a function on codes of the format: to the whole value, or to each half by itself (spec/04 R84). -/
def perHalf (code : Nat) (g : FFmt → Nat → Nat → Nat → Nat) (a b c : W32) : W32 :=
  if code = 0 then BitVec.ofNat 32 (g f32 a.toNat b.toNat c.toNat)
  else
    let fm := if code = 1 then f16 else b16
    let h (i : Nat) : Nat := g fm (bits a.toNat (16 * i) 16) (bits b.toNat (16 * i) 16) (bits c.toNat (16 * i) 16)
    BitVec.ofNat 32 (h 0 + 2 ^ 16 * h 1)

/-- The stream of a value that a producer with these sources begins (spec/20 R331, R337): a link that still streams is taken by
reference, and with CH a V register whose result is on its way. -/
def Team.startLink (t : Team) (opc rm disp : Nat) (sp : LSpec) (f : LaneF) (l : Nat) (va vb vc r : W32) : Link :=
  let reads (role : Role) : Bool := role == .src || role == .link
  let tag (role : Role) (c : BitVec 9) : BitVec 4 :=
    if !reads role then 0
    else if codeIn c 256 263 && (t.getL (c.toNat - 256) l).st == .streaming then BitVec.ofNat 4 (8 + (c.toNat - 256))
    else 1
  let value (role : Role) (v : W32) : W32 := if reads role then v else 0
  let flow (p : Role × BitVec 9) : Bool := f.ch && reads p.1 && decide (p.2.toNat < 256) && (t.vs.find? (p.2.toNat * 1024 + l)).isSome
  if (chainOf opc).isNone then { Link.blank with st := .complete, hdr := true, value := r }
  else { Link.blank with st := .streaming, value := r, rm := BitVec.ofNat 3 (rm + 1), opc := BitVec.ofNat 10 opc, disp := disp,
                         srcA := value sp.a va, srcB := value sp.b vb, srcC := value sp.c vc, tagA := tag sp.a f.sa,
                         tagB := tag sp.b f.sb, tagC := tag sp.c f.sc,
                         vsrc := (([(sp.a, f.sa), (sp.b, f.sb), (sp.c, f.sc)].filter flow).map fun p => p.2.toNat).eraseDups }

/-- Streams of a register begin in lanes (spec/04 R89, spec/20 R331). -/
def State.writeStream (s : State) (y : Nat) (lanes : List Nat) (mk : Nat → Link) : State :=
  let s := s.modTm fun t => lanes.foldl (fun (x : Team) l => x.setStream y l (mk l)) t
  s.push (lanes.map fun l => .event .digitArrival { Args.none with x := s.cur, y := y, z := l })

/-- The code of a mode (spec/01 R17). -/
def RMode.code (m : RMode) : Nat :=
  match m with
  | .rne => 0
  | .rtz => 1
  | .rup => 2
  | .rdn => 3

/-- A float instruction by its function on format, mode and codes. A reader with CH takes a link as it streams; VFCLS
takes its header (spec/04 R84, R88, R89, spec/20 R331). -/
def laneFloat (opc : Nat) (g : FFmt → RMode → Nat → Nat → Nat → Nat) (f : LaneF) (s : State) : Out :=
  match laneSpec opc with
  | none => .next s
  | some sp =>
    let src := regCodes { sp with d := .none } f
    let stream := f.ch && (chainOf opc).isSome
    let isLink (c : Nat) : Bool := decide (256 ≤ c) && decide (c < 264)
    let whole := if stream || opc = 0x051 then src.filter fun c => !isLink c else src
    let reads (t : Team) (eff : Mask) : List (Nat × List Nat) := whole.map fun c => (c, lanesOf eff t.width)
    s.laneFrame f opc (s.badPair sp f) (s.floatCode f == 3) (regCodes sp f) reads true fun b view eff s =>
      let lanes := lanesOf eff s.tm.width
      if opc = 0x051 && isLink f.sa.toNat && lanes.any (fun l =>
          let k := view.getL (f.sa.toNat - 256) l
          k.st == .streaming && !k.hdr) then stall s
      else
        let code := s.floatCode f
        let mode := s.floatMode f
        let r := s.laneCycle src
        let s := r.2
        let at_ (c : BitVec 9) (l : Nat) : W32 := s.operand view b f r.1 c.toNat l
        let val (l : Nat) : W32 := perHalf code (fun fm => g fm mode) (at_ f.sa l) (at_ f.sb l) (at_ f.sc l)
        let lat := latencyOf opc
        let chain := if code = 0 then (chainOf opc).getD lat else lat
        let d := f.dst.toNat
        let mk (l : Nat) : Link := s.tm.startLink opc mode.code b.disp sp f l (at_ f.sa l) (at_ f.sb l) (at_ f.sc l) (val l)
        let flows := code = 0 ∧ (chainOf opc).isSome ∧ d < 256 ∧ f.stall ≠ 0 ∧ f.stall.toNat < lat
        let s :=
          if isLink d then s.writeStream (d - 256) lanes mk
          else
            let s := s.modTm fun t => t.writeReg b.disp d lanes val lat (if d < 256 then chain else lat)
            if flows then s.writeStream (16 + d) lanes mk else s
        .next (s.laneRetire b f (skipped eff s.tm.width) none)

/-! ## The functions (spec/04 R85 to R88) -/

def fAdd (x : FFmt) (m : RMode) (a b _ : Nat) : Nat := x.add m (x.value a) (x.value b)
def fSub (x : FFmt) (m : RMode) (a b _ : Nat) : Nat := x.add m (x.value a) (x.value b).negate
def fMul (x : FFmt) (m : RMode) (a b _ : Nat) : Nat := x.mul m (x.value a) (x.value b)
def fMa (x : FFmt) (m : RMode) (a b c : Nat) : Nat := x.fused m ((x.value a).times (x.value b)) (x.value c)
def fMs (x : FFmt) (m : RMode) (a b c : Nat) : Nat := x.fused m ((x.value a).times (x.value b)) (x.value c).negate
def fNma (x : FFmt) (m : RMode) (a b c : Nat) : Nat := x.fused m ((x.value a).times (x.value b)).negate (x.value c)
def fMin (x : FFmt) (_ : RMode) (a b _ : Nat) : Nat := x.minMax false a b
def fMax (x : FFmt) (_ : RMode) (a b _ : Nat) : Nat := x.minMax true a b
def fDiv (x : FFmt) (m : RMode) (a b _ : Nat) : Nat := x.div m (x.value a) (x.value b)
def fSqrt (x : FFmt) (m : RMode) (a _ _ : Nat) : Nat := x.sqrt m (x.value a)
def fRcp (x : FFmt) (m : RMode) (a _ _ : Nat) : Nat := x.div m (Num.ofInt 1) (x.value a)
def fRsq (x : FFmt) (m : RMode) (a _ _ : Nat) : Nat := x.rsqrt m (x.value a)
def fAbs (x : FFmt) (_ : RMode) (a _ _ : Nat) : Nat := x.absolute a
def fNeg (x : FFmt) (_ : RMode) (a _ _ : Nat) : Nat := x.negated a
def fExp2 (x : FFmt) (m : RMode) (a _ _ : Nat) : Nat := x.exp2 m (x.value a)
def fLog2 (x : FFmt) (m : RMode) (a _ _ : Nat) : Nat := x.log2 m (x.value a)

def execVfadd (f : LaneF) (s : State) : Out := laneFloat 0x040 fAdd f s
def execVfsub (f : LaneF) (s : State) : Out := laneFloat 0x041 fSub f s
def execVfmul (f : LaneF) (s : State) : Out := laneFloat 0x042 fMul f s
def execVfma (f : LaneF) (s : State) : Out := laneFloat 0x043 fMa f s
def execVfms (f : LaneF) (s : State) : Out := laneFloat 0x044 fMs f s
def execVfnma (f : LaneF) (s : State) : Out := laneFloat 0x045 fNma f s
def execVfmin (f : LaneF) (s : State) : Out := laneFloat 0x046 fMin f s
def execVfmax (f : LaneF) (s : State) : Out := laneFloat 0x047 fMax f s
def execVfdiv (f : LaneF) (s : State) : Out := laneFloat 0x048 fDiv f s
def execVfsqrt (f : LaneF) (s : State) : Out := laneFloat 0x049 fSqrt f s
def execVfrcp (f : LaneF) (s : State) : Out := laneFloat 0x04A fRcp f s
def execVfrsq (f : LaneF) (s : State) : Out := laneFloat 0x04B fRsq f s
def execVfabs (f : LaneF) (s : State) : Out := laneFloat 0x04C fAbs f s
def execVfneg (f : LaneF) (s : State) : Out := laneFloat 0x04D fNeg f s
/-- VFCMP: the comparison code stands in place of a rounding code (spec/04 R87). -/
def execVfcmp (f : LaneF) (s : State) : Out :=
  laneFloat 0x04E (fun x _ a b _ => if floatRel f.up3 (x.value a) (x.value b) then 2 ^ x.width - 1 else 0) f s
def execVfcls (f : LaneF) (s : State) : Out := laneFloat 0x051 (fun x _ a _ _ => 2 ^ x.classBit a) f s
def execVfexp2 (f : LaneF) (s : State) : Out := laneFloat 0x052 fExp2 f s
def execVflog2 (f : LaneF) (s : State) : Out := laneFloat 0x053 fLog2 f s

/-- The function of a producer by its opcode, for a stream that goes on from its saved form (spec/20 R337). -/
def streamFn (opc : Nat) : FFmt → RMode → Nat → Nat → Nat → Nat :=
  match opc with
  | 0x040 => fAdd
  | 0x041 => fSub
  | 0x042 => fMul
  | 0x043 => fMa
  | 0x044 => fMs
  | 0x045 => fNma
  | 0x046 => fMin
  | 0x047 => fMax
  | 0x048 => fDiv
  | 0x049 => fSqrt
  | 0x04A => fRcp
  | 0x04B => fRsq
  | 0x04C => fAbs
  | 0x04D => fNeg
  | 0x052 => fExp2
  | _ => fLog2

/-! ## Digits, early decisions and trims (spec/04 R90 to R92, spec/20 R330, R334, R335) -/

/-- DIGIT_ARRIVAL (spec/20 R330, R334, R335): one slot of a stream, and what it lets decide; a producer whose link is trimmed goes on
only while a reader needs it. -/
def execDigitArrival (s : State) : Out :=
  let t := s.arg.x
  let y := s.arg.y
  let l := s.arg.z
  let tm := s.team t
  let k := tm.stream y l
  if !k.live then .next s
  else if (s.gang (gangOf t)).st != .resident || tm.laneStopped then .next (s.defer .digitArrival)
  else if k.pend && !tm.wanted y l then .next (s.modTeam t fun x => x.setStream y l k.finish)
  else if !tm.sourcesReady k l then .next (s.defer .digitArrival)
  else
    let k' := k.grow (BitVec.ofNat 3 s.arg.u)
    let s := s.modTeam t fun x =>
      let x := (x.setStream y l k').decideIn [l]
      if !k'.isOver then x else if y < 16 then x.setStream y l (x.stream y l).finish else x.endStream (y - 16) l
    .next (if ((s.team t).stream y l).live then s.defer .digitArrival else s)

/-- VFCMPD (spec/04 R90, R91): lanes that can decide now do, the others with the slots that are still to come. -/
def execVfcmpd (f : LaneF) (s : State) : Out :=
  match laneSpec 0x04F with
  | none => .next s
  | some sp =>
    let isLink (c : Nat) : Bool := decide (256 ≤ c) && decide (c < 264)
    let c := f.sb.toNat
    let src := if isLink c then [] else [c]
    let reads (t : Team) (eff : Mask) : List (Nat × List Nat) := src.map fun x => (x, lanesOf eff t.width)
    s.laneFrame f 0x04F (s.floatCode f != 0) false (regCodes sp f) reads false fun b view eff s =>
      let lanes := lanesOf eff s.tm.width
      let r := s.laneCycle src
      let s := r.2
      let flow (l : Nat) : Bool := f.ch && decide (c < 256) && (s.tm.vs.find? (c * 1024 + l)).isSome
      let e : CmpdE :=
        { f := f, disp := b.disp, act := maskOf lanes, left := maskOf lanes, hit := 0, vb := maskOf (lanes.filter flow)
          vals := if isLink c then [] else lanes.foldl (fun (m : Sparse W32) l => m.set l (s.operand view b f r.1 c l)) [] }
      let s := s.modTm fun t =>
        let n := t.cmpd.length
        (lanes.foldl (fun (x : Team) l => x.decideAt true n l) { t with cmpd := t.cmpd ++ [e] }).cmpdWrite
      .next (s.laneRetire b f (skipped eff s.tm.width) none)

/-- VTRIM (spec/04 R92). -/
def execVtrim (f : LaneF) (s : State) : Out :=
  s.laneFrame f 0x050 false false [] (fun _ _ => []) false fun b _ eff s =>
    let lanes := lanesOf eff s.tm.width
    let s := s.modTm fun t => lanes.foldl (fun (t : Team) l => t.trim (f.sa.toNat - 256) l) t
    .next (s.laneRetire b f (skipped eff s.tm.width) none)

end Sys2Proof.Machine
end

