-- ==== Sys2Proof/Machine/MatArith.lean ====
section
/-! DEFINITION. Tile arithmetic, the top-k order and the epilogue's arithmetic (spec/08 R171 to R176, spec/10 R194 to
R204). -/

namespace Sys2Proof.Machine

/-! ## Operand elements (spec/10 R194) -/

/-- The element class of the A operand under an input format: codes 2 and 4 both name E4M3, 3 and 5 both E5M2. -/
def aClass (ifmt : Nat) : Nat := if ifmt = 4 then 2 else if ifmt = 5 then 3 else ifmt
/-- The element class of the B operand. -/
def bClass (ifmt : Nat) : Nat := if ifmt = 4 then 3 else if ifmt = 5 then 2 else ifmt

/-- The exact value of an operand's code; a CB4 code goes through its FIFO's codebook. -/
def operandValue (cls : Nat) (book : List (BitVec 16)) (c : Nat) : Num :=
  match cls with
  | 0 => f16.value c
  | 1 => b16.value c
  | 2 => e4m3.value c
  | 3 => e5m2.value c
  | _ => b16.value (listGet 0 book c).toNat

/-- A signed byte. -/
def byteInt (c : Nat) : Int := (BitVec.ofNat 8 c).toInt

/-! ## Masks (spec/01 R20) -/

/-- Row i, column j and depth slice k of a K mask. -/
def kRow (k : BitVec 48) (i : Nat) : Bool := k.getLsbD i
def kCol (k : BitVec 48) (j : Nat) : Bool := k.getLsbD (16 + j)
def kDep (k : BitVec 48) (d : Nat) : Bool := k.getLsbD (32 + d)
/-- The element with a row-major index is under the row and column masks. -/
def kElem (k : BitVec 48) (n : Nat) : Bool := kRow k (n / 16) && kCol k (n % 16)
/-- Rows and columns are all ones. -/
def kFull (k : BitVec 48) : Bool := k.truncate 32 == BitVec.allOnes 32
/-- The enabled depth slices. -/
def kSlices (k : BitVec 48) : List Nat := (List.range 16).filter (kDep k)

/-! ## Tile sums (spec/10 R195 to R199) -/

/-- (a − b)² as an exact value over 2^298; a NaN for an invalid difference. -/
def Num.distance (a b : Num) : Num :=
  match a, b with
  | .nan, _ => .nan
  | _, .nan => .nan
  | .inf s, .inf t => if s = t then .nan else .inf false
  | .inf _, .fin _ _ => .inf false
  | .fin _ _, .inf _ => .inf false
  | .fin s n, .fin t k => let d := (signedNat s n - signedNat t k).natAbs; .fin false (d * d)

/-- The exact sum of terms over 2^298: a NaN where a term is one or infinities of both signs stand; an exact zero is
negative only where every term is −0 (spec/10 R196, R197). -/
def termSum (l : List Num) : Num :=
  if l.any (· == .nan) || (l.contains (.inf true) && l.contains (.inf false)) then .nan
  else if l.contains (.inf true) then .inf true
  else if l.contains (.inf false) then .inf false
  else
    let v := l.foldl (fun (a : Int) t => match t with
      | .fin s n => a + signedNat s n
      | _ => a) 0
    let neg := if v = 0 then l.all (· == .fin true 0) else decide (v < 0)
    .fin neg v.natAbs

/-- Round a tile sum over 2^298 once: RNE to 24 bits with an unbounded exponent, then infinity from 2^128 on and zero
below 2^-126, which sets UNDERFLOW (spec/10 R195). -/
def tileRound (v : Num) : W32 × Bool :=
  match v with
  | .nan => (0x7FC00000, false)
  | .inf s => (BitVec.ofNat 32 (f32.infinity s), false)
  | .fin s n =>
    let k := n.log2 - 23
    let r := RMode.whole .rne s n (2 ^ k) * 2 ^ k
    if n = 0 then (BitVec.ofNat 32 (f32.zero s), false)
    else if 2 ^ 426 ≤ r then (BitVec.ofNat 32 (f32.infinity s), false)
    else if r < 2 ^ 172 then (BitVec.ofNat 32 (f32.zero s), true)
    else (BitVec.ofNat 32 (f32.round .rne false s r (2 ^ 298)), false)

/-- One float element: the accumulator's value, none for MMAZ, and the pairs of its enabled slices. -/
def floatElem (dist : Bool) (c : Option W32) (l : List (Num × Num)) : W32 × Bool :=
  let acc : Num := match c with
    | none => .fin false 0
    | some x => (f32.value x.toNat).times (.fin false (2 ^ 149))
  tileRound (termSum (acc :: l.map fun p => if dist then p.1.distance p.2 else p.1.times p.2))

/-- One INT8 element: exact, then modulo 2^32 (spec/10 R199). -/
def intElem (dist : Bool) (c : W32) (l : List (Int × Int)) : W32 :=
  BitVec.ofInt 32 (c.toInt + l.foldl (fun a p => a + if dist then (p.1 - p.2) * (p.1 - p.2) else p.1 * p.2) 0)

/-- The operand pairs of element (i, j) over the enabled slices. -/
def slicePairs {α : Type} (d : α) (k : BitVec 48) (a b : List α) (i j : Nat) : List (α × α) :=
  (kSlices k).map fun t => (listGet d a (16 * i + t), listGet d b (16 * t + j))

/-- The elements of a tile after MMA, MMAZ or MDIST, and whether one was flushed (spec/08 R172). -/
def mmaElems (dist z : Bool) (ifmt : Nat) (k : BitVec 48) (c : List W32) (a b : List Nat) (booka bookb : List (BitVec 16)) :
    List (W32 × Bool) :=
  let an := a.map (operandValue (aClass ifmt) booka)
  let bn := b.map (operandValue (bClass ifmt) bookb)
  let ai := a.map byteInt
  let bi := b.map byteInt
  (List.range 256).map fun n =>
    let old := listGet 0 c n
    if !kElem k n then (if z then 0 else old, false)
    else if ifmt = 6 then (intElem dist (if z then 0 else old) (slicePairs 0 k ai bi (n / 16) (n % 16)), false)
    else floatElem dist (if z then none else some old) (slicePairs (.fin false 0) k an bn (n / 16) (n % 16))

/-! ## Top-k order (spec/10 R200) -/

/-- Entry `a` stands strictly before entry `b`: by value, then by ascending index. Stored bits that are no number under
an FP32 merge have no stated place (DESIGN CHOICE, log entry 6). -/
def topBefore (isInt largest : Bool) (a b : W32 × W32) : Bool :=
  let idx := decide (a.2.toNat < b.2.toNat)
  if isInt then
    if a.1 = b.1 then idx else if largest then decide (b.1.toInt < a.1.toInt) else decide (a.1.toInt < b.1.toInt)
  else
    match (f32.value a.1.toNat).compare (f32.value b.1.toNat) with
    | some (lt, eq) => if eq then idx else if largest then !lt else lt
    | none => Config.topFirst a b

/-- Insert an entry after those that it does not strictly precede. -/
def topInsert (isInt largest : Bool) (e : W32 × W32) : List (W32 × W32) → List (W32 × W32)
  | [] => [e]
  | x :: l => if topBefore isInt largest e x then e :: x :: l else x :: topInsert isInt largest e l

/-- Merge new entries into a row's set and keep the first `k`. -/
def topMerge (isInt largest : Bool) (k : Nat) (old new : List (W32 × W32)) : List (W32 × W32) :=
  ((old ++ new).foldl (fun l e => topInsert isInt largest e l) []).take k

/-- The entries that row i of a tile brings: not the NaNs, with their indexes from `base` on (spec/08 R174). -/
def topRow (isInt : Bool) (k : BitVec 48) (elems : List W32) (base : W32) (i : Nat) : List (W32 × W32) :=
  (List.range 16).filterMap fun j =>
    let v := listGet 0 elems (16 * i + j)
    if kCol k j && (isInt || f32.value v.toNat != .nan) then some (v, base + BitVec.ofNat 32 j) else none

/-! ## The epilogue (spec/10 R201 to R204) -/

/-- A value in the epilogue: FP32 bits, or an INT32 element that no stage has converted. -/
inductive EVal where
  | float (c : Nat)
  | int (v : Int)
deriving DecidableEq, Repr

/-- The exact value. -/
def EVal.num : EVal → Num
  | .float c => f32.value c
  | .int v => Num.ofInt v
/-- FP32 bits, an integer converted with RNE. -/
def EVal.bits32 : EVal → Nat
  | .float c => c
  | .int v => f32.convert .rne false (Num.ofInt v)

/-- A used endpoint as a result. -/
def endPoint (e : W32) : Nat := if f32.value e.toNat = .nan then f32.nan else e.toNat

/-- Between two finite endpoints, at num/den of the way: one rounding of the exact value. -/
def between (s0 : Bool) (n0 : Nat) (s1 : Bool) (n1 : Nat) (num den : Nat) : Nat :=
  let v := signedNat s0 n0 * ((den : Int) - num) + signedNat s1 n1 * num
  f32.result .rne (decide (v < 0)) false v.natAbs (2 ^ 149 * den)

/-- ACT: the segment-linear value of the table at x (spec/08 R175, spec/10 R202). `tab` holds lo, hi and the endpoints. -/
def actValue (tab : List W32) (x : Nat) : Nat :=
  let e (i : Nat) : W32 := listGet 0 tab (2 + i)
  match f32.value x, f32.value (listGet 0 tab 0).toNat, f32.value (listGet 0 tab 1).toNat with
  | .nan, _, _ => f32.nan
  | v, .fin ls ln, .fin hs hn =>
    let lo := signedNat ls ln
    let hi := signedNat hs hn
    if hi ≤ lo then endPoint (e 0)
    else
      (match v with
       | .inf true => endPoint (e 0)
       | .inf false => endPoint (e 64)
       | .fin s n =>
         let y := signedNat s n
         if y ≤ lo then endPoint (e 0)
         else if hi ≤ y then endPoint (e 64)
         else
           let d := (hi - lo).natAbs
           let p := 64 * (y - lo).natAbs
           let i := p / d
           if p % d = 0 then endPoint (e i)
           else
             (match f32.value (e i).toNat, f32.value (e (i + 1)).toNat with
              | .nan, _ => f32.nan
              | _, .nan => f32.nan
              | .inf a, .inf b => if a = b then f32.infinity a else f32.nan
              | .inf a, .fin _ _ => f32.infinity a
              | .fin _ _, .inf b => f32.infinity b
              | .fin s0 n0, .fin s1 n1 => between s0 n0 s1 n1 (p % d) d)
       | .nan => f32.nan)
  | _, _, _ => endPoint (e 0)

/-- RQ to INT8 (spec/10 R203). -/
def requantInt (x scale : Num) (zp : Int) : Nat :=
  match x.times scale with
  | .nan => 0
  | .inf s => if s then 0x80 else 0x7F
  | .fin s n =>
    let q := signedNat s (RMode.whole .rne s n (2 ^ 298)) + zp
    (BitVec.ofInt 8 (if q < -128 then -128 else if 127 < q then 127 else q)).toNat

/-- The stages of an epilogue: bits of EPI (spec/08 R176). -/
structure Stages where
  bias : Bool
  act : Bool
  rq : Bool
  maskw : Bool
  out : Bool
  zero : Bool
deriving DecidableEq, Repr

/-- The stages that EPI names. -/
def stagesOf (epi : BitVec 6) : Stages :=
  { bias := epi.getLsbD 5, act := epi.getLsbD 4, rq := epi.getLsbD 3, maskw := epi.getLsbD 2, out := epi.getLsbD 1,
    zero := epi.getLsbD 0 }

/-- Bytes of a written element (spec/10 R204). -/
def ofmtBytes (ofmt : Nat) : Nat :=
  match ofmt with
  | 0 => 4
  | 4 => 2
  | 5 => 2
  | _ => 1

/-- One element through the stages of MEPI: the code that is written, in the output format (spec/10 R201 to R204). -/
def epilogue (st : Stages) (ofmt : Nat) (sat isInt : Bool) (bias tab scl : List W32) (j : Nat) (c : W32) : Nat :=
  let x : EVal := if isInt && !st.bias && !st.act && st.out then .int c.toInt
    else if isInt then .float (f32.convert .rne false (Num.ofInt c.toInt)) else .float c.toNat
  let x : EVal := if st.bias then .float (f32.add .rne x.num (f32.value (listGet 0 bias j).toNat)) else x
  let x : EVal := if st.act then .float (actValue tab x.bits32) else x
  match ofmt with
  | 0 => (match x with
    | .float c => c
    | .int v => (BitVec.ofInt 32 v).toNat)
  | 1 => requantInt x.num (f32.value (listGet 0 scl j).toNat) (listGet 0 scl (16 + j)).toInt
  | 2 => e4m3.convert .rne sat x.num
  | 3 => e5m2.convert .rne sat x.num
  | 4 => f16.convert .rne sat x.num
  | _ => b16.convert .rne sat x.num

end Sys2Proof.Machine
end

