-- ==== Sys2Proof/Machine/MatrixEngine.lean ====
section
/-! DEFINITION. The matrix engine of a member core: it executes what the sequencer has sent it in issue order, and waits
on its own FIFOs and lines (spec/08 R169 to R176, R181, spec/11 R209, R215). -/

namespace Sys2Proof.Machine

/-! ## What an engine needs of its gang -/

/-- The engine goes on: its gang is resident and not stopped, or is replayed (spec/16 R289, spec/24 R369). -/
def State.engineLive (s : State) (mk : Nat) : Bool :=
  let g := mk / 4
  (s.gang g).st == .resident && (!(s.member mk).stopped || s.replaying g) && match s.ctxs.find? (ctxOf g) with
    | some c => (c.st != .stopped && c.st != .ended) || s.replaying g
    | none => false

/-- The sequencer's poison flag is set, with the origin of the first poison met while it is clear (spec/08 R181). -/
def Gang.meet (g : Gang) (o : W64) : Gang := if g.spois then g else { g with spois := true, sorigin := o }

/-- Set the flag of a gang where something is poisoned. -/
def State.meetPoison (s : State) (g : Nat) (pois : Bool) (o : W64) : State :=
  if pois then s.modGang g fun x => x.meet o else s

/-- An origin that the sequencer makes: UNIT 4, the member core, no team or token (spec/08 R181). -/
def State.seqOrigin (s : State) (mk errseq : Nat) : W64 := originWord 4 (s.coreNum (mk / 4) (mk % 4)) 0 0 0 0 errseq

/-- Write a tile. -/
def Member.setTile (m : Member) (n : Nat) (t : Tile) : Member := { m with tiles := m.tiles.set n t }
/-- Write a tile of a member core. -/
def State.setTile (s : State) (mk n : Nat) (t : Tile) : State := s.modMember mk fun m => m.setTile n t

/-- A gang's N register and K register. -/
def Gang.nreg (g : Gang) (n : Nat) : W32 := g.n.get 0 n
def Gang.kreg (g : Gang) (k : BitVec 3) : BitVec 48 := if k = 0 then BitVec.allOnes 48 else g.k.get (BitVec.allOnes 48) k.toNat

/-- The matrix instruction that an engine's entry belongs to. -/
def Gang.minstr (g : Gang) (seq : Nat) : Option MInstr := g.minstrs.find? fun x => x.seq == seq

/-- What names a matrix instruction in a record (spec/16 R286). -/
def State.matrixRec (s : State) (mk seq : Nat) : FRec :=
  let g := s.gang (mk / 4)
  let i := g.minstr seq
  { FRec.blank with
    unit := 4, core := s.coreNum (mk / 4) (mk % 4), gang := g.idx
    pc := match i with
      | some x => x.pc
      | none => 0
    word := match i with
      | some x => x.word
      | none => 0 }

/-! ## FIFOs (spec/11 R209) -/

/-- The entry at position popped, if it has landed. -/
def Fifo.head (f : Fifo) : Option FEntry :=
  match f.entries.find? f.popped.toNat with
  | some e => if e.landed then some e else none
  | none => none

/-- Take one position off a FIFO. -/
def Fifo.pop (f : Fifo) : Fifo := { f with entries := f.entries.del f.popped.toNat, popped := f.popped + 1 }

/-- An entry as the journal holds it. -/
def FEntry.words (e : FEntry) : List W64 :=
  [if e.pois then 1 else 0, e.origin] ++ e.elems.map fun c => BitVec.ofNat 64 c
/-- An entry from the journal. -/
def entryOf (w : List W64) : FEntry :=
  { elems := (w.drop 2).map BitVec.toNat, got := 0, landed := true, pois := w.headD 0 != 0, origin := w.getD 1 0 }

/-- Take the head entry of a FIFO, popping it unless it is kept; none while there is no entry. A pop is journalled
(spec/24 R367). -/
def State.takeEntry (s : State) (mk n : Nat) (keep : Bool) : Option (State × FEntry) :=
  let key := BitVec.ofNat 64 (2 ^ 62 + n)
  let pop (s : State) : State :=
    (if keep then s else s.modMember mk fun m => m.setFifo n (m.fifo n).pop)
  let head := ((s.member mk).fifo n).head
  if keep then head.map fun e => (s, e)
  else
    match s.recallBy (.engines mk) 0 fun v => v.headD 0 == key with
    | some (v, s) => some (pop s, entryOf (v.drop 1))
    | none =>
      if s.replaying (mk / 4) then none
      else head.map fun e => ((pop s).note (.engines mk) 0 (key :: e.words), e)

/-- After a pop: a codebook whose switch position is reached takes effect (spec/08 R166). -/
def State.popped (s : State) (mk n : Nat) : State := s.cbldSwitch mk n

/-! ## Instructions of an engine -/

/-- How an attempt to execute the first instruction ends. -/
inductive ERes where
  /-- It has completed on this core, with the outbound operation it started, if any. -/
  | done (s : State) (op : Option Nat)
  /-- It waits. -/
  | wait
  /-- A watchpoint holds it. -/
  | hold (s : State)

/-- MMA, MMAZ and MDIST (spec/08 R171, R172). -/
def State.engineMma (s : State) (mk : Nat) (i : MIns) : ERes :=
  let f := i.f
  let na := f.fa.toNat
  let nb := f.fb.toNat
  match s.takeEntry mk na (f.hold.getLsbD 1) with
  | none => .wait
  | some (s1, a) =>
    match s1.takeEntry mk nb (f.hold.getLsbD 0) with
    | none => .wait
    | some (s2, b) =>
      let m := s.member mk
      let z := i.opc == 1
      let c := f.c.toNat
      let t := m.tile c
      let r := mmaElems (i.opc == 2) z f.ifmt.toNat i.kv t.elems a.elems b.elems (m.fifo na).code (m.fifo nb).code
      let old := !z && t.pois
      let origin := if old then t.origin else if a.pois then a.origin else if b.pois then b.origin else 0
      let t' : Tile := { elems := r.map Prod.fst, int := f.ifmt == 6, pois := old || a.pois || b.pois, origin := origin }
      let s := (s2.setTile mk c t').count mk 5
      let s := ((s.meetPoison (mk / 4) a.pois a.origin).meetPoison (mk / 4) b.pois b.origin).meetPoison (mk / 4) t'.pois origin
      let s := if r.any (fun p => p.2) then s.modGang (mk / 4) fun g => { g with underflow := true } else s
      .done ((s.popped mk na).popped mk nb) none

/-- MZERO (spec/08 R173). -/
def State.engineMzero (s : State) (mk : Nat) (i : MIns) : ERes :=
  let c := i.f.c.toNat
  let t := (s.member mk).tile c
  let elems := (List.range 256).map fun n => if kElem i.kv n then 0 else listGet 0 t.elems n
  .done (s.setTile mk c (if kFull i.kv then { elems := elems, int := false, pois := false, origin := 0 }
    else { t with elems := elems })) none

/-- MMOV of a tile (spec/08 R173). -/
def State.engineMove (s : State) (mk : Nat) (i : MIns) : ERes :=
  let c := i.f.c.toNat
  let t := (s.member mk).tile c
  let src := (s.member mk).tile (bits i.f.imm.toNat 0 8)
  let elems := (List.range 256).map fun n => listGet 0 (if kElem i.kv n then src.elems else t.elems) n
  let t' : Tile :=
    if kFull i.kv then { src with elems := elems }
    else { elems := elems, int := src.int, pois := t.pois || src.pois, origin := if t.pois then t.origin else src.origin }
  .done ((s.setTile mk c t').meetPoison (mk / 4) src.pois src.origin) none

/-- MTOPK or MMOV of the top-k set: they touch the gang's one set. -/
def MIns.isTopk (i : MIns) : Bool := i.opc == 3 || (i.opc == 5 && bits i.f.imm.toNat 15 2 != 0)

/-- Such an instruction runs on the member cores in ascending order, after every earlier one has run on all of them. -/
def State.topkTurn (s : State) (mk : Nat) (i : MIns) : Bool :=
  (s.membersOf (mk / 4)).all fun k =>
    (s.member k).mq.all fun j => !j.isTopk || !(decide (j.seq < i.seq) || (j.seq == i.seq && decide (k < mk)))

/-- The element of the top-k set that MMOV writes at a row and column: a value, or an index; empty entries read as the
worst value with index 0xFFFFFFFF (spec/08 R174). -/
def Gang.topElem (g : Gang) (i j : Nat) : W32 :=
  match (g.topk.get [] i)[j % 8]? with
  | some e => if j < 8 then e.1 else e.2
  | none => if 8 ≤ j then 0xFFFFFFFF else if g.topkLargest then 0xFF800000 else 0x7F800000

/-- MMOV of the top-k set into a tile; mode 2 then empties it (spec/08 R173). -/
def State.engineTopMove (s : State) (mk : Nat) (i : MIns) : ERes :=
  let g := s.gang (mk / 4)
  let c := i.f.c.toNat
  let t := (s.member mk).tile c
  let elems := (List.range 256).map fun n => if kElem i.kv n then g.topElem (n / 16) (n % 16) else listGet 0 t.elems n
  let keep := t.pois && !kFull i.kv
  let t' : Tile := { elems := elems, int := t.int, pois := keep || g.topkPois, origin := if keep then t.origin else g.topkOrigin }
  let s := (s.setTile mk c t').meetPoison (mk / 4) g.topkPois g.topkOrigin
  let last := mk % 4 + 1 == g.cores.length
  .done (if bits i.f.imm.toNat 15 2 = 2 ∧ last = true then
    s.modGang (mk / 4) fun g => { g with topk := [], topkPois := false, topkOrigin := 0 } else s) none

/-- MTOPK (spec/08 R174): the first member core empties the rows that a reset names; a poisoned tile poisons the set. -/
def State.engineTopk (s : State) (mk : Nat) (i : MIns) : ERes :=
  let n := i.f.imm.toNat
  let largest := bits n 3 1 == 1
  let reset := bits n 8 1 == 1 && mk % 4 == 0
  let rows := (List.range 16).filter (kRow i.kv)
  let t := (s.member mk).tile i.f.c.toNat
  let g := s.gang (mk / 4)
  let merge (l : Sparse (List (W32 × W32))) (r : Nat) : Sparse (List (W32 × W32)) :=
    l.set r (topMerge t.int largest (bits n 0 3 + 1) (if reset then [] else l.get [] r) (topRow t.int i.kv t.elems i.nv2 r))
  let keep := g.topkPois && !(reset && rows.length == 16)
  let hit := t.pois && !rows.isEmpty
  let g := { g with
    topk := rows.foldl merge g.topk, topkLargest := largest, topkPois := keep || hit
    topkOrigin := if keep then g.topkOrigin else if hit then t.origin else 0 }
  .done ((s.setGang (mk / 4) g).meetPoison (mk / 4) hit t.origin) none

/-- FSKIP (spec/08 R173): pop what is there of the entries that are still to be popped. Answers how many are left. -/
def State.skipEntries (s : State) (mk n : Nat) : Nat → State × Nat
  | 0 => (s, 0)
  | k + 1 =>
    match s.takeEntry mk n false with
    | some (s, _) => (s.popped mk n).skipEntries mk n k
    | none => (s, k + 1)

/-- The FSKIP at the head of an engine has this many entries still to pop. -/
def Member.skipLeft (m : Member) (left : Nat) : Member :=
  match m.mq with
  | [] => m
  | i :: l => { m with mq := { i with nv := BitVec.ofNat 32 left } :: l }

/-- FSKIP. -/
def State.engineSkip (s : State) (mk : Nat) (i : MIns) : ERes :=
  let r := s.skipEntries mk i.f.fa.toNat i.nv.toNat
  if r.2 = 0 then .done r.1 none
  else if r.2 = i.nv.toNat then .wait
  else .hold (r.1.modMember mk fun m => m.skipLeft r.2)

/-! ## Parameter sets (spec/08 R175) -/

/-- Bytes and alignment of MTAB, MBIAS and MSCL. -/
def paramSize (opc : Nat) : Nat × Nat := if opc = 7 then (272, 16) else if opc = 8 then (64, 64) else (128, 64)

/-- MTAB, MBIAS and MSCL: once every line is FULL or POISONED. -/
def State.engineParam (s : State) (mk : Nat) (i : MIns) : ERes :=
  let n := (paramSize i.opc).1
  let addr := i.nv.toNat
  let m := s.member mk
  let lines := (List.range ((addr % 128 + n + 127) / 128)).map fun k => (addr / 128 + k) * 128
  let other := lines.any fun l => m.foreign l (Cls.matrix.tag 0)
  let key := BitVec.ofNat 64 (2 ^ 62 + 16 + i.opc)
  let back := if other then s.recallBy (.engines mk) 0 fun v => v.headD 0 == key else none
  let finish (s : State) (pois : Bool) (data : List W32) : ERes :=
    let origin := if pois then s.seqOrigin mk 0 else 0
    let p : ParSet := { words := data, pois := pois, origin := origin }
    let s := s.modMember mk fun m =>
      if i.opc = 7 then { m with tab := p } else if i.opc = 8 then { m with bias := p } else { m with scl := p }
    .done (s.meetPoison (mk / 4) pois origin) none
  match back with
  | some (v, s) => finish s (v.getD 1 0 != 0) ((v.drop 2).map fun w => w.truncate 32)
  | none =>
    if lines.any (fun l => m.lineSt l == 0) then .wait
    else
      match m.spHit addr n 0 .matrix m.mskip with
      | some wp =>
        .hold ((s.modMember mk fun m => { m with mheld := some wp }).spStop mk (s.matrixRec mk i.seq) addr 0 0 .matrix wp)
      | none =>
        let pois := lines.any fun l => m.lineSt l == 2
        let b := m.bytes addr n
        let words := (List.range (n / 4)).map fun k => BitVec.ofNat 32 (bytesNat ((b.drop (4 * k)).take 4))
        let s := if other then
            s.note (.engines mk) 0 (key :: (if pois then 1 else 0) :: words.map fun w => w.zeroExtend 64)
          else s
        finish s pois words

/-! ## MEPI (spec/08 R176) -/

/-- The elements that MEPI writes, by row-major index. -/
def MIns.cells (i : MIns) : List Nat :=
  (List.range 256).filter fun n => !(stagesOf i.f.epi).maskw || kElem i.kv n

/-- The output format. -/
def MIns.ofmt (i : MIns) : Nat := bits i.f.imm.toNat 14 3

/-- Where OKIND 0 writes an element. -/
def epiAddr (base stride : W32) (size n : Nat) : Nat := base.toNat + n / 16 * stride.toNat + n % 16 * size

/-- Write an epilogue's elements into the core's own scratchpad: the lines become FULL or POISONED. -/
def State.epiStore (s : State) (mk : Nat) (l : List (Nat × List Byte)) (pois : Bool) : State :=
  let s := l.foldl (fun (s : State) p => s.padStore mk p.1 p.2 false (Cls.matrix.tag 0)) s
  let lines := (l.map fun p => p.1 / 128).eraseDups
  s.each lines fun s n => s.setLineSt mk n (if pois then 2 else 1)

/-- The operation of an outbound epilogue. -/
def State.epiOp (s : State) (mk : Nat) (i : MIns) : Op :=
  let r := s.matrixRec mk i.seq
  { Op.blank with
    kind := .mepi, gang := mk / 4, team := teamKey (mk / 4) 256, member := mk, pc := r.pc, word := r.word,
    a := BitVec.ofNat 64 (2 ^ 54 + i.nv.toNat), attempt := 3, started := true }

/-- The check of an outbound epilogue's block (spec/08 R164, R176). -/
def State.epiBlock (s : State) (x : Op) (b : Blk) (cells : List Nat) (size : Nat) (addr : Nat → Nat) : Option BFault :=
  if b.reservedBits then some (kIllegal, .reserved, 0)
  else if b.reservedCodes ∨ s.blkConstraint x b = true then some (kIllegal, .value, 0)
  else if listGet 0 b.w 0 ≠ 0 ∨ b.f 2 0 51 ≠ 0 ∨ b.f 4 32 32 ≠ 0 ∨ b.pad ≠ 0 ∨ b.rop ≠ 0 ∨ !([0, 1, 2, 4].contains b.dspace) then
    some (kIllegal, .value, 0)
  else
    match b.misaligned with
    | some a => some (kMisaligned, .state, a)
    | none =>
      match cells.find? fun n => (b.dspace == 1 || b.dspace == 2) && decide (s.padSize x.gang < addr n + size) with
      | some n => some (kOutOfPart, .state, addr n)
      | none =>
        if b.credit ∧ b.f 6 54 4 = 1 ∧ s.padSize x.gang ≤ b.f 6 0 54 then some (kOutOfPart, .state, b.f 6 0 54) else none

/-- Join the elements of a row that follow one another within a 128-byte line into segments: position, address, bytes. -/
def joinCells : List (Nat × Nat × List Byte) → List (Nat × Nat × List Byte)
  | [] => []
  | (p, a, b) :: l =>
    match joinCells l with
    | (p', a', b') :: r =>
      if a' = a + b.length ∧ a' % 128 ≠ 0 ∧ p / 16 = p' / 16 then (p, a, b ++ b') :: r else (p, a, b) :: (p', a', b') :: r
    | [] => [(p, a, b)]

/-- Cut an element that crosses a 128-byte line. -/
def cutCell (p a : Nat) (b : List Byte) : List (Nat × Nat × List Byte) :=
  let k := 128 - a % 128
  if k < b.length then [(p, a, b.take k), (p + 256, a + k, b.drop k)] else [(p, a, b)]

/-- Send an epilogue's elements through the copy engine, in an operation that carries them. A block that fails a check has no effect:
the instruction stands at the head of its engine as its context halts (spec/08 R164, R176). -/
def State.epiOut (s : State) (mk : Nat) (i : MIns) (vals : List (Nat × List Byte)) (pois : Bool) : ERes :=
  let o := s.nextOp
  let x := s.epiOp mk i
  match s.snapBlock o x x.a with
  | .wait _ => .wait
  | .bad _ g s => .done (s.meetPoison (mk / 4) true g) none
  | .words l s =>
    let x := { x with snap := l }
    let b := x.blk
    let size := ofmtBytes i.ofmt
    let at_ (n : Nat) : Nat :=
      (((b.daddr + i.nv2.toNat + n % 16 * size : Nat) : Int) + (n / 16 : Nat) * b.stride 4 0) % 2 ^ 64 |>.toNat
    match s.epiBlock x b (vals.map Prod.fst) size at_ with
    | some f => .hold ((s.modMember mk fun m => { m with mheld := some 9 }).acceptFault x f)
    | none =>
      let segs := joinCells (vals.flatMap fun v => cutCell v.1 (at_ v.1) v.2)
      let req (p : Nat × Nat × List Byte) : Req :=
        { oneReq 0 p.2.2.length p.2.2 with
          id := x.segId p.1, dst := p.2.1, stage := 1, cmp := List.replicate p.2.2.length (if pois then 1 else 0) }
      let reqs := segs.map req
      let s := if b.dempty && (b.dspace == 1 || b.dspace == 2) then
          match s.padMember x b.dspace b.darg with
          | some k => s.each (segs.map fun p => p.2.1 / 128).eraseDups fun s line => s.setLineSt k line 0
          | none => s
        else s
      let r := s.addOp { x with reqs := reqs }
      .done (r.1.push (reqs.map fun q => turnOf .copySegment r.2 q.id)) (some r.2)

/-- MEPI on one core. -/
def State.engineEpi (s : State) (mk : Nat) (i : MIns) : ERes :=
  let m := s.member mk
  let st := stagesOf i.f.epi
  let c := i.f.c.toNat
  let t := m.tile c
  let sat := (s.team (teamKey (mk / 4) 0)).fmt.getLsbD 4
  let sets := (if st.bias then [m.bias] else []) ++ (if st.act then [m.tab] else [])
    ++ (if st.rq && i.ofmt == 1 then [m.scl] else [])
  let bad := sets.find? fun p => p.pois
  let pois := t.pois || bad.isSome
  let origin := if t.pois then t.origin else match bad with
    | some p => p.origin
    | none => 0
  let size := ofmtBytes i.ofmt
  let value (n : Nat) : Nat := epilogue st i.ofmt sat t.int m.bias.words m.tab.words m.scl.words (n % 16) (listGet 0 t.elems n)
  let vals : List (Nat × List Byte) := i.cells.map fun n => (n, natBytes size (value n))
  let hit := if st.out && bits i.f.imm.toNat 8 2 == 0 then
      vals.findSome? fun v => (m.spHit (epiAddr i.nv i.nv2 size v.1) size 1 .matrix m.mskip).map fun wp => (epiAddr i.nv i.nv2 size v.1, wp)
    else none
  match hit with
  | some (addr, wp) =>
    .hold ((s.modMember mk fun m => { m with mheld := some wp }).spStop mk (s.matrixRec mk i.seq) addr 0 1 .matrix wp)
  | none =>
    let s := s.meetPoison (mk / 4) pois origin
    let clear (s : State) : State := if st.zero then s.setTile mk c Tile.blank else s
    if !st.out then
      let elems := (List.range 256).map fun n =>
        if !st.maskw || kElem i.kv n then BitVec.ofNat 32 (value n) else listGet 0 t.elems n
      .done (s.setTile mk c { elems := elems, int := false, pois := pois, origin := origin }) none
    else if bits i.f.imm.toNat 8 2 = 0 then
      .done (clear (s.epiStore mk (vals.map fun v => (epiAddr i.nv i.nv2 size v.1, v.2)) pois)) none
    else
      match s.epiOut mk i vals pois with
      | .done s o => .done (clear s) o
      | r => r

/-- Execute an instruction on a core, as far as it can now. -/
def State.engineExec (s : State) (mk : Nat) (i : MIns) : ERes :=
  if i.isTopk && !s.topkTurn mk i then .wait
  else
    match i.opc with
    | 3 => s.engineTopk mk i
    | 4 => s.engineMzero mk i
    | 5 => if i.isTopk then s.engineTopMove mk i else s.engineMove mk i
    | 6 => s.engineEpi mk i
    | 7 => s.engineParam mk i
    | 8 => s.engineParam mk i
    | 9 => s.engineParam mk i
    | 10 => s.engineSkip mk i
    | _ => s.engineMma mk i

/-- The engine has completed an instruction. -/
def State.engineDone (s : State) (mk : Nat) (i : MIns) (op : Option Nat) : State :=
  let s := s.modMember mk fun m => { m with mq := m.mq.tail, mskip := none }
  s.modGang (mk / 4) fun g => { g with minstrs := g.minstrs.map fun x =>
    if x.seq = i.seq then { x with left := x.left.filter fun k => k != mk % 4, ops := x.ops ++ op.toList } else x }

/-- Run an engine for at most this many instructions. -/
def State.engineRun : Nat → State → Nat → State
  | 0, s, _ => s
  | fuel + 1, s, k =>
    match (s.member k).mq with
    | [] => s
    | i :: _ =>
      if !s.engineLive k || (s.member k).mheld.isSome then s
      else
        match s.engineExec k i with
        | .wait => s
        | .hold s => s
        | .done s op => (s.engineDone k i op).engineRun fuel k

/-- Run every engine of a gang. -/
def State.enginesRun (s : State) (g : Nat) : State :=
  s.each (s.membersOf g) fun s mk => s.engineRun (s.member mk).mq.length mk

/-- Make a MATRIX_COMPLETE of a gang due, if none is. -/
def State.poke (s : State) (g : Nat) : State :=
  let t := turnOf .matrixComplete g 0
  if s.agenda.contains t then s else s.push [t]

/-! ## Completion and arrivals (spec/08 R169, R179) -/

/-- An outbound epilogue that is over leaves its instruction; one that failed sets the flag (spec/08 R181). -/
def State.endEpis (s : State) (g : Nat) : State :=
  let isOver (o : Nat) : Bool := match s.ops.find? o with
    | some x => s.opQuiet o x
    | none => true
  let mine := (s.gang g).minstrs.flatMap fun i => i.ops
  let s := s.each (mine.filter isOver) fun s o =>
    match s.ops.find? o with
    | some x => { s.meetPoison g (x.cause != 0 && x.cause != cPoisonData) x.origin with ops := s.ops.del o }
    | none => s
  s.modGang g fun x => { x with minstrs := x.minstrs.map fun i => { i with ops := i.ops.filter fun o => (s.ops.find? o).isSome } }

/-- The instruction has completed on every member core. -/
def MInstr.isOver (i : MInstr) : Bool := i.left.isEmpty && i.ops.isEmpty

/-- Take completed instructions off the list in program order, each with its arrival; one that would be the sequencer's
second in a phase waits, and those behind it with it (spec/08 R179). -/
def State.retireMatrix : Nat → State → Nat → State
  | 0, s, _ => s
  | fuel + 1, s, g =>
    let x := s.gang g
    match x.minstrs with
    | [] => s
    | i :: rest =>
      if !i.isOver then s
      else
        let go (s : State) : State := (s.modGang g fun x => { x with minstrs := rest }).retireMatrix fuel g
        match i.ba with
        | none => go s
        | some n =>
          if x.unapplied 256 || (x.belongs n.toNat 256 && (x.bar n.toNat).arrivals.getLsbD 256) then s
          else if !x.belongs n.toNat 256 then
            (s.modGang g fun x => { x with sstopped := true, sstopAt := s.cycleReg (s.coreNum g 0), minstrs := rest }).fatal (ctxOf g)
              { FRec.blank with kind := kProtection, unit := 4, core := s.coreNum g 0, gang := x.idx, pc := i.pc, word := i.word,
                                addr := n.zeroExtend 64 }
          else
            let s := s.modGang g fun x => { x with spois := false, sorigin := 0 }
            go (s.toUnit g 256 (.arrive n x.spois) [])

/-- MATRIX_COMPLETE (spec/08 R169, R179): engines go on, what has completed is retired with its arrivals; while instructions
are left it comes again. -/
def execMatrixComplete (s : State) : Out :=
  let g := s.arg.x
  let s := (s.enginesRun g).endEpis g
  let s := s.retireMatrix (s.gang g).minstrs.length g
  .next (if (s.gang g).minstrs.isEmpty || (s.gang g).st != .resident then s else s.poke g)

/-- FIFO_ENTRY_LAND (spec/08 R162): an entry becomes visible; an engine that waits for it goes on. -/
def execFifoEntryLand (s : State) : Out :=
  let a := s.arg
  match s.ops.find? a.x with
  | none => .next s
  | some x =>
    let n := x.blk.darg
    let land (f : Fifo) : Fifo :=
      match f.entries.find? a.y with
      | some e => { f with entries := f.entries.set a.y { e with landed := true } }
      | none => f
    let s := s.modMember x.member fun m => m.setFifo n (land (m.fifo n))
    .next (((s.engineRun (s.member x.member).mq.length x.member).poke x.gang).post .copyComplete a.x)

end Sys2Proof.Machine
end

