-- ==== Sys2Proof/Machine/MatrixSeq.lean ====
section
/-! DEFINITION. The matrix sequencer: what each matrix word does when it issues (spec/08 R169 to R181). -/

namespace Sys2Proof.Machine

/-! ## Moving on -/

/-- The gang whose sequencer issues. -/
def State.sg (s : State) : Gang := s.gang s.curGang
/-- Change it. -/
def State.modSg (s : State) (f : Gang → Gang) : State := s.modGang s.curGang f

/-- The sequencer has issued an instruction. -/
def State.seqRan (s : State) : State := s.ran s.curGang (.issue (.seq s.curGang))

/-- The sequencer stands at another address, with no wait. -/
def State.seqTo (s : State) (pc : W64) : Out := .next ((s.modSg fun g => { g with spc := pc, swait := none }).seqRan)
/-- The next matrix instruction follows. -/
def State.seqNext (s : State) : Out := s.seqTo (s.sg.spc + 8)

/-- The sequencer blocks with a wait-for entry; `ph` is the team whose token a claim waits for. -/
def State.seqBlock (s : State) (obj : WaitObj) (ph : Nat) : Out :=
  .next (s.modSg fun g => { g with swait := some {
    obj := obj, since := match g.swait with
      | some w => w.since
      | none => s.cycleOf (s.coreNum s.curGang 0)
    limit := none, phase := ph, result := none } })

/-! ## Barriers (spec/08 R179) -/

/-- The barrier of a BW or BA field. -/
def barField (b : BitVec 5) : Option (BitVec 4) := if b.getLsbD 4 then some (b.truncate 4) else none

/-- The sequencer's wait on a barrier has been answered: its last arrival counts as waited on; the flag is journalled
(spec/24 R367). -/
def State.seqReleased (s : State) (n : BitVec 4) (pois : W64) : State :=
  let s := s.modSg fun g =>
    let b := g.bar n.toNat
    let g := { g with swait := none }
    match b.last.find? 256 with
    | some (p, _) => g.setBar n.toNat { b with last := b.last.set 256 (p, true) }
    | none => g
  s.note (.seq s.curGang) 0 [pois]

/-- The instruction does not issue until the phase of its BW field completes, as BAR.WAIT does for member 256. Its earlier
arrivals are made first. -/
def State.seqWait (s : State) (f : MatF) (k : State → Out) : Out :=
  match barField f.bw with
  | none => k s
  | some n =>
    match s.sg.swait with
    | some w =>
      (match w.result with
       | some v => k (s.seqReleased n v)
       | none => stall s)
    | none =>
      let g := s.sg
      if g.unapplied 256 || g.minstrs.any (fun i => i.ba == some n) then stall s
      else if !g.belongs n.toNat 256 then .next (s.seqFault kProtection .state (n.zeroExtend 64))
      else
        let b := g.bar n.toNat
        let p := match b.last.find? 256 with
          | some (p, false) => p
          | _ => b.phase
        if p = b.phase then
          let w : Wait := { obj := .barrier n, since := s.cycleOf (s.coreNum s.curGang 0), limit := none, phase := p.toNat + 2, result := none }
          .next ((s.modSg fun g => { g with swait := some w }).post .barrierRelease (teamKey s.curGang 256))
        else k (s.seqReleased n (b.bad p))

/-- A barrier to arrive at is bound to a group of the sequencer (spec/03 R66). -/
def State.seqArrives (s : State) (f : MatF) (k : Out) : Out :=
  match barField f.ba with
  | none => k
  | some n => if s.sg.belongs n.toNat 256 then k else .next (s.seqFault kProtection .state (n.zeroExtend 64))

/-! ## Issue to the engines (spec/08 R169) -/

/-- Send an instruction to the engine of every member core, with the K and N values of its issue. -/
def State.toEngines (s : State) (opc : Nat) (f : MatF) (nv : W32) : Out :=
  let g := s.sg
  let i : MIns := { seq := g.mseq, opc := opc, f := f, kv := g.kreg f.k, nv := nv, nv2 := g.nreg (bits f.imm.toNat 4 4) }
  let s := s.each (s.membersOf s.curGang) fun s mk => s.modMember mk fun m => { m with mq := m.mq ++ [i] }
  let e : MInstr := { seq := g.mseq, pc := g.spc, word := s.word, ba := barField f.ba, left := List.range g.cores.length, ops := [] }
  let s := s.modSg fun g => { g with mseq := g.mseq + 1, minstrs := g.minstrs ++ [e], spc := g.spc + 8, swait := none }
  .next ((s.seqRan.enginesRun s.curGang).poke s.curGang)

/-- The word in IMM [3:0]: a counter. -/
def State.immN (s : State) (f : MatF) : W32 := s.sg.nreg (bits f.imm.toNat 0 4)

/-- The tile exists (spec/01 R21). -/
def State.tileOk (s : State) (c : Nat) : Bool := decide (c < s.tileCount s.curGang)

/-- A matrix word that the engines execute: its BW field, its checks, its BA field, and issue. -/
def State.issueMatrix (s : State) (opc : Nat) (f : MatF) (nv : State → W32) (check : State → Option BFault) : Out :=
  s.seqWait f fun s =>
    match check s with
    | some (kind, r, addr) => .next (s.seqFault kind r (BitVec.ofNat 64 addr))
    | none => s.seqArrives f (s.toEngines opc f (nv s))

/-- Checks of several kinds in order: the first that fails. -/
def firstBad : List (Bool × BFault) → Option BFault
  | [] => none
  | (b, f) :: l => if b then some f else firstBad l

/-- The absent-tile trap. -/
def absentTile : BFault := (kIllegal, .state, 0)
/-- A reserved value or inadmissible combination. -/
def badValue : BFault := (kIllegal, .value, 0)

/-- A FIFO is declared on every member core. -/
def State.fifoOn (s : State) (n : Nat) : Bool := (s.membersOf s.curGang).all fun k => ((s.member k).fifo n).declared
/-- It holds elements of this class on every member core (spec/08 R171). -/
def State.fifoHolds (s : State) (n cls : Nat) : Bool :=
  s.fifoOn n && (s.membersOf s.curGang).all fun k => aClass ((s.member k).fifo n).fmt.toNat == cls

/-- MDIST and MTOPK are reserved opcodes where feature bit 3 was not accepted (spec/18 R309). -/
def State.withFeature (s : State) (k : Out) : Out := if s.accept.getLsbD 3 then k else seqIllegal s .opcode

/-- The MMA class. -/
def mmaIssue (opc : Nat) (f : MatF) (s : State) : Out :=
  s.issueMatrix opc f (fun _ => 0) fun s => firstBad
    [ (!s.fifoHolds f.fa.toNat (aClass f.ifmt.toNat) || !s.fifoHolds f.fb.toNat (bClass f.ifmt.toNat), badValue),
      (!s.tileOk f.c.toNat, absentTile) ]

def execMma (f : MatF) (s : State) : Out := mmaIssue 0 f s
def execMmaz (f : MatF) (s : State) : Out := mmaIssue 1 f s
def execMdist (f : MatF) (s : State) : Out := s.withFeature (mmaIssue 2 f s)

/-- MTOPK (spec/08 R174). -/
def execMtopk (f : MatF) (s : State) : Out :=
  s.withFeature (s.issueMatrix 3 f (fun _ => 0) fun s => firstBad [(!s.tileOk f.c.toNat, absentTile)])

/-- MZERO (spec/08 R173). -/
def execMzero (f : MatF) (s : State) : Out :=
  s.issueMatrix 4 f (fun _ => 0) fun s => firstBad [(!s.tileOk f.c.toNat, absentTile)]

/-- MMOV of the matrix stream (spec/08 R173). -/
def execMatrixMmov (f : MatF) (s : State) : Out :=
  s.issueMatrix 5 f (fun _ => 0) fun s => firstBad
    [(!s.tileOk f.c.toNat || (bits f.imm.toNat 15 2 == 0 && !s.tileOk (bits f.imm.toNat 0 8)), absentTile)]

/-- The checks of MEPI: for OKIND 0 where it writes, for OKIND 1 where its block stands (spec/08 R156, R176). -/
def State.epiCheck (s : State) (f : MatF) : Option BFault :=
  let st := stagesOf f.epi
  let size := ofmtBytes (bits f.imm.toNat 14 3)
  let base := s.immN f
  let stride := s.sg.nreg (bits f.imm.toNat 4 4)
  let pad := s.padSize s.curGang
  let writes (n : Nat) : Bool := !st.maskw || kElem (s.sg.kreg f.k) n
  let beyond := (List.range 256).find? fun n => writes n && decide (pad < epiAddr base stride size n + size)
  if !s.tileOk f.c.toNat then some absentTile
  else if !st.out then none
  else if bits f.imm.toNat 8 2 = 0 then
    firstBad
      [ (base.toNat % size != 0 || stride.toNat % size != 0, (kMisaligned, .state, base.toNat)),
        (beyond.isSome, (kOutOfPart, .state, epiAddr base stride size (beyond.getD 0))) ]
  else
    firstBad
      [ (base.toNat % 64 != 0, (kMisaligned, .state, base.toNat)), (decide (pad < base.toNat + 64), (kOutOfPart, .state, base.toNat)) ]

/-- MEPI (spec/08 R176). -/
def execMepi (f : MatF) (s : State) : Out := s.issueMatrix 6 f (fun s => s.immN f) fun s => s.epiCheck f

/-- MTAB, MBIAS and MSCL (spec/08 R175). -/
def paramIssue (opc : Nat) (f : MatF) (s : State) : Out :=
  s.issueMatrix opc f (fun s => s.immN f) fun s =>
    let a := (s.immN f).toNat
    let z := paramSize opc
    firstBad [(a % z.2 != 0, (kMisaligned, .state, a)), (decide (s.padSize s.curGang < a + z.1), (kOutOfPart, .state, a))]

def execMtab (f : MatF) (s : State) : Out := paramIssue 7 f s
def execMbias (f : MatF) (s : State) : Out := paramIssue 8 f s
def execMscl (f : MatF) (s : State) : Out := paramIssue 9 f s

/-- FSKIP (spec/08 R173). -/
def execFskip (f : MatF) (s : State) : Out :=
  s.issueMatrix 10 f (fun _ => BitVec.ofNat 32 (bits f.imm.toNat 0 16)) fun s => firstBad [(!s.fifoOn f.fa.toNat, badValue)]

/-! ## Masks, counters and branches (spec/08 R177, R178) -/

/-- MKSET: one 16-bit part of a K register. -/
def execMkset (f : MatF) (s : State) : Out :=
  let n := f.imm.toNat
  let nv := (s.immN f).toNat
  let v : Nat := match bits n 13 2 with
    | 0 => 2 ^ bits n 0 5 - 1
    | 1 => 2 ^ min nv 16 - 1
    | _ => nv % 2 ^ 16
  let at_ := 16 * bits n 15 2
  let old := s.sg.kreg f.k
  let new := (old &&& ~~~(BitVec.ofNat 48 (0xFFFF * 2 ^ at_))) ||| BitVec.ofNat 48 (v % 2 ^ 16 * 2 ^ at_)
  (if f.k = 0 then s else s.modSg fun g => { g with k := g.k.set f.k.toNat new }).seqNext

/-- The counter that IMM [16:13] names. -/
def matCtr (f : MatF) : Nat := bits f.imm.toNat 13 4
/-- Write a counter and go on. -/
def State.setCtr (s : State) (f : MatF) (v : W32) : Out := (s.modSg fun g => { g with n := g.n.set (matCtr f) v }).seqNext

/-- Every issued matrix instruction has completed. -/
def Gang.quiet (g : Gang) : Bool := g.minstrs.all fun i => i.isOver

/-- MSET.C: a word of the constant section through the constant path; poison, an uncorrectable error or an unresolvable
fault gives 0 and sets the flag (spec/03 R59, spec/08 R178, spec/11 R215). -/
def State.msetConst (s : State) (f : MatF) : Out :=
  let g := s.curGang
  let off := bits f.imm.toNat 0 11 * 4
  let va := (s.sg.constb + BitVec.ofNat 64 off).toNat
  let core := s.coreNum g 0
  let p := s.sg.part
  let rec_ : FRec := { FRec.blank with unit := 4, core := core, gang := s.sg.idx, pc := s.sg.spc, word := s.word }
  let zero (s : State) (errseq : W32) : Out :=
    let o := originWord 4 core 0 0 0 0 errseq.toNat
    ((s.note (.seq g) 0 [0, o + 1]).meetPoison g true o).setCtr f 0
  if s.sg.consts ≤ off then .next (s.seqFault kProtection .state (BitVec.ofNat 64 off))
  else
    match s.recall (.seq g) 0 with
    | some (v, s) =>
      if v.getD 1 0 = 0 then s.setCtr f ((v.headD 0).truncate 32) else (s.meetPoison g true (v.getD 1 0 - 1)).setCtr f 0
    | none =>
      let r := s.constRead core p va
      let s := r.1
      match r.2 with
      | .value v false => (s.note (.seq g) 0 [(v.truncate 32 : W32).zeroExtend 64, 0]).setCtr f (v.truncate 32)
      | .value _ true => zero s 0
      | .denied => .next (s.seqFault kProtection .state (BitVec.ofNat 64 va))
      | .absent va =>
        let q := s.parkStream g va 0 (.seq g)
        (match q.2 with
         | none => q.1.seqBlock .fault 0
         | some why => let e := q.1.unresolvable p (some (ctxOf g)) rec_ va why 0; zero e.1 e.2)
      | .bad va entry => let e := s.unresolvable p (some (ctxOf g)) rec_ va 3 entry; zero e.1 e.2
      | .error gr => let e := s.uncorrectable p (some (ctxOf g)) rec_ gr; zero e.1 e.2

/-- MSET of the matrix stream (spec/08 R178, spec/10 R198). -/
def execMatrixMset (f : MatF) (s : State) : Out :=
  match bits f.imm.toNat 11 2 with
  | 0 => s.setCtr f ((BitVec.ofNat 11 f.imm.toNat).signExtend 32)
  | 1 => s.msetConst f
  | _ =>
    let g := s.sg
    if !g.quiet then stall s
    else (s.modSg fun g => { g with underflow := false }).setCtr f
      ((if g.underflow then 1 else 0) + (if g.spois then 2 else 0))

/-- MADD. -/
def execMadd (f : MatF) (s : State) : Out :=
  let n := f.imm.toNat
  let d : W32 := if bits n 12 1 = 0 then (BitVec.ofNat 12 n).signExtend 32 else s.immN f
  s.setCtr f (s.sg.nreg (matCtr f) + d)

/-- MBNZ. -/
def execMbnz (f : MatF) (s : State) : Out :=
  if s.sg.nreg (matCtr f) = 0 then s.seqNext
  else s.seqTo (s.sg.spc + 8 * (BitVec.ofNat 13 f.imm.toNat).signExtend 64)

/-- MJ. -/
def execMj (f : MatF) (s : State) : Out := s.seqTo (s.sg.spc + 8 * f.imm.signExtend 64)

/-! ## Barriers, tokens and the end (spec/08 R179 to R181) -/

/-- MARR: an instruction of its own that is complete at once. -/
def execMarr (f : MatF) (s : State) : Out :=
  s.seqArrives f <|
    let g := s.sg
    let e : MInstr := { seq := g.mseq, pc := g.spc, word := s.word, ba := barField f.ba, left := [], ops := [] }
    .next ((s.modSg fun g =>
      { g with mseq := g.mseq + 1, minstrs := g.minstrs ++ [e], spc := g.spc + 8, swait := none }).seqRan.poke s.curGang)

/-- MWAIT. -/
def execMwait (f : MatF) (s : State) : Out := s.seqWait f fun s => s.seqNext

/-- MTOK: claim a FREE token, or complete a claimed one once every earlier instruction has completed (spec/08 R180). -/
def execMtok (f : MatF) (s : State) : Out :=
  let n := f.imm.toNat
  let t := teamKey s.curGang (bits n 0 8)
  let k := bits n 8 5
  let x := (s.team t).getT k
  if s.sg.nteams ≤ bits n 0 8 then seqIllegal s .value
  else if bits n 13 1 = 1 then
    (if x.st = .free then
      (s.modTeam t fun tm => { tm.setT k { Tok.blank with st := .pending, claimed := true } with tokDisp := tm.tokDisp.del k }).seqNext
     else s.seqBlock (.tokens (1 <<< k)) t)
  else if !s.sg.quiet then s.seqBlock .settle 0
  else if x.st != .pending || !x.claimed then .next (s.seqFault kProtection .state 0)
  else
    let g := s.sg
    let p := if g.spois then some (cInherited, g.sorigin) else none
    ((s.completeToken t k p).modSg fun g => { g with spois := false, sorigin := 0 }).seqNext

/-- MHALT: once every earlier instruction has completed, the sequencer leaves every group and stops. -/
def execMhalt (_ : MatF) (s : State) : Out :=
  if !s.sg.minstrs.isEmpty then s.seqBlock .settle 0
  else
    let s := (s.modSg fun g => { g with halted := true, spc := g.spc + 8, swait := none }).seqRan.toUnit s.curGang 256 .leaveAll []
    .next (s.gangCheck s.curGang)

/-- MNOP. -/
def execMnop (_ : MatF) (s : State) : Out := s.seqNext

end Sys2Proof.Machine
end

