-- ==== Sys2Proof/Machine/Section.lean ====
section
/-! DEFINITION. The saved form of a gang's parts, written and read back: tokens, links, the lane area, the sequencer, gang, FIFO and
accumulator sections (spec/07 R141, R142, spec/11 R206, spec/20 R337, R338, spec/22 R352). Offsets inside a section that the spec does
not give: DESIGN CHOICE, log entry 15. -/

namespace Sys2Proof.Machine

/-! ## Packing -/

/-- Fill a list of doublewords up to a multiple of `n`. -/
def padTo (n : Nat) (l : List W64) : List W64 := l ++ List.replicate ((n - l.length % n) % n) 0
/-- Words as doublewords, little-endian. -/
def pairs : List W32 → List W64
  | [] => []
  | [a] => [a.zeroExtend 64]
  | a :: b :: l => BitVec.ofNat 64 (a.toNat + 2 ^ 32 * b.toNat) :: pairs l
/-- The words of doublewords. -/
def halves (l : List W64) : List W32 := l.flatMap fun x => [BitVec.ofNat 32 (bits x.toNat 0 32), BitVec.ofNat 32 (bits x.toNat 32 32)]
/-- Words of 16 bits as one number, low first. -/
def codeNat (l : List (BitVec 16)) : Nat := l.foldr (fun c a => c.toNat + 2 ^ 16 * a) 0
/-- `n` words of 16 bits of a number. -/
def natCodes (n v : Nat) : List (BitVec 16) := (List.range n).map fun i => BitVec.ofNat 16 (v / 2 ^ (16 * i))

/-- An even number of words, in doublewords. -/
def cHalves (n : Nat) : Codec (List W32) :=
  { put := pairs, get := fun l => if l.length < n / 2 then none else some (halves (l.take (n / 2)), l.drop (n / 2)) }

/-- A map from the values of a list, those equal to the default left out. -/
def sparseOf {α : Type} [DecidableEq α] (d : α) (l : List α) : Sparse α :=
  ((List.range l.length).zip l).filter fun p => p.2 != d

/-- `n` bytes at an offset. -/
def fieldAt (b : List Byte) (off n : Nat) : Nat := bytesNat ((b.drop off).take n)

/-! ## Tokens (spec/11 R206) -/

/-- The saved form of a token. -/
def tokWords (t : Tok) : List W64 :=
  let st := match t.st with
    | .free => 0
    | .pending => 1
    | .done => 2
    | .poisoned => 3
  [BitVec.ofNat 64 (st + t.claimed.toNat * 4 + t.cause.toNat * 256), t.origin]

/-- The token states by their codes. -/
def tokOfCode (n : Nat) : TokSt :=
  match n with
  | 0 => .free
  | 1 => .pending
  | 2 => .done
  | _ => .poisoned

/-- Token n of a team record. -/
def tokOf (b : List Byte) (n : Nat) : Tok :=
  let lo := fieldAt b (0x240 + 16 * n) 8
  { st := tokOfCode (bits lo 0 2), claimed := bits lo 2 1 == 1, cause := BitVec.ofNat 8 (bits lo 8 8),
    origin := BitVec.ofNat 64 (fieldAt b (0x248 + 16 * n) 8) }

/-! ## Links (spec/20 R337) -/

/-- The saved form of a stream: of a link, or of a V result in flight; `dreg` is its register. -/
def Link.words (k : Link) (dreg : Nat) : List W64 :=
  let v := k.value.toNat
  let e := bits v 23 8
  let fr := bits v 0 23
  let cls := if e = 255 then (if fr = 0 then 3 else 4) else if e = 0 then (if fr = 0 then 0 else 2) else 1
  let live := k.st == .streaming || k.pend
  let head := k.hdr && (live || k.st == .complete)
  let st := match k.st with
    | .idle => 0
    | .streaming => 1
    | .complete => 2
    | .trimmed => 3
  let ndig := if k.st = .complete then 13 else if live then k.digits.length else 0
  let digits := if live then ((List.range k.digits.length).zip k.digits).foldl (fun a p => a + p.2.toNat * 8 ^ p.1) 0 else 0
  let hd := if head then cls * 2 ^ 57 + bits v 31 1 * 2 ^ 56 + (if cls = 1 then e * 2 ^ 48 else 0) else 0
  let prod (n : Nat) : Nat := if live then n else 0
  let tags := k.tagA.toNat * 2 ^ 32 + k.tagB.toNat * 2 ^ 36 + k.tagC.toNat * 2 ^ 40
  [ BitVec.ofNat 64 (st * 2 ^ 62 + head.toNat * 2 ^ 61 + k.pend.toNat * 2 ^ 60 + hd + ndig * 2 ^ 44 + digits),
    BitVec.ofNat 64 (prod (k.rm.toNat * 2 ^ 42 + k.opc.toNat * 2 ^ 32) + if k.st = .complete then v else 0),
    BitVec.ofNat 64 (prod (k.srcB.toNat * 2 ^ 32 + k.srcA.toNat)),
    BitVec.ofNat 64 ((if k.st = .idle then 0 else dreg * 2 ^ 44) + prod (tags + k.srcC.toNat)) ]

/-- A stream from its saved form; the value of one that is not COMPLETE is still to be found from its producer. -/
def Link.ofWords (a b c d : W64) : Link :=
  let st : LinkSt := match bits a.toNat 62 2 with
    | 0 => .idle
    | 1 => .streaming
    | 2 => .complete
    | _ => .trimmed
  let pend := st == .trimmed && bits a.toNat 60 1 == 1
  let live := st == .streaming || pend
  if st = .complete then { Link.blank with st := .complete, hdr := true, value := b.truncate 32 }
  else if !live then { Link.blank with st := st }
  else
    { Link.blank with
      st := st, hdr := bits a.toNat 61 1 == 1, pend := pend
      digits := (List.range (min 13 (bits a.toNat 44 4))).map fun i => BitVec.ofNat 3 (bits a.toNat (3 * i) 3)
      rm := BitVec.ofNat 3 (bits b.toNat 42 3), opc := BitVec.ofNat 10 (bits b.toNat 32 10)
      srcA := c.truncate 32, srcB := BitVec.ofNat 32 (bits c.toNat 32 32), srcC := d.truncate 32
      tagA := BitVec.ofNat 4 (bits d.toNat 32 4), tagB := BitVec.ofNat 4 (bits d.toNat 36 4), tagC := BitVec.ofNat 4 (bits d.toNat 40 4) }

/-- A stream with its register. -/
def cLink : Codec (Link × Nat) :=
  { put := fun p => p.1.words p.2
    get := fun l => match l with
      | a :: b :: c :: d :: l => some ((Link.ofWords a b c d, bits d.toNat 44 9), l)
      | _ => none }

/-- A stream as it is saved: a source is by reference only while its link streams (spec/20 R337). -/
def Team.savedLink (t : Team) (l : Nat) (k : Link) : Link :=
  let ref (tag : BitVec 4) : Bool := decide (8 ≤ tag.toNat) && (t.getL (tag.toNat - 8) l).live
  let tag (g : BitVec 4) : BitVec 4 := if g.toNat < 8 || ref g then g else 1
  let src (g : BitVec 4) (v : W32) : W32 := if ref g then 0 else v
  { k with tagA := tag k.tagA, tagB := tag k.tagB, tagC := tag k.tagC, srcA := src k.tagA k.srcA, srcB := src k.tagB k.srcB,
           srcC := src k.tagC k.srcC }

/-- The value to which a saved stream completes: its producer's function of its sources, taken through the links that it names
(spec/20 R333, R337). -/
def streamValue (links : Nat → Link) : Nat → Link → W32
  | 0, k => k.value
  | fuel + 1, k =>
    if !k.live then k.read
    else
      let src (g : BitVec 4) (v : W32) : Nat := if g.toNat < 8 then v.toNat else (streamValue links fuel (links (g.toNat - 8))).toNat
      BitVec.ofNat 32 (streamFn k.opc.toNat f32 (.ofCode (k.rm.toNat - 1)) (src k.tagA k.srcA) (src k.tagB k.srcB) (src k.tagC k.srcC))

/-- A saved stream goes on: it has its value, and its sources by reference have theirs. -/
def Link.resolve (k : Link) (links : Nat → Link) : Link :=
  let src (g : BitVec 4) (v : W32) : W32 := if g.toNat < 8 then v else streamValue links 9 (links (g.toNat - 8))
  if k.live then
    { k with value := streamValue links 10 k, srcA := src k.tagA k.srcA, srcB := src k.tagB k.srcB, srcC := src k.tagC k.srcC }
  else k

/-- What spec/20 R337 has the Parser reject in a record of four doublewords, given the states of the lane's links. -/
def linkBad (links : Nat → W64 × W64 × W64 × W64) (r : W64 × W64 × W64 × W64) : Bool :=
  let a := r.1.toNat
  let ndig := bits a 44 4
  let badRef (g : Nat) : Bool :=
    let x := (links (g - 8)).1.toNat
    decide (8 ≤ g) && (bits x 62 2 == 0 || (bits x 62 2 == 2 && (bits x 61 1 == 0 || bits x 44 4 != 13)))
  decide (4 < bits a 57 3) || (List.range 13).any (fun i => bits a (3 * i) 3 == 4) || decide (13 < ndig)
    || (bits a 62 2 == 1 && bits a 61 1 == 0 && ndig != 0)
    || badRef (bits r.2.2.2.toNat 32 4) || badRef (bits r.2.2.2.toNat 36 4) || badRef (bits r.2.2.2.toNat 40 4)

/-! ## The lane area (spec/07 R141) -/

/-- A lane memory instruction that waits: its words and index, and the mask of its outstanding lanes (spec/14 R259). -/
structure LaneWait where
  word : W64
  wordh : W32
  lidx : Nat
  lanes : Mask
deriving DecidableEq, Repr

/-- What a lane area holds. -/
structure Area where
  /-- The V registers, lane by lane. -/
  v : List W32
  /-- L0 to L7 of lane 0, of lane 1, and so on. -/
  links : List (Link × Nat)
  /-- V results in flight: for each register a record of every lane (spec/20 R338). -/
  flows : List (List (Link × Nat))
  /-- Undecided VFCMPDs: the instruction, and two bits a lane (spec/20 R338). -/
  cmpd : List (Nat × Nat)
  masks : List Mask
  stack : List StackE
  queue : List QItem
  running : Option Block
  waits : List LaneWait
  watch : List WatchE
deriving DecidableEq, Repr

/-- M0 to M15, each with its summary word. -/
def cMasks (w : Nat) : Codec (List Mask) :=
  (cHalves (16 * (w / 32 + 1))).map
    (fun l => l.flatMap fun m => (List.range (w / 32)).map (fun i => BitVec.ofNat 32 (m.toNat / 2 ^ (32 * i))) ++ [summary m])
    fun ws => (List.range 16).map fun k =>
      BitVec.ofNat 1024 (((ws.drop (k * (w / 32 + 1))).take (w / 32)).foldr (fun x a => x.toNat + 2 ^ 32 * a) 0)

/-- An entry of the reconvergence stack: its kind and FMT, its loop's start and block, its masks. -/
def cStackE (w : Nat) : Codec StackE :=
  (cWord.and (cWord.and (cFixed (w / 32)))).map
    (fun e =>
      let kind := match e.kind with
        | .ifk => 0
        | .elsek => 1
        | .loop => 2
      (BitVec.ofNat 64 (kind + e.fmt.toNat * 2 ^ 32), BitVec.ofNat 64 (e.start + e.block * 2 ^ 32), e.mask.toNat + e.cont.toNat * 2 ^ w))
    fun (a, b, m) =>
      { kind := match bits a.toNat 0 2 with
          | 0 => .ifk
          | 1 => .elsek
          | _ => .loop
        fmt := BitVec.ofNat 32 (bits a.toNat 32 32), start := bits b.toNat 0 32, block := bits b.toNat 32 32
        mask := BitVec.ofNat 1024 (m % 2 ^ w), cont := BitVec.ofNat 1024 (m / 2 ^ w), mark := 0 }

/-- A block as its record gives it: index, token, precondition set and snapshot. -/
def blockOf (idx tok : Nat) (set : W32) (snap : List W64) : Block :=
  { disp := 0, idx := idx, tok := tok, set := set, waiting := 0, pois := none, snap := sparseOf 0 snap, later := [], unsure := [], after := []
    budget := 0 }

/-- An entry of the lane-block queue: index, token, precondition set and snapshot; a change of FMT has bit 31 set. -/
def QItem.words : QItem → List W64
  | .fmt v => [BitVec.ofNat 64 (2 ^ 31 + v.toNat * 2 ^ 32)]
  | .block b => BitVec.ofNat 64 (b.idx % 2 ^ 20 + b.tok % 32 * 2 ^ 20 + b.set.toNat * 2 ^ 32) :: (List.range 64).map fun r => b.snap.get 0 r

def cQItem : Codec QItem :=
  { put := QItem.words
    get := fun l => match l with
      | [] => none
      | x :: l =>
        let hi := BitVec.ofNat 32 (bits x.toNat 32 32)
        if bits x.toNat 31 1 = 1 then some (.fmt hi, l)
        else if l.length < 64 then none
        else some (.block (blockOf (bits x.toNat 0 20) (bits x.toNat 20 5) hi (l.take 64)), l.drop 64) }

/-- The position of the lane stream: with bit 63 set the lane index of the running block ([13:0]) and the pass ([20:16]), and then the
block's token, precondition set and snapshot. -/
def cRunning : Codec (Option Block) :=
  { put := fun o => match o with
      | none => [0]
      | some b => BitVec.ofNat 64 (2 ^ 63 + b.idx % 2 ^ 14) :: (QItem.block b).words
    get := fun l => match l with
      | [] => none
      | x :: l =>
        if bits x.toNat 63 1 = 0 then some (none, l)
        else match cQItem.get l with
          | some (.block b, l) => some (some { b with idx := bits x.toNat 0 14 }, l)
          | _ => none }

/-- The saved form of a watch entry whose age is in `born` (spec/22 R352). -/
def cWatchE (w : Nat) : Codec WatchE :=
  (cWord.and (cWord.and (cFixed ((w + 63) / 64)))).map
    (fun e =>
      let st := match e.st with
        | .unresolved => 0
        | .confirmed => 1
        | .struck => 2
      let age := if e.isSealed && e.st == .unresolved then min 63 e.born else 0
      (BitVec.ofNat 64 (st * 2 ^ 62 + e.set.toNat * 2 ^ 60 + e.isSealed.toNat * 2 ^ 59 + age * 2 ^ 52 + e.line % 2 ^ 45),
        BitVec.ofNat 64 (e.version.toNat * 2 ^ 48 + (if e.isSealed then 0 else e.epoch.toNat * 2 ^ 32)), e.mask.toNat))
    fun (a, b, m) =>
      { id := 0, set := BitVec.ofNat 2 (bits a.toNat 60 2), isSealed := bits a.toNat 59 1 == 1, born := bits a.toNat 52 7
        st := match bits a.toNat 62 2 with
          | 0 => .unresolved
          | 1 => .confirmed
          | _ => .struck
        line := bits a.toNat 0 45, version := BitVec.ofNat 16 (bits b.toNat 48 16), epoch := BitVec.ofNat 16 (bits b.toNat 32 16)
        mask := BitVec.ofNat 1024 m, page := 0, struckSeal := false, answer := none, rwc := 0, disp := 0, home := 0, op := 0 }

def cLaneWait (w : Nat) : Codec LaneWait :=
  (cWord.and (cWord.and (cFixed ((w + 63) / 64)))).map
    (fun x => (x.word, BitVec.ofNat 64 (x.wordh.toNat + x.lidx * 2 ^ 32), x.lanes.toNat))
    fun (a, b, m) => { word := a, wordh := b.truncate 32, lidx := bits b.toNat 32 32, lanes := BitVec.ofNat 1024 m }

/-- The parts of the lane area in front of the watch entries, of a team with `regs` V registers and `w` lanes. -/
def cAreaHead (regs w : Nat) :=
  (cHalves (regs * w)).and ((cLink.times (8 * w)).and ((cLink.times w).list.and (((cFixed 2).and (cFixed (w / 32))).list.and
    ((cMasks w).and ((cStackE w).list.and (cQItem.list.and (cRunning.and (cLaneWait w).list)))))))

/-- The lane area. -/
def cArea (regs w : Nat) : Codec Area :=
  ((cAreaHead regs w).and (cWatchE w).list).map
    (fun a => ((a.v, a.links, a.flows, a.cmpd, a.masks, a.stack, a.queue, a.running, a.waits), a.watch))
    fun ((v, links, flows, cmpd, masks, stack, queue, running, waits), watch) =>
      { v := v, links := links, flows := flows, cmpd := cmpd, masks := masks, stack := stack, queue := queue, running := running
        waits := waits, watch := watch }

/-- An undecided VFCMPD: its 96 bits, and for each lane whether it has decided and its result; a lane that is not active has a
result and no decision (DESIGN CHOICE, log entry 15). -/
def CmpdE.saved (e : CmpdE) (w : Nat) : Nat × Nat :=
  let word := match encLane 0x04F e.f with
    | .lane x => x.toNat
    | _ => 0
  let one (l : Nat) : Nat :=
    if !e.act.getLsbD l then 2 else if e.left.getLsbD l then 0 else if e.hit.getLsbD l then 3 else 1
  (word, (List.range w).foldl (fun a l => a + one l * 4 ^ l) 0)

/-- The same, read. -/
def cmpdOf (w : Nat) (p : Nat × Nat) : CmpdE :=
  let pick (f : Nat → Bool) : Mask := maskOf ((List.range w).filter fun l => f (bits p.2 (2 * l) 2))
  { f := laneFields p.1, disp := 0, act := pick (· != 2), left := pick (· == 0), hit := pick (· == 3), vals := [], vb := 0 }

/-- What a team's lane area holds, with the waits of its lane memory instructions. -/
def Team.area (t : Team) (waits : List LaneWait) : Area :=
  let w := t.width
  let t := t.stopUnwanted 9
  let regs := (t.vs.map fun p => p.1 / 1024).eraseDups
  { v := (List.range (w * (8 * t.budget))).map fun i => t.v.get 0 (i % (8 * t.budget) * 1024 + i / (8 * t.budget))
    links := (List.range (8 * w)).map fun i => (t.savedLink (i / 8) (t.getL (i % 8) (i / 8)), 256 + i % 8)
    flows := regs.map fun r => (List.range w).map fun l => (t.savedLink l (t.vs.get .blank (r * 1024 + l)), r)
    cmpd := t.cmpd.map fun e => e.saved w
    masks := (List.range 16).map t.getM, stack := t.stack, queue := t.queue, running := t.running, waits := waits, watch := t.watch }

/-- A saved block with what its record does not hold: from the rest of the image, or as a dispatch now would find it. -/
def Block.with_ (b : Block) (t : Team) (rest : Option Block) (disp : Nat) : Block :=
  match rest with
  | some r => { r with idx := b.idx, tok := b.tok, set := b.set, snap := b.snap }
  | none =>
    let st (n : Nat) : TokSt := (t.getT n).st
    let named := (List.range 32).filter fun n => b.set.getLsbD n
    { b with
      disp := disp, budget := t.budget
      waiting := BitVec.ofNat 32 ((named.filter fun n => st n != .done && st n != .poisoned).foldl (fun a n => a + 2 ^ n) 0)
      pois := (named.find? fun n => st n == .poisoned).map fun n => (n, (t.getT n).origin) }

/-- The items of a queue with what their records do not hold. -/
def itemsWith (t : Team) (rest : List QItem) : List QItem → Nat → List QItem
  | [], _ => []
  | .fmt v :: l, n => .fmt v :: itemsWith t rest l n
  | .block b :: l, n =>
    let r := match rest[n]? with
      | some (.block r) => some r
      | _ => none
    .block (b.with_ t r (n + 1)) :: itemsWith t rest l (n + 1)

/-- Two lists side by side, where they have one length. -/
def zipRest {α β γ : Type} (f : α → Option β → γ) (l : List α) (rest : List β) : List γ :=
  (List.range l.length).zip l |>.map fun p => f p.2 (if rest.length = l.length then rest[p.1]? else none)

/-- A team, as its record and the rest of the image give it, with what its lane area holds. -/
def Team.withArea (t : Team) (a : Area) : Team :=
  let w := t.width
  let regs := 8 * t.budget
  let v := a.v.toArray
  let ls := a.links.toArray
  let link (n l : Nat) : Link := (ls.getD (8 * l + n) (Link.blank, 0)).1
  let of (m : Sparse Link) (key : Nat) (k : Link) : Link := match m.find? key with
    | some x => if k.live then { k with disp := x.disp, vsrc := x.vsrc } else k
    | none => k
  let flow (g : List (Link × Nat)) : Sparse Link :=
    let r := g.foldl (fun n p => max n p.2) 0
    ((List.range w).zip g).filterMap fun p =>
      if p.2.1.live then some (r * 1024 + p.1, of t.vs (r * 1024 + p.1) { p.2.1.resolve (fun n => link n p.1) with lock := true }) else none
  let vs := (a.flows.flatMap flow).foldl (fun (m : Sparse Link) p => m.set p.1 p.2) []
  let value (k l : Nat) : W32 := match vs.find? (k * 1024 + l) with
    | some x => x.value
    | none => v.getD (l * regs + k) 0
  let cmp (p : Nat × Nat) (rest : Option CmpdE) : CmpdE :=
    let e := cmpdOf w p
    let c := e.f.sb.toNat
    let own (l : Nat) : W32 := if c < 256 then value c l else if c = 511 then e.f.imm else 0
    let follow (l : Nat) : Bool := e.f.ch && e.left.getLsbD l && decide (c < 256) && (vs.find? (c * 1024 + l)).isSome
    { e with
      vb := maskOf ((List.range w).filter follow)
      disp := (rest.map fun r => r.disp).getD 0
      vals := if 256 ≤ c ∧ c < 264 then [] else match rest with
        | some r => r.vals
        | none => (List.range w).foldl (fun (m : Sparse W32) l => if e.left.getLsbD l then m.set l (own l) else m) [] }
  { t with
    v := (List.range (regs * w)).filterMap fun k =>
      let x : W32 := value (k / w) (k % w)
      if (x == 0) = true then none else some (k / w * 1024 + k % w, x)
    links := (List.range (8 * w)).filterMap fun k =>
      let x := link (k / w) (k % w)
      let key := k / w * 1024 + k % w
      if x = Link.blank then none else some (key, of t.links key (x.resolve fun n => link n (k % w)))
    vs := vs, cmpd := zipRest cmp a.cmpd t.cmpd
    m := (List.range 16).zip a.masks |>.filter fun p => p.2 != (if p.1 = 0 then t.allLanes else 0)
    stack := zipRest (fun e r => { e with mark := (r.map fun x => x.mark).getD 0 }) a.stack t.stack
    queue := itemsWith t t.queue a.queue 0
    running := a.running.map fun b => b.with_ t t.running 0
    disp := max t.disp ((a.queue.length + 1))
    watch := zipRest (fun e r => match r with
      | some x => { x with st := e.st, set := e.set, isSealed := e.isSealed, born := e.born, line := e.line, version := e.version
                           epoch := e.epoch, mask := e.mask }
      | none => e) a.watch t.watch }

/-! ## The other sections (spec/07 R142) -/

/-- The fixed part of a FIFO's record; the first one of a section ends with the size of the section in bytes. -/
def Fifo.head64 (f : Fifo) (size : Nat) : List W64 :=
  BitVec.ofNat 64 (f.fmt.toNat + (if f.declared then f.depth * 2 ^ 16 else 0)) :: 0 :: numWords 4 (codeNat f.code) ++ [0, BitVec.ofNat 64 size]

/-- The FIFO that a record gives: format, depth, codebook. -/
def fifoOf (b : List Byte) : Fifo :=
  { Fifo.blank with
    declared := fieldAt b 2 2 != 0, fmt := BitVec.ofNat 3 (fieldAt b 0 1), depth := fieldAt b 2 2
    code := (List.range 16).map fun i => BitVec.ofNat 16 (fieldAt b (16 + 2 * i) 2) }

/-- An entry of a FIFO with its position: its poison bit and origin, and its elements. -/
def cFEntry : Codec (Nat × FEntry) :=
  (cWord.and (cWord.and (cFixed 64))).map
    (fun p => (BitVec.ofNat 64 (p.1 + p.2.landed.toNat * 2 ^ 32 + p.2.pois.toNat * 2 ^ 33), p.2.origin,
      codeNat ((List.range 256).map fun i => BitVec.ofNat 16 (listGet 0 p.2.elems i))))
    fun (a, o, v) =>
      (bits a.toNat 0 32, { elems := (natCodes 256 v).map BitVec.toNat, got := if bits a.toNat 32 1 = 1 then 256 else 0
                            landed := bits a.toNat 32 1 == 1, pois := bits a.toNat 33 1 == 1, origin := o })

/-- The rest of a FIFO's record: the position counts, a CBLD in progress with its switch position, team and token, and the
entries. -/
def cFifoRest : Codec (W64 × List (W64 × W64 × Nat) × List (Nat × FEntry)) :=
  cWord.and ((cWord.and (cWord.and (cFixed 4))).list.and cFEntry.list)

/-- A parameter set in 48 doublewords. -/
def ParSet.out (p : ParSet) : List W64 := padTo 48 (BitVec.ofNat 64 (p.words.length * 2 + p.pois.toNat) :: p.origin :: pairs p.words)
/-- The same, read. -/
def parSetOf (l : List W64) : ParSet :=
  let h := (listGet 0 l 0).toNat
  { words := (halves (l.drop 2)).take (h / 2), pois := h % 2 == 1, origin := listGet 0 l 1 }

/-- A barrier's part of the gang section. -/
def Bar.words (b : Bar) : List W64 :=
  let last (m : Nat) : W64 := match b.last.find? m with
    | some (p, used) => BitVec.ofNat 64 (p.toNat + used.toNat * 2 ^ 32 + 2 ^ 33)
    | none => 0
  padTo 8 (BitVec.ofNat 64 (b.phase.toNat + b.pois.toNat * 2 ^ 32) :: numWords 5 b.arrivals.toNat ++ (List.range 257).map last)

/-- The same, read, with what the section does not hold. -/
def barOf (b : Bar) (l : List W64) : Bar :=
  let h := (listGet 0 l 0).toNat
  { b with
    phase := BitVec.ofNat 32 h, pois := bits h 32 1 == 1, arrivals := BitVec.ofNat 257 (wordsNat ((l.drop 1).take 5))
    last := ((List.range 257).zip (l.drop 6)).filterMap fun p =>
      let x := p.2.toNat
      if bits x 33 1 = 1 then some (p.1, BitVec.ofNat 32 x, bits x 32 1 == 1) else none }

/-- The gang section: bound groups, group members, and each barrier. -/
def Gang.words (x : Gang) : List W64 :=
  let bound (n : Nat) : Byte := match (x.bars.get .blank n).bound with
    | some k => k.zeroExtend 8
    | none => 0xFF
  padTo 32 (padTo 32 (numWords 2 (bytesNat ((List.range 16).map bound)))
    ++ (List.range 8).flatMap (fun k => padTo 8 (numWords 5 (x.groups.get 0 k).toNat))
    ++ (List.range 16).flatMap fun n => (x.bars.get .blank n).words)

/-- Bytes of the gang section that a blank has, and of a saved one. -/
def gangBytes (blank : Bool) : Nat := if blank then 768 else 768 + 16 * 264 * 8

/-- The gang with what its section holds. -/
def Gang.withSection (x : Gang) (b : List Byte) (blank : Bool) : Gang :=
  if b.isEmpty then x
  else
    let bound (n : Nat) : Option (BitVec 3) :=
      let v := fieldAt b n 1
      if v < 8 then some (BitVec.ofNat 3 v) else none
    let ws := (bytesWords (b.drop 768)).toArray
    let bar (n : Nat) : Bar :=
      let y := if blank then Bar.blank else barOf (x.bars.get .blank n) ((List.range 264).map fun i => ws.getD (264 * n + i) 0)
      { y with bound := bound n }
    { x with
      bars := ((List.range 16).map fun n => (n, bar n)).filter fun p => p.2 != Bar.blank
      groups := sparseOf 0 ((List.range 8).map fun k => BitVec.ofNat 257 (fieldAt b (256 + 64 * k) 33)) }

/-- The top-k row of eight pairs behind their number. -/
def topkRow (l : List (W32 × W32)) : List W64 :=
  BitVec.ofNat 64 l.length :: (List.range 8).map fun j => match l[j]? with
    | some e => BitVec.ofNat 64 (e.1.toNat + e.2.toNat * 2 ^ 32)
    | none => 0

/-- The sequencer section; `wait` is its wait-for entry. -/
def Gang.seqWords (x : Gang) (wait : List W64) : List W64 :=
  let st := if x.halted then 2 else if x.swait.isSome then 1 else 0
  let flags := x.topkLargest.toNat + x.topkPois.toNat * 2 + x.underflow.toNat * 4 + x.spois.toNat * 8
  padTo 32 ([x.spc, BitVec.ofNat 64 st] ++ wait ++ pairs ((List.range 16).map fun n => x.n.get 0 n)
    ++ (List.range 7).map (fun k => (x.k.get (BitVec.allOnes 48) (k + 1)).zeroExtend 64)
    ++ [BitVec.ofNat 64 flags, x.topkOrigin, x.sorigin] ++ (List.range 16).flatMap fun r => topkRow (x.topk.get [] r))

/-- Bytes of the sequencer section that a blank has, and of a saved one. -/
def seqBytes (blank : Bool) : Nat := if blank then 256 else 1536

/-- The gang with what its sequencer section holds. -/
def Gang.withSeq (x : Gang) (b : List Byte) (blank : Bool) : Gang :=
  let x := { x with spc := BitVec.ofNat 64 (fieldAt b 0 8) }
  if blank then x
  else
    let l := bytesWords b
    let flags := (listGet 0 l 25).toNat
    let row (r : Nat) : List (W32 × W32) :=
      let p := l.drop (28 + 9 * r)
      ((p.drop 1).take (min 8 (listGet 0 p 0).toNat)).map fun e => (BitVec.ofNat 32 (bits e.toNat 0 32), BitVec.ofNat 32 (bits e.toNat 32 32))
    { x with
      halted := bits (listGet 0 l 1).toNat 0 2 == 2
      swait := if bits (listGet 0 l 1).toNat 0 2 = 1 then x.swait else none
      n := sparseOf 0 (halves ((l.drop 10).take 8))
      k := ((List.range 7).zip (l.drop 18)).filterMap fun p =>
        if (p.2.truncate 48 : BitVec 48) = BitVec.allOnes 48 then none else some (p.1 + 1, p.2.truncate 48)
      topkLargest := bits flags 0 1 == 1, topkPois := bits flags 1 1 == 1, underflow := bits flags 2 1 == 1, spois := bits flags 3 1 == 1
      topkOrigin := listGet 0 l 26, sorigin := listGet 0 l 27, topk := sparseOf [] ((List.range 16).map row) }

end Sys2Proof.Machine
end

