-- ==== Sys2Proof/Machine/Image.lean ====
section
/-! DEFINITION. Launch records and launch images: their fields, the Parser's checks, and the gang that an image of any KIND gives
(spec/07 R137, R140 to R144, spec/06 R122, R123). The spec gives the content of the sequencer, gang, FIFO, scratchpad, accumulator,
engine and debug sections but not every offset in them: DESIGN CHOICE, log entry 15. -/

namespace Sys2Proof.Machine

/-! ## Reading an image -/

/-- Bytes at a virtual address of a partition, page by page; none where they cannot be read: a translation fault, a page
that is not plain memory with R, poison or an uncorrectable error. -/
def State.virtRead (s : State) (p : Nat) : Nat → Nat → Nat → Option (List Byte)
  | 0, _, n => if n = 0 then some [] else none
  | fuel + 1, va, n =>
    if n = 0 then some []
    else if 2 ^ 54 ≤ va then none
    else
      let k := min n (4096 - va % 4096)
      match s.walk p va with
      | .leaf l =>
        let pa := l.pa va
        if !l.r || l.type != 0 || s.markedRange pa k || (s.eccHit pa k).2.isSome then none
        else
          match s.virtRead p fuel (va + k) (n - k) with
          | some r => some (s.memBytes pa k ++ r)
          | none => none
      | _ => none

/-- Bytes of an image. -/
def State.imageRead (s : State) (p va n : Nat) : Option (List Byte) := s.virtRead p (n / 4096 + 3) va n

/-- An image as read: its header, its team records with their lane areas, and its sections. -/
structure Raw where
  hdr : List Byte
  teams : List (List Byte)
  lanes : List (List Byte)
  seq : List Byte
  gang : List Byte
  fifo : List Byte
  scr : List Byte
  acc : List Byte
  eng : List Byte
  dbg : List Byte
deriving DecidableEq, Repr

/-- A field of the header. -/
def Raw.h (r : Raw) (off n : Nat) : Nat := fieldAt r.hdr off n
def Raw.kind (r : Raw) : Nat := bits (r.h 8 4) 3 2
def Raw.lanesU (r : Raw) : Nat := bits (r.h 12 4) 0 7
def Raw.scratch (r : Raw) : Nat := bits (r.h 12 4) 8 7
def Raw.acc_ (r : Raw) : Nat := bits (r.h 12 4) 16 7
def Raw.nteams (r : Raw) : Nat := r.h 0x3C 2
def Raw.nseq (r : Raw) : Nat := r.h 0x3E 1
def Raw.ncores (r : Raw) : Nat := r.h 0x3F 1
def Raw.haddr (r : Raw) : Nat := r.h 0x20 8

/-- Bytes of the scratchpad data and line states of one member core. -/
def padBytes (scratch : Nat) : Nat := 16384 * scratch + 32 * scratch
/-- Bytes of the tiles of one member core with their types and poison. -/
def accBytes (acc : Nat) : Nat := 16384 * acc + 256 * acc
/-- Bytes of the epilogue parameter sets of one member core. -/
def parBytes : Nat := 1152

/-- A field of DESC of a team record. -/
def desc (b : List Byte) (lo n : Nat) : Nat := bits (fieldAt b 0 4) lo n
/-- Lanes of the team of a record. -/
def recWidth (b : List Byte) : Nat := 32 * 2 ^ min 5 (desc b 1 3)
/-- V registers of the team of a record. -/
def recRegs (b : List Byte) : Nat := 8 * min 32 (desc b 16 8)

/-- The sizes of sections are no larger than this; a section that says it is cannot be read. -/
def sectionMax : Nat := 2 ^ 28

/-- Read an image through a reader of bytes at its offsets: what is not there is answered with the offset at which reading
failed. -/
def readRaw (read : Nat → Nat → Option (List Byte)) : Except Nat Raw :=
  match read 0 256 with
  | none => .error 0
  | some h =>
    let f (off n : Nat) : Nat := fieldAt h off n
    let nt := min 256 (f 0x3C 2)
    let nc := min 4 (f 0x3F 1)
    let scr := min 96 (bits (f 12 4) 8 7)
    let acc := min 16 (bits (f 12 4) 16 7)
    let blank := bits (f 8 4) 3 2 == 0
    let part (off n : Nat) : Option (List Byte) := if sectionMax < n then none else read off n
    let sec (at_ n : Nat) : Option (List Byte) := if f at_ 8 = 0 ∨ n = 0 then some [] else part (f at_ 8) n
    let said (at_ first off : Nat) : Nat :=
      if blank then first else match sec at_ first with
        | some b => max first (fieldAt b off 8)
        | none => first
    let size (at_ : Nat) : Nat := match at_ with
      | 0x48 => if f 0x3E 1 = 0 then 0 else seqBytes blank
      | 0x50 => gangBytes blank
      | 0x58 => said 0x58 (512 * nc) 56
      | 0x60 => padBytes scr * nc
      | 0x68 => (accBytes acc + parBytes) * nc
      | 0x70 => if blank then 0 else said 0x70 64 16
      | _ => 160 * nc
    let offs := [0x48, 0x50, 0x58, 0x60, 0x68, 0x70, 0x78]
    match read (f 0x40 8) (4096 * nt), offs.find? fun o => (sec o (size o)).isNone with
    | none, _ => .error (f 0x40 8)
    | _, some o => .error (f o 8)
    | some t, none =>
      let get (o : Nat) : List Byte := (sec o (size o)).getD []
      let teams := (List.range nt).map fun i => (t.drop (4096 * i)).take 4096
      let area (b : List Byte) : Option (List Byte) :=
        let off := fieldAt b 0x480 8
        if off = 0 ∨ desc b 0 1 = 1 then some []
        else part off (if blank then 4 * recRegs b * recWidth b else fieldAt b 0x488 8)
      match teams.find? fun b => (area b).isNone with
      | some b => .error (fieldAt b 0x480 8)
      | none =>
        .ok { hdr := h, teams := teams, lanes := teams.map fun b => (area b).getD [], seq := get 0x48, gang := get 0x50, fifo := get 0x58
              scr := get 0x60, acc := get 0x68, eng := get 0x70, dbg := get 0x78 }

/-- The image at a virtual address of a partition. -/
def State.readImage (s : State) (p va : Nat) : Except Nat Raw := readRaw fun off n => s.imageRead p (va + off) n
/-- The image at a physical address. -/
def State.readAt (s : State) (pa : Nat) : Except Nat Raw :=
  readRaw fun off n => if s.markedRange (pa + off) n || (s.eccHit (pa + off) n).2.isSome then none else some (s.memBytes (pa + off) n)

/-! ## Team records (spec/07 R141) -/

/-- The lane area of a saved team, as far as it can be read. -/
def areaOf (b lane : List Byte) : Option Area := ((cArea (recRegs b) (recWidth b)).get (bytesWords lane)).map Prod.fst

/-- The wait of a saved team: what the rest of the image says of it, with the time limit of the record; without it, a wait on tokens
with a limit. -/
def waitOf (b : List Byte) (rest : Option Wait) : Option Wait :=
  let left := fieldAt b (0x440 + 60) 4
  if desc b 24 2 != 1 then none
  else
    match rest with
    | some w => some { w with limit := w.limit.map fun _ => left }
    | none =>
      if left = 0 ∨ fieldAt b (0x440 + 8) 1 != 0 then none
      else some { obj := .tokens (BitVec.ofNat 32 (fieldAt b (0x440 + 16) 4)), since := 0, limit := some left, phase := 0, result := none }

/-- The team that a record gives, with its lane area, and, in an image that is no blank, the rest of the image. -/
def teamOf (blank : Bool) (b lane : List Byte) (rest : Option Team) : Team :=
  let w (off : Nat) : W64 := BitVec.ofNat 64 (fieldAt b off 8)
  let copy := desc b 0 1 == 1
  let budget := desc b 16 8
  let base := rest.getD { Team.blank with launchBudget := budget, lanes := 16384 - Config.laneCut (fieldAt b 0x10 8) }
  let t : Team :=
    { base with
      s := (sparseOf 0 ((List.range 64).map fun i => w (0x40 + 8 * i))).filter fun p => p.1 != 0
      tok := sparseOf Tok.blank ((List.range 32).map (tokOf b))
      fmt := fmtBits (BitVec.ofNat 32 (fieldAt b 4 4)), pc := w 8, lcb := w 0x10, epc := w 0x18, hstat := w 0x20, tword := w 0x28,
      twordh := w 0x30, rwc := w 0x38, copy := copy, wcode := BitVec.ofNat 3 (desc b 1 3), core := desc b 4 2,
      quarter := desc b 6 2, depth := 32 * desc b 8 8, budget := budget, exited := desc b 24 2 == 2
      wait := if blank then none else waitOf b base.wait }
  if copy then t
  else if blank then
    let regs := recRegs b
    let width := recWidth b
    let v := (halves (bytesWords lane)).toArray
    { t with v := if lane.isEmpty then [] else (List.range (regs * width)).filterMap fun k =>
        let x := v.getD (k % width * regs + k / width) 0
        if (x == 0) = true then none else some (k / width * 1024 + k % width, x) }
  else match areaOf b lane with
    | some a => t.withArea a
    | none => t

/-- Register units that a team record takes on its core (spec/06 R123). -/
def recordUnits (b : List Byte) : Nat :=
  if desc b 0 1 = 1 then 0
  else
    let w := 32 * 2 ^ desc b 1 3
    let n := 32 * desc b 8 8
    desc b 16 8 * (w / 32) + ((n - 32) * (16 + w / 4) + 1023) / 1024

/-! ## The engine section (spec/07 R142, spec/16 R290) -/

/-- Where the rest of an image begins, behind the engine sections of its member cores, each of which says its own size. -/
def engEnd (ws : Array W64) : Nat → Nat → Nat
  | 0, at_ => at_
  | n + 1, at_ => engEnd ws n (at_ + max 8 ((ws.getD (at_ + 3) 0).toNat / 8))

/-- The rest of an image, with whether its context had halted on a fatal fault; none where the image has none. -/
def Raw.rest (r : Raw) : Option (Bool × Image) :=
  let ws := bytesWords r.eng
  if r.eng.isEmpty then none else (cImage.get (ws.drop (engEnd ws.toArray r.ncores 0))).map Prod.fst

/-- A stop image of a fatal fault, which is not resumed (spec/16 R299). -/
def Raw.fatal (r : Raw) : Bool := r.kind != 0 && (r.rest.map Prod.fst).getD false

/-- The stop records of a member core's engine section with their snapshots; `at_` is the section's doubleword in the engine part,
`base` the offset of that part in the image. -/
def stopsOf (ws : Array W64) (at_ base : Nat) : List (List W64 × List W64) :=
  let n := min (ws.getD at_ 0).toNat (ws.size / 8)
  (List.range n).map fun i =>
    let r := (List.range 8).map fun j => ws.getD (at_ + 8 + 8 * i + j) 0
    let a := (listGet 0 r 4).toNat
    (r, if a < base then [] else (List.range 8).map fun j => ws.getD ((a - base) / 8 + j) 0)

/-! ## The Parser's checks (spec/07 R144) -/

/-- A launch record: sixteen doublewords (spec/07 R137). -/
structure LRec where
  w : List W64
deriving DecidableEq, Repr

def LRec.f (r : LRec) (i lo n : Nat) : Nat := bits (listGet 0 r.w i).toNat lo n
def LRec.image (r : LRec) : Nat := r.f 0 0 54
def LRec.signalOnly (r : LRec) : Bool := r.f 1 30 2 == 1
def LRec.imgparam (r : LRec) : Bool := r.f 1 27 1 == 1
def LRec.gangs (r : LRec) : Nat := r.f 1 0 21

/-- Launch parameters: from the record, or with IMGPARAM from the header. -/
structure LParam where
  prio : Nat
  deadline : Nat
  waits : List Nat
  sigs : Nat
  sigv : Nat
deriving DecidableEq, Repr

/-- The parameters of a launch. -/
def LRec.params (r : LRec) (raw : Option Raw) : LParam :=
  match r.imgparam, raw with
  | true, some h =>
    { prio := bits (h.h 0x80 8) 0 3, deadline := bits (h.h 0x80 8) 32 32, waits := (List.range 4).map fun i => h.h (0x88 + 8 * i) 8,
      sigs := h.h 0xA8 8, sigv := h.h 0xB0 8 }
  | _, _ =>
    { prio := r.f 1 24 3, deadline := r.f 1 32 32, waits := (List.range 4).map fun i => (listGet 0 r.w (3 + i)).toNat,
      sigs := (listGet 0 r.w 7).toNat, sigv := (listGet 0 r.w 8).toNat }

/-- A wait word with a reserved bit or code. -/
def waitBad (w : Nat) : Bool := bits w 18 14 != 0 || bits w 16 2 == 3 || (bits w 16 2 == 0 && w != 0)
/-- The layout of dw8 has a reserved bit set. -/
def sigvBad (w : Nat) : Bool := bits w 32 32 != 0 || bits w 5 11 != 0

/-- The event names that a launch uses, each with the offset of its doubleword from that of WAIT0. -/
def LParam.names (l : LParam) : List (Nat × Nat) :=
  ((List.range 4).filter fun i => bits (listGet 0 l.waits i) 16 2 != 0).map (fun i => (listGet 0 l.waits i % 2 ^ 16, 8 * i))
    ++ ((List.range 4).filter fun i => bits l.sigv i 1 == 1).map (fun i => (bits l.sigs (16 * i) 16, 32))
    ++ (if bits l.sigv 4 1 = 1 then [(bits l.sigv 16 16, 40)] else [])

/-- The first check of a list that fails, with its cause and the offset of the field. -/
def firstCause : List (Bool × Nat × Nat) → Option (Nat × Nat)
  | [] => none
  | (b, c) :: l => if b then some c else firstCause l

/-- Reserved fields of the record (cause 4). -/
def LRec.reserved (r : LRec) : List (Bool × Nat × Nat) :=
  [ (r.f 0 54 10 != 0, 4, 0), (r.f 1 28 2 != 0 || r.f 1 21 3 != 0 || decide (2 ≤ r.f 1 30 2), 4, 8) ]
  ++ (List.range 4).map (fun i => (waitBad (listGet 0 r.w (3 + i)).toNat, 4, 24 + 8 * i))
  ++ [ (sigvBad (listGet 0 r.w 8).toNat, 4, 64) ]
  ++ (List.range 7).map fun i => (listGet 0 r.w (9 + i) != 0, 4, 72 + 8 * i)

/-- Token n of a team record has a reserved bit set, or is CLAIMED without being PENDING (spec/11 R206). -/
def tokenBad (b : List Byte) (n : Nat) : Bool :=
  let lo := fieldAt b (0x240 + 16 * n) 8
  bits lo 16 48 != 0 || bits lo 3 5 != 0 || (bits lo 2 1 == 1 && bits lo 0 2 != 1)

/-- The reserved fields, bits and codes of a team record that stands at an offset of the image (spec/07 R141, spec/01 R24, spec/11
R206, spec/16 R287). -/
def recordReserved (at_ : Nat) (b : List Byte) : List (Bool × Nat × Nat) :=
  [ (desc b 26 6 != 0 || desc b 24 2 == 3, 4, at_), (bits (fieldAt b 0x20 8) 1 7 != 0 || bits (fieldAt b 0x20 8) 29 35 != 0, 4, at_ + 0x20) ]
  ++ (List.range 32).map (fun n => (tokenBad b n, 4, at_ + 0x240 + 16 * n))
  ++ [ (bits (fieldAt b 0x440 8) 22 42 != 0, 4, at_ + 0x440), ((b.drop 0x490).any (· != 0), 4, at_ + 0x490) ]

/-- Four doublewords at an index. -/
def quadAt (a : Array W64) (i : Nat) : W64 × W64 × W64 × W64 := (a.getD i 0, a.getD (i + 1) 0, a.getD (i + 2) 0, a.getD (i + 3) 0)

/-- Link records of a lane area, and records of V results in flight, that the Parser rejects (spec/20 R337); `at_` is where the area
stands. -/
def linksBad (at_ : Nat) (b lane : List Byte) : List (Bool × Nat × Nat) :=
  let ws := (bytesWords lane).toArray
  let v := recRegs b * recWidth b / 2
  let w := recWidth b
  let link (l n : Nat) : W64 × W64 × W64 × W64 := quadAt ws (v + 4 * (8 * l + n))
  let groups := min (ws.getD (v + 32 * w) 0).toNat (ws.size / (4 * w + 1))
  (List.range (8 * w)).map (fun i => (linkBad (link (i / 8)) (link (i / 8) (i % 8)), 4, at_ + 8 * (v + 4 * i)))
  ++ (List.range (groups * w)).map fun i =>
    let k := v + 32 * w + 1 + 4 * i
    (linkBad (link (i % w)) (quadAt ws k), 4, at_ + 8 * k)

/-- Watch entries of a lane area that the Parser rejects (spec/22 R352): STATE 3, a lane beyond the team, more than 32 unresolved. -/
def watchBad (at_ : Nat) (b lane : List Byte) : List (Bool × Nat × Nat) :=
  let ws := bytesWords lane
  let w := recWidth b
  match (cAreaHead (recRegs b) w).get ws with
  | none => []
  | some (_, l) =>
    let first := ws.length - l.length
    let a := l.toArray
    let size := 2 + (w + 63) / 64
    let n := min (a.getD 0 0).toNat (a.size / size)
    let e (i : Nat) : Nat := 1 + i * size
    let open_ := (List.range n).filter fun i => bits (a.getD (e i) 0).toNat 62 2 == 0
    (List.range n).map (fun i =>
      (bits (a.getD (e i) 0).toNat 62 2 == 3 || (w == 32 && bits (a.getD (e i + 2) 0).toNat 32 32 != 0), 4, at_ + 8 * (first + e i)))
    ++ [(decide (32 < open_.length), 4, at_ + 8 * first)]

/-- Watch entries in the lane areas of a core's teams. -/
def Raw.entriesOn (r : Raw) (c : Nat) : Nat :=
  (r.teams.zip r.lanes).foldl (fun n p => if desc p.1 4 2 = c then n + ((areaOf p.1 p.2).map fun a => a.watch.length).getD 0 else n) 0

/-- What the Parser rejects in the lane areas of an image that is no blank; an area that has not its form cannot be read (DESIGN CHOICE,
log entry 15). -/
def Raw.areas (r : Raw) : List (Bool × Nat × Nat) :=
  if r.kind = 0 then []
  else
    (r.teams.zip r.lanes).flatMap (fun p =>
      let at_ := fieldAt p.1 0x480 8
      if desc p.1 0 1 = 1 then [] else linksBad at_ p.1 p.2 ++ watchBad at_ p.1 p.2)
    ++ (List.range 4).map fun c => (decide (128 < r.entriesOn c), 4, r.h 0x40 8)

/-- A line of the scratchpad section has the reserved state. -/
def Raw.lineBad (r : Raw) : Bool :=
  (List.range r.ncores).any fun m =>
    ((r.scr.drop (m * padBytes r.scratch + 16384 * r.scratch)).take (32 * r.scratch)).any fun x =>
      (List.range 4).any fun k => bits x.toNat (2 * k) 2 == 3

/-- Reserved fields of the header and the team records (cause 4; spec/16 R282 for HADDR). -/
def Raw.reserved (r : Raw) : List (Bool × Nat × Nat) :=
  [ (bits (r.h 8 4) 5 27 != 0, 4, 8), (bits (r.h 12 4) 7 1 != 0 || bits (r.h 12 4) 15 1 != 0 || bits (r.h 12 4) 23 9 != 0, 4, 12),
    (bits r.haddr 58 6 != 0 || (bits r.haddr 0 54 == 0 && bits r.haddr 54 4 != 0), 4, 0x20), (bits (r.h 0x2C 4) 20 12 != 0, 4, 0x2C),
    (bits (r.h 0x80 8) 3 29 != 0, 4, 0x80) ]
  ++ (List.range 4).map (fun i => (waitBad (r.h (0x88 + 8 * i) 8), 4, 0x88 + 8 * i))
  ++ [ (sigvBad (r.h 0xB0 8), 4, 0xB0), ((r.hdr.drop 0xB8).any (· != 0), 4, 0xB8) ]
  ++ ((List.range r.teams.length).zip r.teams).flatMap (fun p => recordReserved (r.h 0x40 8 + 4096 * p.1) p.2)
  ++ [ (r.lineBad, 4, r.h 0x60 8) ] ++ r.areas

/-- The offsets of the sections. -/
def Raw.sections (_ : Raw) : List Nat := [0x40, 0x48, 0x50, 0x58, 0x60, 0x68, 0x70, 0x78]

/-- Cause 5. -/
def LRec.shape (r : LRec) (raw : Option Raw) : List (Bool × Nat × Nat) :=
  let own := r.f 1 24 3 != 0 || r.f 1 32 32 != 0 || (List.range 6).any fun i => listGet 0 r.w (3 + i) != 0
  if r.signalOnly then [(r.image != 0, 5, 0), (r.gangs != 0 || (r.imgparam && own), 5, 8)]
  else
    [ (r.image % 256 != 0, 5, 0), (decide (r.gangs = 0) || decide (2 ^ 20 < r.gangs) || (r.imgparam && own), 5, 8) ]
    ++ match raw with
      | none => []
      | some h => (h.sections.map fun o => (h.h o 8 % 256 != 0, 5, o))
          ++ [(decide (h.h 0x28 4 < 64) || decide (65536 < h.h 0x28 4), 5, 0x28)]

/-- A team record, at an offset of the image, against the role table (cause 7). -/
def recordBad (at_ nc : Nat) (b : List Byte) : List (Bool × Nat × Nat) :=
  let copy := desc b 0 1 == 1
  let lcb := fieldAt b 0x10 8
  [ (decide (nc ≤ desc b 4 2) || decide (5 < desc b 1 3)
      || (if copy then desc b 1 3 != 0 || desc b 8 8 != 0 || desc b 16 8 != 0
          else desc b 16 8 == 0 || decide (32 < desc b 16 8) || desc b 8 8 == 0 || decide (8 < desc b 8 8)), 7, at_),
    (if copy then lcb != 0 else lcb == 0, 7, at_ + 0x10), (copy && fieldAt b 0x480 8 != 0, 7, at_ + 0x480),
    (copy && fieldAt b 0x488 8 != 0, 7, at_ + 0x488) ]

/-- The role table (cause 7; spec/06 R115, R123). -/
def Raw.roles (r : Raw) : List (Bool × Nat × Nat) :=
  let nt := r.nteams
  let at_ (c : Nat) : List (List Byte) := r.teams.filter fun b => desc b 4 2 == c
  [ (decide (nt = 0) || decide (256 < nt), 7, 0x3C), (!([1, 2, 4].contains r.ncores), 7, 0x3F) ]
  ++ ((List.range r.teams.length).zip r.teams).flatMap (fun p => recordBad (r.h 0x40 8 + 4096 * p.1) r.ncores p.2)
  ++ (List.range 4).map (fun c =>
    ((List.range 4).any (fun q => decide (16 < ((at_ c).filter fun b => desc b 6 2 == q).length))
      || decide (16 * r.lanesU < (at_ c).foldl (fun n b => n + recordUnits b) 0), 7, 0x3C))

/-- The FIFO record of a member core. -/
def Raw.fifoRec (r : Raw) (m n : Nat) : List Byte := (r.fifo.drop (512 * m + 64 * n)).take 64
/-- Cause 8. -/
def Raw.fifos (r : Raw) : List (Bool × Nat × Nat) :=
  (List.range (min 4 r.ncores)).map fun m =>
    let fs := (List.range 8).map fun n => fifoOf (r.fifoRec m n)
    ((List.range 8).any (fun n => decide (7 < fieldAt (r.fifoRec m n) 0 1))
      || decide (524288 < fs.foldl (fun a f => a + f.depth * f.entryBytes) 0), 8, r.h 0x58 8 + 512 * m)

/-- An address of the image lies in mapped memory. -/
def State.mapped (s : State) (p va : Nat) : Bool :=
  decide (va < 2 ^ 54) && match s.walk p va with
    | .leaf _ => true
    | _ => false

/-- Cause 10. -/
def State.places (s : State) (p : Nat) (r : LRec) (h : Raw) : List (Bool × Nat × Nat) :=
  let team (q : Nat × List Byte) : List (Bool × Nat × Nat) :=
    let at_ := h.h 0x40 8 + 4096 * q.1
    [ (!s.mapped p (fieldAt q.2 8 8), 10, at_ + 8), (desc q.2 0 1 == 0 && !s.mapped p (fieldAt q.2 0x10 8), 10, at_ + 0x10) ]
  [ (h.kind != 0 && r.gangs != 1, 10, 8), (bits h.haddr 0 54 != 0 && !s.mapped p (bits h.haddr 0 54), 10, 0x20) ]
  ++ ((List.range h.teams.length).zip h.teams).flatMap team
  ++ [ (h.nseq == 1 && !s.mapped p (fieldAt h.seq 0 8), 10, h.h 0x48 8), (!s.mapped p (h.h 0x30 8), 10, 0x30) ]

/-- The physical address of an image. -/
def State.imagePa (s : State) (p va : Nat) : Nat :=
  match s.walk p va with
  | .leaf l => l.pa va
  | _ => 0

/-- Verify a launch record with its image: the cause and the offset of the first check that fails (spec/07 R144). -/
def State.verify (s : State) (p : Nat) (pt : Part) (r : LRec) (raw : Option (Except Nat Raw)) : Option (Nat × Nat) :=
  let img := match raw with
    | some (.ok h) => some h
    | _ => none
  let unread : List (Bool × Nat × Nat) := match raw with
    | some (.error o) => [(true, 1, o)]
    | some (.ok h) =>
      [ (h.kind != 0 && ((h.teams.zip h.lanes).any fun q => desc q.1 0 1 == 0 && (areaOf q.1 q.2).isNone), 1, h.h 0x40 8),
        (h.fatal, 1, h.h 0x70 8) ]
    | none => []
  let l := r.params img
  let names := l.names.map fun n => (decide (n.1 < pt.cfg.ev0) || decide (pt.cfg.ev1 < n.1), 11, (if r.imgparam then 0x88 else 24) + n.2)
  match img with
  | none => firstCause (unread ++ r.reserved ++ r.shape none ++ names)
  | some h =>
    firstCause (unread
      ++ [ (h.h 0 4 != 0xE70B1A5E, 2, 0), (h.h 6 2 != 0x100, 2, 6), (h.h 4 2 != 1, 3, 4) ]
      ++ r.reserved ++ h.reserved ++ r.shape img
      ++ [ (decide (96 < h.lanesU) || decide (96 < h.scratch) || decide (16 < h.acc_) || decide (96 < h.lanesU + h.scratch + h.acc_), 6, 12) ]
      ++ h.roles ++ h.fifos
      ++ [ (h.h 0x10 16 &&& (2 ^ 128 - 1 - s.accept.toNat) != 0, 9, 0x10), (bits (h.h 8 4) 1 1 == 1 && pt.cfg.journS == 0, 9, 8) ]
      ++ s.places p r h ++ names)

/-! ## What an image gives a gang (spec/07 R143) -/

/-- A FIFO with the rest of its record. -/
def Fifo.withRest (f : Fifo) (rest : Option Fifo) (c : W64 × List (W64 × W64 × Nat) × List (Nat × FEntry)) : Fifo :=
  let got (n : Nat) (e : FEntry) : FEntry := match rest with
    | some g => (match g.entries.find? n with
      | some x => { e with got := x.got }
      | none => e)
    | none => e
  let owner := match rest with
    | some g => (match g.cbld with
      | some x => x.2.2
      | none => 0)
    | none => 0
  { f with
    reserved := c.1.truncate 32, popped := (c.1 >>> 32).truncate 32
    cbld := c.2.1.head?.map fun x => (x.1.truncate 32, natCodes 16 x.2.2, owner)
    entries := c.2.2.foldl (fun (m : Sparse FEntry) e => m.set e.1 (got e.1 e.2)) [] }

/-- The FIFOs of every member core, eight each, in order. -/
def Raw.fifosOf (r : Raw) (rest : Nat → Nat → Option Fifo) : List Fifo :=
  let heads := (List.range (8 * r.ncores)).map fun i => fifoOf (r.fifoRec (i / 8) (i % 8))
  if r.kind = 0 then heads
  else match (cFifoRest.times (8 * r.ncores)).get (bytesWords (r.fifo.drop (512 * r.ncores))) with
    | some (l, _) => ((List.range heads.length).zip (heads.zip l)).map fun p => p.2.1.withRest (rest (p.1 / 8) (p.1 % 8)) p.2.2
    | none => heads

/-- A member core: its scratchpad and tiles, parameter sets, FIFOs and debug state; every line of a blank starts FULL (spec/06
R127). -/
def Raw.member (r : Raw) (rest : Option Member) (fifos : List Fifo) (m : Nat) : Member :=
  let pad := (r.scr.drop (m * padBytes r.scratch)).take (16384 * r.scratch)
  let lines := (r.scr.drop (m * padBytes r.scratch + 16384 * r.scratch)).take (32 * r.scratch)
  let acc := r.acc.drop (m * accBytes r.acc_)
  let types := acc.drop (16384 * r.acc_)
  let elems := (halves (bytesWords (acc.take (16384 * r.acc_)))).toArray
  let tile (n : Nat) : Tile :=
    { elems := (List.range 256).map fun e => elems.getD (256 * n + e) 0
      int := fieldAt types (16 * n) 1 == 1, pois := fieldAt types (16 * n + 1) 1 == 1
      origin := BitVec.ofNat 64 (fieldAt types (16 * n + 8) 8) }
  let pars := bytesWords ((r.acc.drop (r.ncores * accBytes r.acc_ + m * parBytes)).take parBytes)
  let dbg := r.dbg.drop (160 * m)
  { rest.getD Member.blank with
    pad := sparseOf 0 pad
    line := if r.kind = 0 then [] else
      sparseOf 1 (lines.flatMap fun x => (List.range 4).map fun k => BitVec.ofNat 2 (bits x.toNat (2 * k) 2))
    tiles := if r.acc.isEmpty then [] else sparseOf Tile.blank ((List.range (16 * r.acc_)).map tile)
    tab := parSetOf pars, bias := parSetOf (pars.drop 48), scl := parSetOf (pars.drop 96)
    fifos := sparseOf Fifo.blank ((fifos.drop (8 * m)).take 8)
    spw := sparseOf 0 ((List.range 4).map fun i => BitVec.ofNat 64 (fieldAt dbg (8 * i) 8))
    ctr := (List.range 8).filterMap fun i =>
      let e := fieldAt dbg (32 + 16 * i) 8
      if e = 0 then none else some (i, e, BitVec.ofNat 64 (fieldAt dbg (40 + 16 * i) 8)) }

/-- The gang that an image describes, not yet placed. -/
def Raw.gangOf (r : Raw) (rest : Option Gang) : Gang :=
  let blank := r.kind == 0
  let g : Gang :=
    { rest.getD Gang.blank with
      idx := bits (r.h 0x2C 4) 0 20, nteams := r.nteams, lanesU := r.lanesU, scratch := r.scratch, acc := r.acc_
      haddr := BitVec.ofNat 64 r.haddr, ttryi := r.h 0x28 4, constb := BitVec.ofNat 64 (r.h 0x30 8), consts := r.h 0x38 4
      check := bits (r.h 8 4) 0 1 == 1, record := bits (r.h 8 4) 1 1 == 1, hasSeq := r.nseq == 1
      awaits := if blank then 0 else fieldAt r.eng 8 8 }
  let g := g.withSection r.gang blank
  if r.nseq = 1 then g.withSeq r.seq blank else g

/-- The position of an engine command: its first segment that is not done, and of the segments from there, in walk order, those
that a fabric port holds (spec/16 R291). -/
def Op.progress (x : Op) : Nat × Nat :=
  let out := (x.reqs.filter fun q => q.id < 2 ^ 62).dropWhile fun q => q.st == .done
  let pos := match out with
    | [] => x.pos
    | q :: _ => q.id % 2 ^ 48
  (pos, ((List.range 32).zip out).foldl (fun a p => if p.2.st = .port then a + 2 ^ p.1 else a) 0)

/-- The position, attempt and credits of a stop record. -/
def stopPos (r : List W64) : Nat × Nat × Nat := ((listGet 0 r 2).toNat, bits (listGet 0 r 5).toNat 32 2, (listGet 0 r 6).toNat)

/-- An engine command as its stop record has it: where the record says otherwise than the rest of the image, it goes on from the
record (spec/16 R291, R296). -/
def Op.atStop (x : Op) (r : List W64 × List W64) : Op :=
  let p := stopPos r.1
  let x := if r.2.isEmpty then x else { x with snap := r.2 ++ x.snap.drop 8 }
  if p = (x.progress.1, x.attempt, x.credited) then x
  else { x with pos := p.1, attempt := p.2.1, credited := p.2.2, reqs := [], applied := List.range p.1 }

/-- A copy command of which an image has the stop record alone; its queue is no part of it, so it goes to queue 0 (DESIGN CHOICE, log
entry 15). -/
def copyAt (m : Nat) (r : List W64 × List W64) : Op :=
  let d := (listGet 0 r.1 0).toNat
  let p := stopPos r.1
  { Op.blank with
    kind := .copy, member := m, team := bits d 43 8, tok := bits d 38 5, started := bits d 8 8 == 5, snap := r.2, pos := p.1
    attempt := p.2.1, credited := p.2.2, applied := List.range p.1 }

/-- The kind of the stop record that an operation has, if it is an engine command. -/
def Op.stopKind (x : Op) : Option Nat :=
  match x.kind with
  | .copy => some 4
  | .mepi => some 5
  | .xred => some 6
  | .xgat => some 6
  | .xa2a => some 6
  | _ => none

/-- The operations of an image: those of its rest, each engine command as its stop record has it; without a rest, the copy
commands. -/
def Raw.opsOf (r : Raw) (rest : Option Image) : Sparse Op × List (Nat × List Nat) :=
  let ws := (bytesWords r.eng).toArray
  let base := r.h 0x70 8
  let recs := (List.range r.ncores).map fun m =>
    (stopsOf ws (engEnd ws m 0) base).filter fun x => [4, 5, 6].contains (bits (listGet 0 x.1 0).toNat 60 4)
  match rest with
  | some i =>
    let fix (p : Nat × Op) : Nat × Op :=
      match p.2.stopKind with
      | none => p
      | some _ =>
        let mine := i.ops.filter fun q => q.2.member % 4 == p.2.member % 4 && q.2.stopKind.isSome
        let n := (mine.takeWhile fun q => q.1 != p.1).length
        match ((recs.drop (p.2.member % 4)).headD [])[n]? with
        | some x => (p.1, p.2.atStop x)
        | none => p
    (i.ops.map fix, [])
  | none =>
    let all := ((List.range r.ncores).zip recs).flatMap fun p =>
      (p.2.filter fun x => bits (listGet 0 x.1 0).toNat 60 4 == 4).map fun x => copyAt p.1 x
    let ops := ((List.range all.length).zip all).map fun p => (p.1 + 1, p.2)
    (ops, (List.range r.ncores).map fun m => (m, (ops.filter fun p => p.2.member == m).map Prod.fst))

/-- Lane memory instructions of a team that wait go on with the lanes of their masks only (spec/14 R259). -/
def waitLanes (ops : Sparse Op) (team : Nat) (l : List LaneWait) : Sparse Op :=
  l.foldl (fun (m : Sparse Op) x => m.map fun (p : Nat × Op) =>
    if p.2.team % 512 = team ∧ p.2.isLane ∧ p.2.word = x.word ∧ p.2.wordh = x.wordh ∧ p.2.lidx = x.lidx then
      (p.1, { p.2 with reqs := p.2.reqs.map fun q => if x.lanes.getLsbD q.id then q else { q with st := .done } })
    else p) ops

/-- The image that a launch keeps, as it was verified: a blank, or a saved gang (spec/07 R143). -/
def State.keepImage (s : State) (p va c : Nat) (r : Raw) : Image :=
  let blank := r.kind == 0
  let rest := if blank then none else r.rest.map Prod.snd
  let (ops, queued) := if blank then ([], []) else r.opsOf rest
  let teams := (r.teams.zip r.lanes).zip (List.range r.teams.length)
  let ops := if blank then [] else teams.foldl (fun (o : Sparse Op) q => match areaOf q.1.1 q.1.2 with
    | some a => waitLanes o q.2 a.waits
    | none => o) ops
  let restFifo (m n : Nat) : Option Fifo := match rest with
    | some i => (match i.members.find? m with
      | some x => x.fifos.find? n
      | none => none)
    | none => none
  let fifos := r.fifosOf restFifo
  let gang := r.gangOf (rest.map fun i => i.gang)
  let queue (m : Nat) (x : Member) : Member := match queued.find? fun q => q.1 == m with
    | some q => { x with queues := if q.2.isEmpty then [] else [(0, q.2)] }
    | none => x
  { kind := r.kind, gangKey := gangKey c gang.idx
    gang := if rest.isSome then gang else
      { gang with secLo := Config.matrixLow (s.imagePa p va), secHi := 2 ^ 54 - Config.matrixCut (s.imagePa p va) }
    teams := teams.map fun q => (q.2, teamOf blank q.1.1 q.1.2 (match rest with
      | some i => i.teams.find? q.2
      | none => none))
    members := (List.range r.ncores).map fun m => (m, queue m (r.member (match rest with
      | some i => i.members.find? m
      | none => none) fifos m))
    ops := ops, journal := [] }

end Sys2Proof.Machine
end

