-- ==== Sys2Proof/Machine/Restore.lean ====
section
/-! DEFINITION. Restoring a gang: from a blank, from a saved image, and after a pre-emption (spec/07 R143, spec/16 R295 to
R299, DESIGN CHOICE, log entry 10). -/

namespace Sys2Proof.Machine

/-! ## Turns -/

/-- Put the streams of a gang on the agenda, and its engines (spec/07 R143). -/
def State.startGang (s : State) (g : Nat) : State :=
  let mine (t : Turn) : Bool := match t with
    | .agent a => agentGang a == g
    | _ => false
  let ags := (s.agentsOf g).filter fun a => match a with
    | .scalar t => !(s.team t).exited
    | .lane t => !(s.team t).exited && !(s.team t).copy
    | .seq _ => !(s.gang g).halted
    | .engines _ => false
  ({ s with agenda := s.agenda.filter fun t => !mine t }.push (ags.map .agent)).poke g

/-- The open work of an operation is made due again. -/
def State.kickOp (s : State) (o : Nat) (x : Op) : State :=
  let s := x.reqs.foldl (fun (s : State) q =>
    match q.st with
    | .ready => s.serve o q.id x
    | .line => s.post2 .emptyLineWake o q.id
    | .performed => s.post2 .copySegmentAck o q.id
    | _ => s) s
  match x.kind with
  | .copy => if x.failed then s.post .copyAttemptFail o
      else if x.started then (s.post2 .copySegment o (x.segId x.pos)).post .copyComplete o else s.post .copyStart o
  | .credit => s.post .phaseBarrierEvent o
  | .mepi => s.post .copyComplete o
  | _ => if x.finished then s.post x.completion o else s.post .preconditionsMet o

/-- The open work of a team is made due again: its wait, its lane blocks, its links and its watch entries. -/
def State.kickTeam (s : State) (t : Nat) : State :=
  let tm := s.team t
  let s := match tm.wait with
    | some w =>
      let s := match w.obj with
        | .barrier _ => s.post .barrierRelease t
        | .phaseBar _ => s.post .phaseRelease t
        | .pool _ => s.post .vgrowGrant (s.memberOf t)
        | _ => s
      if w.limit.isSome then s.post .waitLimitExpiry t else s
    | none => s
  let blocks := (tm.queue.filter fun q => match q with
    | .block _ => true
    | .fmt _ => false).length
  let s := s.push (List.replicate blocks (turnOf .laneBlockIssue t 0) ++ List.replicate tm.ended.length (turnOf .laneBlockComplete t 0))
  let s := s.push ((tm.links.filter fun l => l.2.st == .streaming || l.2.pend).map fun l =>
    .event .digitArrival { Args.none with x := t, y := l.1 / 1024, z := l.1 % 1024 })
  let s := s.push (tm.vs.map fun l => .event .digitArrival { Args.none with x := t, y := 16 + l.1 / 1024, z := l.1 % 1024 })
  s.push ((tm.watch.filter fun e => e.st == .unresolved).map fun e =>
    turnOf (if e.isSealed then .sealedWatchExpiry else if e.answer.isSome then .watchAnswer else .watchRequest) t e.id)

/-! ## Numbers of a saved gang in its new place -/

/-- How a saved gang's numbers move: operations by an offset, keys to the new gang. -/
structure Shift where
  base : Nat
  gang : Nat
  /-- Numbers from here on are of home writes, which are over. -/
  top : Nat
deriving DecidableEq, Repr

def Shift.op (k : Shift) (o : Nat) : Nat := k.base + o
def Shift.team (k : Shift) (t : Nat) : Nat := teamKey k.gang (teamNum t)
def Shift.member (k : Shift) (m : Nat) : Nat := memberKey k.gang (m % 4)
def Shift.ops (k : Shift) (l : List Nat) : List Nat := (l.filter (· < k.top)).map k.op

def Shift.block (k : Shift) (b : Block) : Block := { b with after := k.ops b.after }
def Shift.item (k : Shift) (q : QItem) : QItem :=
  match q with
  | .block b => .block (k.block b)
  | .fmt v => .fmt v

/-- A saved team; it has left its stop behind. -/
def Shift.teamOf (k : Shift) (t : Team) : Team :=
  let load (e : LoadE) : LoadE := { e with op := k.op e.op }
  let fence (f : FenceE) : FenceE := { f with cover := k.ops f.cover }
  let watch (e : WatchE) : WatchE := { e with op := if e.op < k.top then k.op e.op else 0 }
  { t.saveStreams with
    queue := t.queue.map k.item, running := t.running.map k.block, ended := t.ended.map k.block, lwait := none
    loads := t.loads.map load, unsettled := [], recon := k.ops t.recon, fences := t.fences.map fence, watch := t.watch.map watch
    stopped := false, reached := false, skid := 0, laneStopped := false, stopAt := 0, laneStopAt := 0, laneSkid := 0 }

/-- A saved member core. -/
def Shift.memberOf (k : Shift) (m : Member) : Member :=
  let fifo (p : Nat × Fifo) : Nat × Fifo := (p.1, { p.2 with cbld := p.2.cbld.map fun c => (c.1, c.2.1, k.op c.2.2) })
  { m with
    fifos := m.fifos.map fifo, queues := m.queues.map (fun q => (q.1, k.ops q.2)), vq := m.vq.map k.team
    stopped := false, stopAt := 0, skid := 0, mheld := none, mskip := m.mheld }

/-- A saved operation: parked, held and withdrawn requests are made anew (spec/16 R292, R296). -/
def Shift.opOf (k : Shift) (x : Op) : Op :=
  let req (q : Req) : Req := { q with
    st := match q.st with
      | .parked _ => .ready
      | .held _ => .ready
      | .home _ => .done
      | .merged o r => .merged (k.op o) r
      | st => st
    count := match q.st with
      | .held w => w + 1
      | _ => q.count }
  { x with
    gang := k.gang, team := k.team x.team, member := k.member x.member, after := k.ops x.after
    pos2 := if x.kind = .credit then k.op x.pos2 else x.pos2, reqs := x.reqs.map req, skid := 0 }

/-- A saved gang. -/
def Shift.gangOf (k : Shift) (g : Gang) : Gang :=
  let ins (i : MInstr) : MInstr := { i with ops := k.ops i.ops }
  let ev (e : BEv) : BEv := { e with after := k.ops e.after }
  { g with minstrs := g.minstrs.map ins, bevents := g.bevents.map ev, sstopped := false, sstopAt := 0 }

/-- Write an image's teams, members, operations and gang under a gang's key, with numbers that move so. -/
def State.putImage (s : State) (i : Image) (k : Shift) (f : Gang → Gang) : State :=
  let g := k.gang
  let teams := i.teams.foldl (fun (m : Sparse Team) p => m.set (teamKey g p.1) (k.teamOf p.2)) s.teams
  let members := i.members.foldl (fun (m : Sparse Member) p => m.set (memberKey g p.1) (k.memberOf p.2)) s.members
  let ops := i.ops.foldl (fun (m : Sparse Op) p => m.set (k.op p.1) (k.opOf p.2)) s.ops
  { s with teams := teams, members := members, ops := ops, gangs := s.gangs.set g (f (k.gangOf i.gang)) }

/-- The same, under operation numbers of its own. -/
def State.writeImage (s : State) (i : Image) (g : Nat) (f : Gang → Gang) : State :=
  let top := i.ops.foldl (fun (n : Nat) p => max n (p.1 + 1)) 0
  let s' := s.putImage i { base := s.nextOp, gang := g, top := top } f
  { s' with nextOp := s.nextOp + top }

/-- The open work of a restored gang. -/
def State.kickGang (s : State) (i : Image) (g base : Nat) : State :=
  let s := i.ops.foldl (fun (s : State) p => match s.ops.find? (base + p.1) with
    | some x => s.kickOp (base + p.1) x
    | none => s) s
  let s := if (s.gang g).bevents.isEmpty then s else s.post .barrierUnitEvent g
  let s := if (s.gang g).swait.isSome then s.post .barrierRelease (teamKey g 256) else s
  let s := s.each (s.gang g).cores fun s c => s.modCore c fun x => { x with cc := [] }
  s.each (s.teamsOf g) State.kickTeam

/-- A turn that belonged to a gang before it was restored. -/
def Turn.stale (g : Nat) : Turn → Bool
  | .agent a => agentGang a == g
  | .event i x =>
    let team := i == .laneBlockIssue || i == .laneBlockComplete || i == .digitArrival || i == .barrierRelease || i == .phaseRelease
      || i == .waitLimitExpiry || i == .watchRequest || i == .watchAnswer || i == .sealedWatchExpiry
    (team && gangOf x.x == g) || (i == .barrierUnitEvent && x.x == g) || (i == .vgrowGrant && x.x / 4 == g)
  | .tick _ _ _ => false

/-! ## Saving -/

/-- A team as an image holds it: its wait with what is left of its limit, its watch entries with their ages. -/
def Team.packTime (t : Team) (now : Nat) : Team :=
  let wait (w : Wait) : Wait := { w with since := 0, limit := w.limit.map fun l => l - (now - w.since) }
  let age (e : WatchE) : WatchE := { e with born := now - e.born }
  { t with wait := t.wait.map wait, watch := t.watch.map age }
/-- The same team at a cycle of its new core. -/
def Team.unpackTime (t : Team) (now : Nat) : Team :=
  let wait (w : Wait) : Wait := { w with since := now }
  let age (e : WatchE) : WatchE := { e with born := now - e.born }
  { t with wait := t.wait.map wait, watch := t.watch.map age }

/-- The image of a gang as it stands. -/
def State.saveGang (s : State) (g kind : Nat) : Image :=
  { kind := kind, gangKey := g, gang := s.gang g
    teams := (s.teams.filter fun p => gangOf p.1 == g).map fun p => (teamNum p.1, p.2.packTime (s.cycleOf (s.teamCore p.1)))
    members := (s.members.filter fun p => p.1 / 4 == g).map fun p => (p.1 % 4, p.2)
    ops := s.ops.filter fun p => p.2.gang == g
    journal := s.journals.get [] g }

/-! ## Placing (spec/07 R148, spec/06 R120) -/

/-- The allowed core sets of a quad for a gang of this size, lowest first. -/
def coreSets (quad n : Nat) : List (List Nat) :=
  let c := 4 * quad
  match n with
  | 1 => [[c], [c + 1], [c + 2], [c + 3]]
  | 2 => [[c, c + 1], [c + 2, c + 3]]
  | _ => [[c, c + 1, c + 2, c + 3]]

/-- A core that no gang holds, with its shadow bank empty. -/
def State.coreFree (s : State) (c : Nat) : Bool := (s.core c).issuing.isNone && (s.core c).shadow.isNone

/-- The core sets of a partition for gangs of this size, in the Scheduler's order. -/
def Part.sets (p : Part) (n : Nat) : List (List Nat) :=
  ((List.range Config.quads).filter fun q => p.cfg.quadsB.getLsbD q).flatMap fun q => coreSets q n

/-- The core set that a gang takes now. -/
def State.freeSet (s : State) (p : Part) (n : Nat) : Option (List Nat) := (p.sets n).find? fun l => l.all s.coreFree

/-- Members of a launch's gangs. -/
def Image.size (i : Image) : Nat := i.members.length

/-- The image of a context's launch, unless it awaits replies: then no gang is placed from it (spec/16 R298). -/
def State.ctxImage (s : State) (c : Nat) : Option Image := (s.images.find? (blankKey c)).filter fun i => i.gang.awaits == 0

/-- A core's bank is given to a gang. -/
def State.takeCores (s : State) (g : Nat) (cores : List Nat) : State :=
  s.each cores fun s c => s.modCore c fun x => { x with issuing := some g, cc := [] }

/-- With RECORD, what a gang is first restored from is the checkpoint of interval 0 (spec/24 R365, R366). -/
def State.firstCheckpoint (s : State) (g : Nat) : State :=
  if (s.gang g).record then { s with ckpts := s.ckpts.set g [s.saveGang g 3], journals := s.journals.set g [] } else s

/-- Place a gang that has never been placed: its image is restored and its streams start (spec/07 R143, R148). -/
def State.placeNew (s : State) (c : Nat) (x : Ctx) (i : Image) (idx : Nat) (cores : List Nat) : State :=
  let num := if i.kind = 0 then idx else i.gang.idx
  let g := gangKey c num
  let base := s.nextOp
  let s := s.writeImage i g fun q =>
    { q with part := partOf c, ctx := c, idx := num, st := .resident, cores := cores, since := s.ns, order := s.nextOp, awaits := 0,
             codeFrom := s.stored }
  let s := { s with nextOp := s.nextOp + 1 }
  let s := s.each (s.teamsOf g) fun s t => s.modTeam t fun y => y.unpackTime (s.cycleOf (s.teamCore t))
  let s := (s.takeCores g cores).modCtx c fun y => { y with placed := y.placed + 1 }
  ((s.lateDeadline g x.missed).firstCheckpoint g).kickGang i g base |>.startGang g

/-- Cycles of a core's die run from another start than those of another die: what a team counts from moves with it. -/
def Team.moveTo (t : Team) (before now : Nat) : Team :=
  let late (e : WatchE) : WatchE := { e with born := e.born + now - before }
  { t with wait := t.wait.map (fun w => { w with since := w.since + now - before }), watch := t.watch.map late }

/-- Stores since a moment have reached some of `n` bytes at a physical address. -/
def State.storedSince (s : State) (from_ pa n : Nat) : Bool :=
  (List.range ((pa % 4096 + n + 4095) / 4096)).any fun i =>
    (s.overwrites.get [] (pa / 4096 + i)).any fun e => decide (from_ ≤ e.1) && decide (e.2.1 < pa + n) && decide (pa < e.2.1 + e.2.2.length)

/-- The image of a gang that is away, as its bytes give it, where something has changed them since they were written; none where
nothing has, or where they are no image of this gang any more (spec/16 R295, R296, DESIGN CHOICE, log entry 10). -/
def State.changedImage (s : State) (g : Nat) : Option Image :=
  let x := s.gang g
  let size := (s.mem64 (x.image + 0x78)).toNat + 160 * x.cores.length
  if x.image = 0 ∨ !(s.storedSince x.codeFrom x.image 256 || s.storedSince x.codeFrom x.image size) then none
  else
    match s.readAt x.image with
    | .error _ => none
    | .ok r =>
      let i := s.keepImage 0 0 (ctxOf g) r
      let mine (o : Nat) : Bool := match s.ops.find? o with
        | some y => y.gang == g
        | none => false
      if r.kind = 1 ∧ r.rest.isSome ∧ i.gang.idx = x.idx ∧ i.teams.length = x.nteams ∧ i.members.length = x.cores.length
          ∧ i.ops.all (fun p => mine p.1) then some i
      else none

/-- A gang that is away becomes what its image's bytes say (spec/16 R296). -/
def State.fromBytes (s : State) (g : Nat) (i : Image) : State :=
  let x := s.gang g
  let s := { s with ops := s.ops.filter fun p => p.2.gang != g, agenda := s.agenda.filter fun t => !t.stale g }
  let s := s.putImage i { base := 0, gang := g, top := s.nextOp } fun q =>
    { q with part := x.part, ctx := x.ctx, idx := x.idx, st := x.st, cores := x.cores, image := x.image, codeFrom := x.codeFrom, awaits := 0 }
  (s.each (s.teamsOf g) fun s t => s.modTeam t fun y => y.unpackTime (s.cycleOf (s.teamCore t))).kickGang i g 0

/-- Place a pre-empted gang again (spec/16 R296). -/
def State.placeAgain (s : State) (g : Nat) (cores : List Nat) : State :=
  let s := match s.changedImage g with
    | some i => s.fromBytes g i
    | none => s
  let old := fun (t : Nat) => s.cycleOf (s.teamCore t)
  let s' := (s.modGang g fun x => { x with st := .resident, cores := cores, since := s.ns, order := s.nextOp, codeFrom := s.stored }).takeCores g cores
  let s' := { s' with nextOp := s'.nextOp + 1 }
  (s'.each (s'.teamsOf g) fun s t => s.modTeam t fun x => x.moveTo (old t) (s.cycleOf (s.teamCore t))).startGang g

end Sys2Proof.Machine
end

