-- ==== Sys2Proof/Machine/Walk.lean ====
section
/-! DEFINITION. The wait-for table and its walk (spec/07 R152, R153, spec/06 R134, spec/16 R287). The entries are read
off the state at the walk; an agent whose signallers are open has none here, since no deadlocked set holds it. -/

namespace Sys2Proof.Machine

/-- What may signal a waiting agent. -/
inductive WNode where
  | scalar (t : Nat)
  | lane (t : Nat)
  | seq (g : Nat)
  | copyq (mk q : Nat)
  | engine (mk : Nat)
  /-- An operation outside the copy queues: blocked while it waits on preconditions (DEDUCED, log entry 18). -/
  | op (o : Nat)
  /-- Work that goes on by itself. -/
  | busy
deriving DecidableEq, Repr

/-- A wait-for entry with its signallers: agent code, object code and object as a record gives them (spec/16 R287). -/
structure WEntry where
  node : WNode
  agent : Nat
  core : Nat
  num : Nat
  kind : Nat
  obj : Nat
  sigs : List WNode
deriving DecidableEq, Repr

/-- The copy queue of a member core that holds an operation, if one does. -/
def State.inQueue (s : State) (mk o : Nat) : Option Nat :=
  (List.range 4).find? fun q => ((s.member mk).queues.get [] q).contains o

/-- Who completes a token of a team (spec/07 R152): nobody, for one that is not PENDING; an operation that runs is an unblocked
signaller. -/
def State.tokSig (s : State) (t n : Nat) : List WNode :=
  let tm := s.team t
  let x := tm.getT n
  let queued := tm.queue.any fun q => match q with
    | .block b => b.tok == n
    | .fmt _ => false
  let op := List.find? (fun (p : Nat × Op) => p.2.team == t && p.2.tok == n && p.2.kind != .credit) s.ops
  if x.st != .pending then []
  else if x.claimed then [.seq (gangOf t)]
  else if queued then [.lane t]
  else
    match op with
    | some (o, x) =>
      if x.started then [.busy]
      else (match s.inQueue x.member o with
        | some q => [.copyq x.member q]
        | none => [.op o])
    | none => [.busy]

/-- Who completes the tokens of a set. -/
def State.tokSigs (s : State) (t : Nat) (set : W32) : List WNode :=
  (List.range 32).flatMap fun n => if set.getLsbD n then s.tokSig t n else []

/-- Operations of a gang that no copy queue holds. -/
def State.freeOps (s : State) (g : Nat) : List Nat :=
  (s.ops.filter fun p => p.2.gang == g && (s.inQueue p.2.member p.1).isNone).map Prod.fst

/-- A gang's copy queues. -/
def State.copyNodes (s : State) (g : Nat) : List WNode :=
  (s.membersOf g).flatMap fun mk => (List.range 4).map fun q => .copyq mk q

/-- A gang's teams that have not exited, with the work they have under way. -/
def State.teamNodes (s : State) (g : Nat) : List WNode :=
  let one (t : Nat) : List WNode :=
    let tm := s.team t
    (if tm.exited then [] else [.scalar t]) ++ (if tm.queue.isEmpty && tm.running.isNone then [] else [.lane t])
      ++ (if tm.ended.isEmpty then [] else [.busy])
  (s.teamsOf g).flatMap one ++ (s.freeOps g).map .op

/-- Who may fill an EMPTY line of a gang. -/
def State.lineNodes (s : State) (g : Nat) : List WNode :=
  s.teamNodes g ++ s.copyNodes g ++ (if (s.gang g).hasSeq && !(s.gang g).halted then [.seq g] else [])

/-- The members that a barrier still awaits; an arrival that is on its way is made by itself (spec/06 R131). -/
def State.barNodes (s : State) (g n : Nat) : List WNode :=
  let x := s.gang g
  let b := x.bar n
  match b.bound with
  | none => []
  | some k => (List.range 257).flatMap fun m =>
      if !(x.group k.toNat).getLsbD m || b.arrivals.getLsbD m then []
      else if x.unapplied m then [.busy]
      else if m = 256 then
        match x.minstrs.find? fun i => i.ba == some (BitVec.ofNat 4 n) with
        | some i => if i.left.isEmpty then [.busy] else i.left.map fun c => .engine (memberKey g c)
        | none => [.seq g]
      else [.scalar (teamKey g m)]

/-- A member waits on a barrier that has not completed the phase it waits for. -/
def State.barHeld (s : State) (g m : Nat) (n : BitVec 4) (ph : Nat) : Bool :=
  let b := (s.gang g).bar n.toNat
  if ph ≤ 1 then !(s.gang g).arriving n.toNat m && decide ((b.last.find? m).map Prod.fst = some b.phase) else b.phase.toNat + 2 == ph

/-- The entry of a scalar stream or of its VGROW. -/
def State.scalarEntry (s : State) (t : Nat) : Option WEntry :=
  let tm := s.team t
  let g := gangOf t
  let e : WEntry := { node := .scalar t, agent := 0, core := s.teamCore t, num := teamNum t, kind := 0, obj := 0, sigs := [] }
  match tm.wait with
  | none => none
  | some w =>
    if w.limit.isSome || w.result.isSome || tm.exited then none
    else
      match w.obj with
      | .tokens set =>
        if (if w.phase = 1 then (tm.lowest set TokSt.isOver).isSome else tm.settled set) then none
        else some { e with obj := set.toNat, sigs := s.tokSigs t set }
      | .barrier n =>
        if s.barHeld g (teamNum t) n w.phase then some { e with kind := 1, obj := n.toNat, sigs := s.barNodes g n.toNat } else none
      | .line addr =>
        if (s.member (s.memberOf t)).lineSt addr = 0 then some { e with kind := 2, obj := addr, sigs := s.lineNodes g } else none
      | .pool b =>
        let others := (s.teamsOf g).filter fun u => u != t && (s.team u).core == tm.core && !(s.team u).exited
        let vq := (s.member (s.memberOf t)).vq
        if vq.head? == some t && decide (tm.units b ≤ s.freeUnits g tm.core) then none
        else some { e with agent := 4, kind := 5, obj := b, sigs := others.map .scalar }
      | .queue => if tm.queue.isEmpty then none else some { e with kind := 6, obj := 0, sigs := [.lane t] }
      | .phaseBar p =>
        if pbSpace p = 0 ∨ w.phase = 0 then none
        else
          (match s.pbLook t p (BitVec.ofNat 32 (w.phase - 1)) with
           | .status v => if phaseDone v then none
             else some { e with kind := 7, obj := pbAddr p, sigs := s.teamNodes g ++ s.copyNodes g }
           | _ => none)
      | .copyQueue q =>
        if ((s.member (s.memberOf t)).queues.get [] q).length < 16 then none
        else some { e with kind := 11, obj := q, sigs := [.copyq (s.memberOf t) q] }
      | _ => none

/-- The entry of a lane-block queue: its head waits on its preconditions, or an instruction of the running block, a release, on
watch entries, kind 8, whose signallers are open (spec/22 R350). -/
def State.laneEntry (s : State) (t : Nat) : Option WEntry :=
  let tm := s.team t
  if tm.running.isSome then
    if tm.lwait.isNone then none
    else some { node := .lane t, agent := 1, core := s.teamCore t, num := teamNum t, kind := 8, obj := 0, sigs := [.busy] }
  else
    match tm.queue with
    | .block b :: _ =>
      if b.waiting = 0 then none
      else some { node := .lane t, agent := 1, core := s.teamCore t, num := teamNum t, kind := 0, obj := b.waiting.toNat,
                  sigs := s.tokSigs t b.waiting }
    | _ => none

/-- The entry of a sequencer: a barrier, a token it is to claim, or the engines it waits for. -/
def State.seqEntry (s : State) (g : Nat) : Option WEntry :=
  let x := s.gang g
  let e : WEntry := { node := .seq g, agent := 2, core := s.coreNum g 0, num := 0, kind := 0, obj := 0, sigs := [] }
  match x.swait with
  | none => none
  | some w =>
    if w.result.isSome || x.halted then none
    else
      match w.obj with
      | .barrier n =>
        if (x.bar n.toNat).phase.toNat + 2 = w.phase then some { e with kind := 1, obj := n.toNat, sigs := s.barNodes g n.toNat }
        else none
      | .tokens set =>
        let isOver := (s.team w.phase).settled set
        let sigs := if isOver then [WNode.scalar w.phase] else s.tokSigs w.phase set
        if (List.range 32).any (fun n => set.getLsbD n && ((s.team w.phase).getT n).st == .free) then none
        else some { e with obj := set.toNat, sigs := sigs }
      | .settle =>
        if x.minstrs.isEmpty then none
        else some { e with sigs := x.minstrs.flatMap fun i => (i.left.map fun c => WNode.engine (memberKey g c)) ++ i.ops.map .op }
      | _ => none

/-- The entry of a matrix engine: an empty FIFO, or an EMPTY line of a parameter set. -/
def State.engineEntry (s : State) (mk : Nat) : Option WEntry :=
  let m := s.member mk
  let g := mk / 4
  let e : WEntry := { node := .engine mk, agent := 5, core := s.coreNum g (mk % 4), num := 0, kind := 3, obj := 0, sigs := s.copyNodes g }
  match m.mq with
  | [] => none
  | i :: _ =>
    let fa := i.f.fa.toNat
    let fb := i.f.fb.toNat
    if m.mheld.isSome then none
    else if i.opc ≤ 2 then
      (if (m.fifo fa).head.isNone then some { e with obj := fa }
       else if (m.fifo fb).head.isNone then some { e with obj := fb } else none)
    else if i.opc = 10 then (if (m.fifo fa).head.isNone then some { e with obj := fa } else none)
    else if 7 ≤ i.opc ∧ i.opc ≤ 9 then
      let addr := i.nv.toNat
      let lines := (List.range ((addr % 128 + (paramSize i.opc).1 + 127) / 128)).map fun k => (addr / 128 + k) * 128
      (lines.find? fun l => m.lineSt l == 0).map fun l => { e with kind := 2, obj := l, sigs := s.lineNodes g }
    else none

/-- The entry of a copy queue: its head waits on preconditions, on a full FIFO or on an EMPTY line. -/
def State.copyEntry (s : State) (mk q : Nat) : Option WEntry :=
  let g := mk / 4
  let e : WEntry := { node := .copyq mk q, agent := 3, core := s.coreNum g (mk % 4), num := q, kind := 0, obj := 0, sigs := [] }
  match (s.member mk).queues.get [] q with
  | [] => none
  | o :: _ =>
    match s.ops.find? o with
    | none => none
    | some x =>
      if !x.started then
        (if x.waiting = 0 then none else some { e with obj := x.waiting.toNat, sigs := s.tokSigs x.team x.waiting })
      else
        match x.reqs.find? fun r => r.st != .done with
        | none => none
        | some r =>
          let pad := if r.st = .ready ∧ r.stage = 0 ∧ (x.blk.sspace = 1 ∨ x.blk.sspace = 2) ∧ !x.blk.nf then s.padMember x x.blk.sspace x.blk.sarg
            else none
          let empty (a : Nat) : Bool := match pad with
            | some k => (s.member k).lineSt a == 0
            | none => false
          if empty r.addr || empty (r.addr + r.n - 1) then some { e with kind := 2, obj := r.addr, sigs := s.lineNodes g }
          else if r.st = .ready ∧ x.blk.dspace = 3 ∧ 1 ≤ r.stage then
            let f := s.dstFifo x
            let pos : W32 := BitVec.ofNat 32 (listGet 0 x.list 0 + r.dst / f.entryBytes)
            if f.depth ≤ (pos - f.popped).toNat ∧ (pos - f.popped).toNat < 2 ^ 31 then
              some { e with kind := 4, obj := x.blk.darg, sigs := [.engine mk] }
            else none
          else none

/-- The entry of an operation outside the queues: agent 0, in the name of its team (spec/03 R61; DEDUCED, log entry 18). -/
def State.opEntry (s : State) (o : Nat) : Option WEntry :=
  match s.ops.find? o with
  | none => none
  | some x =>
    if x.waiting = 0 ∨ x.started = true then none
    else some { node := .op o, agent := 0, core := s.opCore x, num := teamNum x.team, kind := 0, obj := 0, sigs := s.tokSigs x.team x.waiting }

/-- The entries of a gang. -/
def State.waitEntries (s : State) (g : Nat) : List WEntry :=
  (s.teamsOf g).filterMap s.scalarEntry ++ (s.teamsOf g).filterMap s.laneEntry
    ++ (if (s.gang g).hasSeq then (s.seqEntry g).toList else [])
    ++ ((s.membersOf g).flatMap fun mk => (List.range 4).filterMap fun q => s.copyEntry mk q)
    ++ (s.membersOf g).filterMap s.engineEntry ++ (s.freeOps g).filterMap s.opEntry

/-- The greatest set of entries whose signallers all lie in it (spec/07 R153). -/
def closedSet : Nat → List WEntry → List WEntry
  | 0, l => l
  | fuel + 1, l =>
    let l' := l.filter fun e => e.sigs.all fun n => l.any fun f => f.node == n
    if l'.length = l.length then l else closedSet fuel l'

/-- The deadlocked entries among some. -/
def deadlocked (l : List WEntry) : List WEntry := closedSet (l.length + 1) l

/-- The 64 bytes of an entry (spec/16 R287). -/
def WEntry.words (e : WEntry) : List W64 :=
  let team (n : WNode) : Option Nat := match n with
    | .scalar t => some (teamNum t)
    | .lane t => some (teamNum t)
    | _ => none
  let ts := e.sigs.filterMap team
  let map := ((List.range 256).filter fun i => ts.contains i).foldl (fun a i => a + 2 ^ i) 0
  let isSeq := e.sigs.any fun n => match n with
    | .seq _ => true
    | _ => false
  let isCopy := e.sigs.any fun n => match n with
    | .copyq _ _ => true
    | _ => false
  [BitVec.ofNat 64 (e.num * 2 ^ 14 + e.core * 2 ^ 4 + e.agent), BitVec.ofNat 64 e.kind, BitVec.ofNat 64 e.obj]
    ++ (List.range 4).map (fun i => BitVec.ofNat 64 (map / 2 ^ (64 * i)))
    ++ [BitVec.ofNat 64 (isCopy.toNat * 2 + isSeq.toNat)]

/-- Write a CONTINUATION record after a record of a partition: it repeats its ERRSEQ (spec/16 R285, R287). -/
def State.continuation (s : State) (c : Nat) (errseq : W32) (ws : List W64) : State :=
  let p := partOf c
  match s.parts.find? p with
  | none => s
  | some pt =>
    let l := ((({ FRec.blank with kind := 0x3F } : FRec).words errseq pt.lost (some c) 0).take 1 ++ ws ++ List.replicate 15 0).take 16
    if pt.heldF.isEmpty && s.ringFree pt.cfg.faultq 31 then
      (s.modPart p fun x => { x with lost := 0 }).ringPut pt.cfg.faultq 31 128 l
    else if pt.heldF.length < 256 then s.modPart p fun x => { x with lost := 0, heldF := x.heldF ++ [l] }
    else s.modPart p fun x => { x with lost := x.lost + 1 }

/-- Raise the deadlock fault of a context for a set: one record and one CONTINUATION record for each entry. -/
def State.deadlock (s : State) (c : Nat) (rows : List WEntry) : State :=
  let e := match s.parts.find? (partOf c) with
    | some pt => pt.errseq
    | none => 0
  let s := s.fatal c { FRec.blank with kind := kDeadlock, detail := BitVec.ofNat 64 rows.length }
  rows.foldl (fun s r => s.continuation c e r.words) s

/-- Refuse the youngest VGROW request of a member core in a set made only of such requests (spec/06 R134). -/
def State.refuseVgrow (s : State) (v : List WEntry) (mk : Nat) : State :=
  let vq := (s.member mk).vq
  match (vq.filter fun t => v.any fun e => e.node == .scalar t).getLast? with
  | none => s
  | some t =>
    let s := s.modTeam t fun x => { x with wait := x.wait.map fun w => { w with result := some 1 } }
    let s := s.modMember mk fun m => { m with vq := m.vq.erase t }
    s.post .vgrowGrant mk

/-- Walk the table of one context. -/
def State.walkCtx (s : State) (c : Nat) : State :=
  let gs := (s.gangsOf c).filter fun g => (s.gang g).st == .resident
  let all := gs.flatMap s.waitEntries
  let v := deadlocked (all.filter fun e => e.agent == 4)
  let s := s.each (gs.flatMap s.membersOf) fun s mk => s.refuseVgrow v mk
  let rows := deadlocked (all.filter fun e => !v.any fun f => f.node == e.node)
  if rows.isEmpty then s else s.deadlock c rows

/-- WAIT_FOR_WALK (spec/07 R153): the table of partition `x` is walked, and again after the partition's interval; `z` is
the device time at which it is due. A context that has stopped is passed over (spec/23 R359). -/
def execWaitForWalk (s : State) : Out :=
  let p := s.arg.x
  match s.parts.find? p with
  | none => .next s
  | some pt =>
    if s.ns < s.arg.z then .next (s.defer .waitForWalk)
    else
      let live := (s.ctxs.filter fun (q : Nat × Ctx) => partOf q.1 == p && q.2.st == .eligible && !q.2.halt).map Prod.fst
      let s := s.each live State.walkCtx
      .next (s.push [.event .waitForWalk { Args.none with x := p, z := s.ns + pt.cfg.walk * 1000 }])

end Sys2Proof.Machine
end

