-- ==== Sys2Proof/Machine/Save.lean ====
section
/-! DEFINITION. A saved gang as bytes: the image that a dump and a snapshot hold (spec/07 R140 to R142, spec/16 R287, R290
to R293, spec/20 R337, spec/22 R352). Offsets inside sections that the spec does not give: DESIGN CHOICE, log entry 15. -/

namespace Sys2Proof.Machine

/-! ## Wait-for entries (spec/16 R287) -/

/-- The object of an entry: its kind and what it names. A fence, a settled write and a parked fault have no code of their own
(DEDUCED, log entry 18). -/
def WaitObj.code : WaitObj → Nat × Nat
  | .tokens set => (0, set.toNat)
  | .barrier n => (1, n.toNat)
  | .line a => (2, a)
  | .fifoEmpty f => (3, f)
  | .fifoFull f => (4, f)
  | .pool b => (5, b)
  | .queue => (6, 0)
  | .phaseBar w => (7, pbAddr w)
  | .watch => (8, 0)
  | .fabric => (9, 0)
  | .host => (10, 0)
  | .copyQueue q => (11, q)
  | .fence => (9, 0)
  | .settle => (9, 0)
  | .fault => (10, 0)

/-- The 64 bytes of a wait of an agent, with what is left of its limit at a cycle. -/
def waitWords (agent core num now : Nat) (sigs : List WNode) (w : Option Wait) : List W64 :=
  match w with
  | none => List.replicate 8 0
  | some w =>
    let e : WEntry := { node := .busy, agent := agent, core := core, num := num, kind := w.obj.code.1, obj := w.obj.code.2, sigs := sigs }
    let left := match w.limit with
      | some l => l - (now - w.since)
      | none => 0
    e.words.take 7 ++ [listGet 0 e.words 7 + BitVec.ofNat 64 (left * 2 ^ 32)]

/-- The wait-for entry of a team. -/
def State.teamWait (s : State) (t : Nat) : List W64 :=
  let tm := s.team t
  let sigs := match s.scalarEntry t with
    | some e => e.sigs
    | none => []
  let agent := match tm.wait with
    | some w => (match w.obj with
      | .pool _ => 4
      | _ => 0)
    | none => 0
  waitWords agent (s.teamCore t) (teamNum t) (s.cycleOf (s.teamCore t)) sigs tm.wait

/-! ## Team records and lane areas (spec/07 R141) -/

/-- A team record; `laneo` and `lanes` place its lane area. -/
def State.teamRecord (s : State) (t laneo lanes : Nat) : List W64 :=
  let x := s.team t
  let st := if x.exited then 2 else if x.wait.isSome then 1 else 0
  let desc := x.copy.toNat + (if x.copy then 0 else x.wcode.toNat) * 2 + x.core * 16 + x.quarter * 64
    + (if x.copy then 0 else x.depth / 32) * 2 ^ 8 + (if x.copy then 0 else x.budget) * 2 ^ 16 + st * 2 ^ 24
  padTo 512 ([BitVec.ofNat 64 (desc + x.fmt.toNat * 2 ^ 32), x.pc, x.lcb, x.epc, x.hstat, x.tword, x.twordh, x.rwc]
    ++ (List.range 64).map (fun r => x.getS (BitVec.ofNat 6 r)) ++ (List.range 32).flatMap (fun n => tokWords (x.getT n))
    ++ s.teamWait t ++ [BitVec.ofNat 64 laneo, BitVec.ofNat 64 lanes])

/-- Lane memory instructions of a team with outstanding lanes, in order (spec/14 R259). -/
def State.openLanes (s : State) (t : Nat) : List LaneWait :=
  (s.ops.filter fun p => p.2.team == t && p.2.isLane && p.2.reqs.any fun q => q.st != .done).map fun p =>
    { word := p.2.word, wordh := p.2.wordh, lidx := p.2.lidx, lanes := maskOf ((p.2.reqs.filter fun q => q.st != .done).map Req.id) }

/-- The lane area of a team (spec/07 R141). -/
def State.laneWords (s : State) (t : Nat) : List W64 :=
  let x := s.team t
  if x.copy then []
  else padTo 32 ((cArea (8 * x.budget) x.width).put ((x.packTime (s.cycleOf (s.teamCore t))).area (s.openLanes t)))

/-! ## The other sections (spec/07 R142) -/

/-- The sequencer section. -/
def State.seqWords (s : State) (g : Nat) : List W64 :=
  let x := s.gang g
  let core := s.coreNum g 0
  let sigs := match s.seqEntry g with
    | some e => e.sigs
    | none => []
  x.seqWords (waitWords 2 core 0 (s.cycleOf core) sigs x.swait)

/-- The rest of a FIFO's record, with the team and token of a CBLD in progress. -/
def State.fifoRest (s : State) (f : Fifo) : W64 × List (W64 × W64 × Nat) × List (Nat × FEntry) :=
  let cbld := f.cbld.toList.map fun c =>
    let x := (s.ops.find? c.2.2).getD Op.blank
    (c.1.zeroExtend 64, BitVec.ofNat 64 (x.tok + teamNum x.team * 2 ^ 32), codeNat c.2.1)
  (BitVec.ofNat 64 (f.reserved.toNat + f.popped.toNat * 2 ^ 32), cbld, f.entries)

/-- The FIFO section: the fixed parts, and then the rest of each; the first fixed part has the section's size. -/
def State.fifoWords (s : State) (g : Nat) : List W64 :=
  let all := (s.membersOf g).flatMap fun k => (List.range 8).map fun n => (s.member k).fifo n
  let rest := all.flatMap fun f => cFifoRest.put (s.fifoRest f)
  let size := 8 * (padTo 32 (List.replicate (8 * all.length + rest.length) 0)).length
  let head := ((List.range all.length).zip all).flatMap fun p => p.2.head64 (if p.1 = 0 then size else 0)
  padTo 32 (head ++ rest)

/-- The scratchpad section. -/
def State.padWords (s : State) (g : Nat) : List W64 :=
  let n := 16384 * (s.gang g).scratch
  let one (k : Nat) : List W64 :=
    let m := s.member k
    let line (i : Nat) : Byte := BitVec.ofNat 8 ((List.range 4).foldl (fun a j => a + (m.lineSt (128 * (4 * i + j))).toNat * 4 ^ j) 0)
    bytesWords (m.bytes 0 n ++ (List.range (n / 512)).map line)
  padTo 32 ((s.membersOf g).flatMap one)

/-- The accumulator section: the tiles, their types and poison, and the parameter sets. -/
def State.accWords (s : State) (g : Nat) : List W64 :=
  let n := 16 * (s.gang g).acc
  let one (k : Nat) : List W64 :=
    let tiles := (List.range n).map fun i => (s.member k).tiles.get .blank i
    tiles.flatMap (fun t => pairs t.elems)
      ++ tiles.flatMap fun t => [BitVec.ofNat 64 (t.int.toNat + t.pois.toNat * 256), t.origin]
  padTo 32 ((s.membersOf g).flatMap one ++ (s.membersOf g).flatMap fun k =>
    let m := s.member k
    m.tab.out ++ m.bias.out ++ m.scl.out)

/-- The debug section. -/
def State.dbgWords (s : State) (g : Nat) : List W64 :=
  padTo 32 ((s.membersOf g).flatMap fun k =>
    let m := s.member k
    (List.range 4).map (fun i => m.spw.get 0 i) ++ (List.range 8).flatMap fun i => match m.ctr.find? i with
      | some (e, v) => [BitVec.ofNat 64 e, v]
      | none => [0, 0])

/-! ## Stop records (spec/16 R290 to R292) -/

/-- A stop record. -/
structure StopRec where
  kind : Nat
  core : Nat
  team : Nat
  token : Nat
  skid : Nat
  state : Nat
  cycle : W64
  pos : Nat
  rwc : W64
  a : Nat
  b : Nat
  c : Nat
  /-- The snapshot that stands behind the records, whose offset is A. -/
  snap : List W64
  /-- Returned values of more than a doubleword, which stand there too: C is their offset. -/
  vals : List W64
deriving DecidableEq, Repr

/-- A record of an agent of a core that stopped at a CYCLE, with nothing else in it. -/
def stopRec (kind core : Nat) (cycle : W64) : StopRec :=
  { kind := kind, core := core, team := 0, token := 0, skid := 0, state := 0, cycle := cycle, pos := 0, rwc := 0, a := 0, b := 0, c := 0,
    snap := [], vals := [] }

/-- The records of a team: its scalar stream and the lane instruction it stands at. -/
def State.teamStops (s : State) (t : Nat) : List StopRec :=
  let x := s.team t
  let r := stopRec 0 (s.teamCore t) x.stopAt
  let st := if x.exited then 2 else if x.wait.isSome then 1 else if x.hm then 3 else 0
  { r with team := teamNum t, skid := x.skid, state := st, pos := x.pc.toNat, rwc := x.rwc }
    :: match x.running with
      | some b =>
        [ { r with
            kind := 1, team := teamNum t, token := b.tok, skid := x.laneSkid, state := if x.lwait.isSome then 1 else 0,
            cycle := x.laneStopAt, pos := b.idx
            rwc := x.rwc } ]
      | none => []

/-- The records of an operation: a command, an epilogue, a collective, or its memory requests. -/
def State.opStops (s : State) (p : Nat × Op) : List StopRec :=
  let x := p.2
  let core := s.opCore x
  let team := if x.kind = .mepi then 0 else teamNum x.team % 256
  let run := if x.finished then 6 else if x.started then 5 else 4
  let r := { stopRec 4 core (s.member x.member).stopAt with team := team, token := x.tok, state := run }
  let engine (kind : Nat) : StopRec :=
    { r with kind := kind, skid := x.skid, pos := x.progress.1, b := x.progress.2 + x.attempt * 2 ^ 32, c := x.credited, snap := x.snap.take 8 }
  let value (q : Req) : List W64 :=
    if q.st != .done then []
    else match x.kind with
      | .sldg _ => [(s.team x.team).getS (BitVec.ofNat 6 x.reg)]
      | .sstg _ => []
      | .vst => []
      | _ => pairs ((List.range ((x.width + 3) / 4)).map fun i => (s.team x.team).v.get 0 ((x.reg + i) * 1024 + q.id))
  let request (q : Req) : StopRec :=
    let st := match q.st with
      | .held _ => 1
      | .done => 6
      | .home _ => 5
      | .port => 5
      | _ => 7
    { r with kind := 7, state := st, a := q.addr, b := 2 ^ (q.id % 32) + (if q.st = .done then 2 ^ 32 else 0),
             c := if (value q).length = 1 then (listGet 0 (value q) 0).toNat else 0, vals := if (value q).length ≤ 1 then [] else value q }
  match x.kind with
  | .copy => [engine 4]
  | .mepi => [{ engine 5 with a := bits x.word.toNat 48 8, snap := [] }]
  | .xred => [engine 6]
  | .xgat => [engine 6]
  | .xa2a => [engine 6]
  | _ => x.reqs.map request

/-- The records that a member core's engine section holds. -/
def State.stops (s : State) (mk : Nat) : List StopRec :=
  let g := mk / 4
  let core := s.coreNum g (mk % 4)
  let x := s.gang g
  let seq := if x.hasSeq && mk % 4 == 0 then
      [{ stopRec 2 core x.sstopAt with state := if x.halted then 2 else if x.swait.isSome then 1 else 0, pos := x.spc.toNat }]
    else []
  let eng := if (s.member mk).mq.isEmpty then [] else [{ stopRec 3 core (s.member mk).stopAt with
    skid := (s.member mk).skid, state := if (s.member mk).mheld.isSome then 1 else 5 }]
  ((s.teamsOf g).filter fun t => (s.team t).core == mk % 4).flatMap s.teamStops ++ seq ++ eng
    ++ (s.ops.filter fun p => p.2.member == mk).flatMap s.opStops

/-- What stands behind the records for one of them. -/
def StopRec.tail (r : StopRec) : List W64 := padTo 8 r.snap ++ padTo 8 r.vals

/-- The 64 bytes of a record; `off` is where its snapshot and returned values stand. -/
def StopRec.words (r : StopRec) (off : Nat) : List W64 :=
  [ BitVec.ofNat 64 (r.kind * 2 ^ 60 + r.core * 2 ^ 51 + r.team * 2 ^ 43 + r.token * 2 ^ 38 + r.skid * 2 ^ 16 + r.state * 2 ^ 8),
    r.cycle, BitVec.ofNat 64 r.pos, r.rwc, BitVec.ofNat 64 (if r.snap.isEmpty then r.a else off), BitVec.ofNat 64 r.b,
    BitVec.ofNat 64 (if r.vals.isEmpty then r.c else off + 8 * (padTo 8 r.snap).length), 0 ]

/-- Records one behind another; the tail of the first stands at an offset. -/
def recordWords (off : Nat) : List StopRec → List W64
  | [] => []
  | r :: l => r.words off ++ recordWords (off + 8 * r.tail.length) l

/-- A member core's engine section at an offset of the image: its head, the records, and what stands behind them. The head has the
count of the records, the replies the image awaits, the size of the whole engine part (both in the first member's alone), and the
section's own size. -/
def State.engWords (s : State) (mk off total : Nat) : List W64 :=
  let l := s.stops mk
  let tail := l.flatMap StopRec.tail
  let recs := recordWords (off + 64 + 64 * l.length) l
  let size := 8 * (padTo 32 (List.replicate (8 + recs.length + tail.length) 0)).length
  let first (n : Nat) : W64 := BitVec.ofNat 64 (if mk % 4 = 0 then n else 0)
  padTo 32 (padTo 8 [BitVec.ofNat 64 l.length, first (s.gang (mk / 4)).awaits, first total, BitVec.ofNat 64 size] ++ recs ++ tail)

/-- The engine sections of a gang's members at an offset. -/
def State.engAll (s : State) (off total : Nat) : List Nat → List W64
  | [] => []
  | k :: l =>
    let w := s.engWords k off total
    w ++ s.engAll (off + 8 * w.length) total l

/-- The agents of a gang are saved as they stand now: CYCLE in their stop records (spec/16 R290). -/
def State.stampStops (s : State) (g : Nat) : State :=
  let s := s.each (s.teamsOf g) fun s t => s.modTeam t fun x =>
    { x with stopAt := s.cycleReg (s.teamCore t), laneStopAt := s.cycleReg (s.teamCore t) }
  let s := s.each (s.membersOf g) fun s k => s.modMember k fun m => { m with stopAt := s.cycleReg (s.coreNum g (k % 4)) }
  s.modGang g fun x => { x with sstopAt := s.cycleReg (s.coreNum g 0) }

/-- The engine part of an image at an offset: the sections of the members, and what the sections of the image have no place for. -/
def State.engPart (s : State) (g off : Nat) : List W64 :=
  let fatal := match s.ctxs.find? (ctxOf g) with
    | some c => c.fatal
    | none => false
  let rest := padTo 32 (cImage.put (fatal, s.saveGang g 0))
  let total := 8 * ((s.engAll off 0 (s.membersOf g)).length + rest.length)
  s.engAll off total (s.membersOf g) ++ rest

/-! ## The image (spec/07 R140) -/

/-- Lay sections out one behind another from an offset: their offsets, an empty one at 0. -/
def layOut (off : Nat) : List (List W64) → List Nat
  | [] => []
  | w :: l => (if w.isEmpty then 0 else off) :: layOut (off + 8 * w.length) l

/-- The image of a gang as it stands, of a kind. -/
def State.imageWords (s : State) (g kind : Nat) : List W64 :=
  let x := s.gang g
  let hdr := match s.ctxs.find? (ctxOf g) with
    | some c => c.header
    | none => []
  let cores := match s.ctxs.find? (ctxOf g) with
    | some c => c.coresAll
    | none => false
  let ts := s.teamsOf g
  let areas := ts.map s.laneWords
  let lane0 := 256 + 4096 * ts.length
  let at_ := layOut lane0 areas
  let recs := (ts.zip (areas.zip at_)).flatMap fun p => s.teamRecord p.1 p.2.2 (8 * p.2.1.length)
  let areaW := areas.flatten
  let secs := [if x.hasSeq then s.seqWords g else [], x.words, s.fifoWords g, s.padWords g, s.accWords g]
  let at1 := lane0 + 8 * areaW.length
  let body := secs.flatten
  let engAt := at1 + 8 * body.length
  let eng := s.engPart g engAt
  let flags := x.check.toNat + x.record.toNat * 2 + cores.toNat * 4 + kind * 8
  let head : List W64 :=
    [ BitVec.ofNat 64 (0xE70B1A5E + 1 * 2 ^ 32 + 0x100 * 2 ^ 48), BitVec.ofNat 64 (flags + (x.lanesU + x.scratch * 2 ^ 8 + x.acc * 2 ^ 16) * 2 ^ 32),
      listGet 0 hdr 2, listGet 0 hdr 3, x.haddr, BitVec.ofNat 64 (x.ttryi + x.idx * 2 ^ 32), x.constb,
      BitVec.ofNat 64 (x.consts + x.nteams * 2 ^ 32 + x.hasSeq.toNat * 2 ^ 48 + x.cores.length * 2 ^ 56), 256 ]
    ++ (layOut at1 secs).map (BitVec.ofNat 64) ++ [BitVec.ofNat 64 engAt, BitVec.ofNat 64 (engAt + 8 * eng.length)]
    ++ (List.range 7).map fun i => listGet 0 hdr (16 + i)
  padTo 32 head ++ recs ++ areaW ++ body ++ eng ++ s.dbgWords g

end Sys2Proof.Machine
end

