-- ==== Sys2Proof/Machine/Launch.lean ====
section
/-! DEFINITION. The Parser and the Scheduler: batches of launch records, placement, pre-emption, deadlines and held
completion records (spec/07 R136 to R150, spec/16 R295 to R299). -/

namespace Sys2Proof.Machine

/-! ## The Parser (spec/07 R136 to R138, R144) -/

/-- Record n of a submission page. -/
def State.subRecord (s : State) (base : Nat) (n : W32) : LRec :=
  { w := (List.range 16).map fun i => s.mem64 (base + 0x80 + n.toNat % 31 * 128 + 8 * i) }

/-- The lowest context number that no launch of the partition holds (spec/07 R138). -/
def State.freeNumber (s : State) (p : Nat) : Option Nat :=
  (List.range 256).find? fun n => (s.ctxs.find? (p * 256 + n)).isNone

/-- Enter the waits of a launch into the event table: the target of a relative wait counts from now (spec/07 R146).
Answers those that are not satisfied. -/
def State.enterWaits (s : State) (l : List Nat) : List EvWait :=
  (l.filter fun w => bits w 16 2 != 0).filterMap fun w =>
    let name := w % 2 ^ 16
    let now := s.evt.get 0 name
    let v := BitVec.ofNat 32 (bits w 32 32)
    let target := if bits w 16 2 = 1 then now + v else v
    if waitMet now target then none else some { name := name, target := target, order := s.nextOp }

/-- Accept a launch under a context number (spec/07 R138). -/
def State.acceptLaunch (s : State) (p num : Nat) (r : LRec) (raw : Option Raw) : State :=
  let c := p * 256 + num
  let l := r.params raw
  let sig (i : Nat) : Option Nat := if bits l.sigv i 1 = 1 then some (bits l.sigs (16 * i) 16) else none
  let x : Ctx :=
    { part := p, num := num, st := .waiting, tag := listGet 0 r.w 2, prio := l.prio, gangs := r.gangs, placed := 0, retired := 0
      image := r.image
      header := match raw with
        | some h => (List.range 32).map fun i => BitVec.ofNat 64 (h.h (8 * i) 8)
        | none => []
      signalOnly := r.signalOnly, batch := true, waits := s.enterWaits l.waits, sigs := (List.range 4).map sig
      miss := if bits l.sigv 4 1 = 1 then some (bits l.sigv 16 16) else none
      deadline := l.deadline, since := 0, missed := false, order := s.nextOp
      coresAll := match raw with
        | some h => bits (h.h 8 4) 2 1 == 1
        | none => false
      halt := false, fatal := false, haltTime := 0, faults := [], extra := 0, replayed := false, held := false }
  let images := match raw with
    | some h => s.images.set (blankKey c) (s.keepImage p r.image c h)
    | none => s.images
  { s.dropGangs c with ctxs := s.ctxs.set c x, images := images, nextOp := s.nextOp + 1 }

/-- Verify one record: it is accepted or rejected; none while it must stay in the ring, because the completion ring is full
or no context number is free. -/
def State.takeRecord (s : State) (p : Nat) (pt : Part) (n : W32) : Option State :=
  if !pt.heldC.isEmpty || !s.ringFree pt.cfg.compq 62 then none
  else
    let r := s.subRecord pt.cfg.subq n
    let raw := if r.signalOnly then none else some (s.readImage p r.image)
    match s.verify p pt r raw with
    | some (cause, off) => some (s.complete p (completionWords p 0 cause kRejected (listGet 0 r.w 2) s.ns (BitVec.ofNat 64 off)))
    | none =>
      match s.freeNumber p with
      | none => none
      | some num => some (s.acceptLaunch p num r (match raw with
          | some (.ok h) => some h
          | _ => none))

/-- Verify records up to the end of a batch. Answers whether the end was reached. -/
def State.takeRecords (s : State) (p : Nat) (e : W32) : Nat → State × Bool
  | 0 => (s, true)
  | k + 1 =>
    match s.parts.find? p with
    | none => (s, false)
    | some pt =>
      if pt.taken = e then (s, true)
      else
        match s.takeRecord p pt pt.taken with
        | none => (s, false)
        | some s => (s.modPart p fun x => { x with taken := x.taken + 1 }).takeRecords p e k

/-- GET of a submission page moves on. -/
def State.setGet (s : State) (pt : Part) (v : W32) : State := s.benchStore 2 (pt.cfg.subq + 4) (natBytes 4 v.toNat)

/-- The launches of a batch that GET has passed may become eligible, in ring order (spec/07 R138). -/
def State.releaseBatch (s : State) (p : Nat) : State :=
  let mine := (s.ctxs.filter fun c => partOf c.1 == p && c.2.batch).map fun c => (c.2.order, c.1)
  s.each ((sortKeys mine).map Prod.snd) fun s c => (s.modCtx c fun x => { x with batch := false }).makeEligible c

/-- The batches that have been made visible, in order. When the last PUT is more than 31 ahead of GET, what is in the ring is
discarded, under one record whose TAG and DETAIL are 0 (spec/07 R136, R139; DESIGN CHOICE, log entry 59). -/
def State.parse (s : State) (p : Nat) : Nat → State
  | 0 => s
  | fuel + 1 =>
    match s.parts.find? p with
    | none => s
    | some pt =>
      match pt.puts with
      | [] => s
      | e :: rest =>
        let get := s.mem32 (pt.cfg.subq + 4)
        let last := rest.getLast?.getD e
        if 31 < (last - get).toNat then
          if !pt.heldC.isEmpty || !s.ringFree pt.cfg.compq 62 then s
          else
            let s := (s.setGet pt last).modPart p fun x => { x with puts := [], taken := last }
            (s.complete p (completionWords p 0 12 kRejected 0 s.ns 0)).releaseBatch p
        else
          let r := s.takeRecords p e 32
          if !r.2 then r.1
          else (((r.1.setGet pt e).modPart p fun x => { x with puts := rest }).releaseBatch p).parse p fuel

/-- The Parser takes submissions of a partition that runs (spec/07 R138, spec/18 R310, R312). -/
def State.parseAll (s : State) (p : Nat) : State :=
  match s.parts.find? p with
  | some pt => if pt.state = 1 ∧ s.power = .running then s.parse p (pt.puts.length + 1) else s
  | none => s

/-- The host has advanced PUT of the submission page: a batch is visible (spec/07 R136). -/
def State.submitted (s : State) (p : Nat) (e : W32) : State := (s.modPart p fun x => { x with puts := x.puts ++ [e] }).parseAll p

/-- SUBMISSION_BATCH (spec/07 R136, R138): the host's PUT store, and what the Parser does with the batch it makes visible. -/
def execSubmissionBatch (s : State) : Out :=
  let p := s.arg.x
  match s.parts.find? p with
  | none => .next s
  | some pt =>
    let e : W32 := s.arg.w.truncate 32
    .next ((s.benchStore 2 pt.cfg.subq (natBytes 4 e.toNat)).submitted p e)

/-- SUBMISSION_RESUME (spec/07 R136, R138). -/
def execSubmissionResume (s : State) : Out := .next (s.parseAll s.arg.x)

/-- Held completion records enter the ring while it has room; a final one frees its context's number. -/
def State.releaseHeld (s : State) (p : Nat) : Nat → State
  | 0 => s
  | fuel + 1 =>
    match s.parts.find? p with
    | none => s
    | some pt =>
      match pt.heldC with
      | [] => s
      | ws :: rest =>
        if !s.ringFree pt.cfg.compq 62 then s
        else
          let s := s.modPart p fun x => { x with heldC := rest }
          (((s.ringPut pt.cfg.compq 62 64 ws).entered ws)).releaseHeld p fuel

/-- The host has advanced GET of the completion page: what was held enters it, and the Parser goes on (spec/07 R136). -/
def State.completionsTaken (s : State) (p : Nat) : State :=
  match s.parts.find? p with
  | none => s
  | some pt => (s.releaseHeld p pt.heldC.length).post .submissionResume p

/-- HELD_COMPLETION_RELEASE (spec/07 R136): the host advances GET of the completion page. -/
def execHeldCompletionRelease (s : State) : Out :=
  let p := s.arg.x
  match s.parts.find? p with
  | none => .next s
  | some pt =>
    .next ((s.benchStore 2 (pt.cfg.compq + 4) (natBytes 4 (s.arg.w.truncate 32 : W32).toNat)).completionsTaken p)

/-! ## Placement (spec/07 R148) -/

/-- Gangs of a context that were pre-empted and may be placed again. -/
def State.awayGangs (s : State) (c : Nat) : List Nat :=
  (s.gangsOf c).filter fun g => (s.gang g).st == .spilled && (s.gang g).awaits == 0

/-- A context whose gangs the Scheduler places. -/
def Ctx.places (x : Ctx) : Bool := x.st == .eligible && !x.halt

/-- The classes of a partition's launches, in order: priority first, then pre-empted gangs, with `true`, before those never
placed, then acceptance order (spec/07 R148, R149). -/
def State.placeOrder (s : State) (p : Nat) : List (Nat × Bool) :=
  let mine := s.ctxs.filter fun c => partOf c.1 == p && c.2.places
  let key (c : Nat × Ctx) (away : Bool) : Nat := (7 - c.2.prio) * 2 ^ 80 + (if away then 0 else 2 ^ 79) + c.2.order
  let entries := mine.flatMap fun c =>
    (if (s.awayGangs c.1).isEmpty then [] else [(key c true, 2 * c.1 + 1)]) ++ [(key c false, 2 * c.1)]
  (sortKeys entries).map fun k => (k.2 / 2, k.2 % 2 == 1)

/-- Place as many gangs of a launch as fit, one after the other: its pre-empted gangs, or those never placed. -/
def State.placeSome (s : State) (p : Nat) (pt : Part) (c : Nat) (away : Bool) : Nat → State
  | 0 => s
  | fuel + 1 =>
    match s.ctxs.find? c with
    | none => s
    | some x =>
      if away then
        match s.awayGangs c with
        | g :: _ =>
          (match s.freeSet pt (s.gang g).cores.length with
           | some l => (s.placeAgain g l).placeSome p pt c away fuel
           | none => s)
        | [] => s
      else if x.gangs ≤ x.placed then s
      else
        match s.ctxImage c with
        | none => s
        | some i =>
          (match s.freeSet pt i.size with
           | some l => (s.placeNew c x i x.placed l).placeSome p pt c away fuel
           | none => s)

/-- Disjoint sets of a list, taken in order, that meet a test. -/
def pickSets (ok : List Nat → Bool) : Nat → List (List Nat) → List (List Nat)
  | 0, _ => []
  | _, [] => []
  | k + 1, l :: ls => if ok l then l :: pickSets ok k ls else pickSets ok (k + 1) ls

/-- Place every gang of a CORES launch, or none; a launch that the whole partition could not hold fails (spec/07 R148). -/
def State.placeAll (s : State) (pt : Part) (c : Nat) (x : Ctx) (i : Image) : State :=
  let sets := pt.sets i.size
  if sets.length < x.gangs then
    (s.modCtx c fun x => { x with st := .ended }).completeCtx c kPlacementFailed 0
  else if x.placed ≠ 0 then s
  else
    let here := pickSets (fun l => l.all s.coreFree) x.gangs sets
    if here.length < x.gangs then s
    else ((List.range x.gangs).zip here).foldl (fun (s : State) q => s.placeNew c x i q.1 q.2) s

/-- A launch has a gang without a place. -/
def State.unplaced (s : State) (c : Nat) (x : Ctx) : Bool :=
  x.places && (decide (x.placed < x.gangs) || (s.gangsOf c).any fun g => (s.gang g).st == .spilled || (s.gang g).st == .spilling)

/-- Post a step about a partition, if none is on the agenda. -/
def State.postOnce (s : State) (i : Instr) (p : Nat) : State :=
  if s.agenda.contains (turnOf i p 0) then s else s.post i p

/-- GANG_PLACEMENT (spec/07 R148): the Scheduler places what fits. -/
def execGangPlacement (s : State) : Out :=
  let p := s.arg.x
  match s.parts.find? p with
  | none => .next s
  | some pt =>
    if pt.state ≠ 1 then .next s
    else
      let one (s : State) (c : Nat × Bool) : State :=
        match s.ctxs.find? c.1, s.ctxImage c.1 with
        | some x, some i =>
          if x.coresAll && x.placed == 0 then s.placeAll pt c.1 x i else s.placeSome p pt c.1 c.2 (Config.cores + 1)
        | _, _ => s
      let done := (s.gangs.filter fun q => q.2.part == p && q.2.st == .resident).map Prod.fst
      let s := (s.placeOrder p).foldl one (s.each done State.gangCheck)
      .next (if s.ctxs.any fun c => partOf c.1 == p && s.unplaced c.1 c.2 then s.postOnce .preEmption p else s)

/-! ## Pre-emption (spec/07 R149, spec/16 R295, R299) -/

/-- The gang on a core. -/
def State.onCore (s : State) (c : Nat) : Option Nat := (s.core c).issuing

/-- The gangs that a core set would push aside; none where it cannot be freed: a gang of this priority or above, a halting
one, or a shadow bank that is not empty. -/
def State.victims (s : State) (prio : Nat) (cores : List Nat) : Option (List Nat) :=
  let on := (cores.filterMap s.onCore).eraseDups
  let all := on.flatMap fun g => (s.gang g).cores
  let weak (g : Nat) : Bool := match s.ctxs.find? (ctxOf g) with
    | some x => decide (x.prio < prio) && !x.halt && (s.gang g).st == .resident
    | none => false
  if (cores ++ all).all (fun c => (s.core c).shadow.isNone) && on.all weak then some on else none

/-- The keys by which the Scheduler chooses among sets of gangs: the lower the better (spec/07 R149). -/
def State.victimKey (s : State) (l : List Nat) : Nat :=
  let prio := l.foldl (fun n g => match s.ctxs.find? (ctxOf g) with
    | some x => max n x.prio
    | none => n) 0
  let first := l.foldl (fun n g => min n (s.gang g).order) (2 ^ 64)
  prio * 2 ^ 140 + l.length * 2 ^ 128 + (2 ^ 64 - first)

/-- The core set whose victims the Scheduler chooses for a gang of this size. -/
def State.chooseVictims (s : State) (pt : Part) (prio n : Nat) : Option (List Nat × List Nat) :=
  let cand := (pt.sets n).filterMap fun l => match s.victims prio l with
    | some (v :: vs) => some (l, v :: vs)
    | _ => none
  cand.foldl (fun (b : Option (List Nat × List Nat)) x =>
    match b with
    | none => some x
    | some y => if s.victimKey x.2 < s.victimKey y.2 then some x else some y) none

/-- The words that go out at a fabric port and are no segments of a command: phase-barrier words, seal descriptors and their queries
(spec/16 R297, R298). -/
def Op.portWord (x : Op) : Bool := x.isPb || x.kind == .seal || x.kind == .unseal || x.kind == .vref

/-- A request of a gang has left its core and will be answered: it is at its home, at a fabric port, or merged into one that is,
or that is another gang's (spec/16 R298). -/
def State.hasLeft (s : State) (g : Nat) (y : Op) (q : Req) : Bool :=
  let out (q : Req) : Bool := match q.st with
    | .home _ => true
    | .port => y.portWord
    | _ => false
  match q.st with
  | .merged o r => (match s.req o r with
    | some (x, h) => x.gang != g || out h
    | none => false)
  | _ => out q

/-- Swap a gang out: its bank becomes the shadow, and its image is written from there. What has left its cores will be
answered: the image awaits those replies (spec/16 R295, R296, R298). -/
def State.swapOut (s : State) (g : Nat) : State :=
  let away := (s.ops.filter fun p => p.2.gang == g).foldl (fun n p => n + (p.2.reqs.filter (s.hasLeft g p.2)).length) 0
  let asked := (s.teamsOf g).foldl (fun n t => n + ((s.team t).watch.filter fun e => e.st == .unresolved && !e.isSealed).length) 0
  let out (c : CoreHw) : CoreHw := { c with issuing := none, shadow := some g }
  let s := (s.each (s.teamsOf g) fun s t => s.modTeam t Team.saveStreams).stampStops g
  let s := s.each (s.gang g).cores fun s c => s.modCore c out
  (s.modGang g fun x => { x with st := .spilling, awaits := away + asked, since := s.ns, image := 0 }).post .spillComplete g

/-- Core sets and victims for every gang that a launch needs placed at once. -/
def State.chooseAll (s : State) (pt : Part) (prio n : Nat) : Nat → Option (State × List (List Nat))
  | 0 => some (s, [])
  | k + 1 =>
    let hold (s : State) (l : List Nat) : State := s.each l fun s c => s.modCore c fun x => { x with issuing := some (2 ^ 60) }
    match s.freeSet pt n with
    | some l => ((hold s l).chooseAll pt prio n k).map fun r => (r.1, l :: r.2)
    | none =>
      match s.chooseVictims pt prio n with
      | none => none
      | some (l, v) => ((hold (s.each v State.swapOut) l).chooseAll pt prio n k).map fun r => (r.1, l :: r.2)

/-- A gang that has been without a place since a time has waited beyond the threshold (spec/07 R149). -/
def State.waited (s : State) (pt : Part) (since : Nat) : Bool := decide (pt.cfg.preempt * 1000 < s.ns - since)

/-- Pre-empt for the first gang of a launch that has waited too long, of those that are away or of those never placed, and give it its
place; none where it cannot be done (spec/07 R149). -/
def State.preempt (s : State) (pt : Part) (c : Nat) (x : Ctx) (away : Bool) : Option State :=
  if away then
    ((s.awayGangs c).filter fun g => s.waited pt (s.gang g).since).findSome? fun g =>
      (s.chooseVictims pt x.prio (s.gang g).cores.length).map fun r => (s.each r.2 State.swapOut).placeAgain g r.1
  else if !s.waited pt x.since || decide (x.gangs ≤ x.placed) then none
  else
    match s.ctxImage c with
    | none => none
    | some i =>
      if x.coresAll then
        if x.placed ≠ 0 then none
        else (s.chooseAll pt x.prio i.size x.gangs).map fun r =>
          ((List.range x.gangs).zip r.2).foldl (fun (s : State) q => s.placeNew c x i q.1 q.2) r.1
      else (s.chooseVictims pt x.prio i.size).map fun r => (s.each r.2 State.swapOut).placeNew c x i x.placed r.1

/-- PRE_EMPTION (spec/07 R149): the first launch in order with an overdue gang pushes weaker gangs aside; while a gang is
without a place it comes again. -/
def execPreEmption (s : State) : Out :=
  let p := s.arg.x
  match s.parts.find? p with
  | none => .next s
  | some pt =>
    let first := (s.placeOrder p).findSome? fun c => match s.ctxs.find? c.1 with
      | some x => s.preempt pt c.1 x c.2
      | none => none
    let s := match first with
      | some s => s
      | none => s
    .next (if pt.state = 1 ∧ s.ctxs.any (fun c => partOf c.1 == p && s.unplaced c.1 c.2) = true then s.postOnce .preEmption p else s)

/-- The area in the partition's memory that the Scheduler assigns an image of `n` bytes: at a place left open, where memory holds nothing
there, else above all that it holds; none where that has no room (spec/16 R295, DESIGN CHOICE, log entry 10). -/
def State.spillArea (s : State) (cfg : PartCfg) (n : Nat) : Option Nat :=
  let top := cfg.hbmBase + cfg.hbmSize
  let held := (s.mem.map fun c => c.1).filter fun a => decide (cfg.hbmBase ≤ a) && decide (a < top)
  let free (a : Nat) : Bool := decide (a + n ≤ top) && held.all fun b => decide (b < a) || decide (a + n ≤ b)
  let first := cfg.hbmBase + 256 * ((Config.freeWord s.free).toNat % (cfg.hbmSize / 256 + 1))
  let above := match held.getLast? with
    | some a => (a / 256 + 1) * 256
    | none => cfg.hbmBase
  [first, above].find? free

/-- Write the image of a gang that is away, of KIND 1, to its area; after a halt it is part of the dump instead (spec/16 R295, R298,
R299). -/
def State.spill (s : State) (g : Nat) : State :=
  let x := s.gang g
  match s.parts.find? (partOf (ctxOf g)), s.ctxs.find? (ctxOf g) with
  | some pt, some c =>
    if c.halt then s
    else
      let ws := s.imageWords g 1
      let at_ := if x.image = 0 then s.spillArea pt.cfg (8 * ws.length) else some x.image
      let s := if x.image = 0 then s.fresh else s
      match at_ with
      | none => s
      | some a =>
        let s := s.benchWords a ws
        s.modGang g fun x => { x with image := a, codeFrom := s.stored }
  | _, _ => s

/-- SPILL_COMPLETE (spec/16 R295, R299): the image is written and the shadow bank empty; the gang waits for a place, or, if its
context halts, its image is part of the dump. -/
def execSpillComplete (s : State) : Out :=
  let g := s.arg.x
  if (s.gang g).st ≠ .spilling then .next s
  else
    let clear (c : CoreHw) : CoreHw := if c.shadow = some g then { c with shadow := none } else c
    let s := s.each (s.gang g).cores fun s c => s.modCore c clear
    .next (((s.modGang g fun x => { x with st := .spilled }).spill g).post .gangPlacement (partOf (ctxOf g)))

/-- REPLY_PATCH (spec/16 R298): a reply changes the image of gang `x`, which awaits one reply less: the acknowledgement of request `z`
of operation `y`, or, with `ok`, one that has been made in the gang's own parts. With the last one the Scheduler may place the gang. -/
def execReplyPatch (s : State) : Out :=
  let g := s.arg.x
  let s := if s.arg.ok then s else s.ackReq s.arg.y s.arg.z
  let s := s.modGang g fun x => { x with awaits := x.awaits - 1 }
  let s := if (s.gang g).st = .spilled ∧ (s.gang g).image ≠ 0 then s.spill g else s
  .next (if (s.gang g).awaits = 0 then s.post .gangPlacement (partOf (ctxOf g)) else s)

/-! ## Deadlines (spec/07 R150, spec/16 R282) -/

/-- DEADLINE_EXPIRY (spec/07 R150): a launch that has not retired when its last microsecond ends misses; the counter stops when the
context halts, not in a debug stop (spec/23 R359). -/
def execDeadlineExpiry (s : State) : Out :=
  let c := s.arg.x
  match s.ctxs.find? c with
  | none => .next s
  | some x =>
    if x.st = .ended ∨ x.fatal = true ∨ x.missed = true then .next s
    else if s.ns < x.since + x.deadline * 1000 then .next (s.defer .deadlineExpiry)
    else .next (s.missDeadline c x)

end Sys2Proof.Machine
end

