-- ==== Sys2Proof/Machine/Halt.lean ====
section
/-! DEFINITION. The halt line's arrival at each agent, the dump of a halted context and the snapshot of a stopped one, and
fault records that were held (spec/16 R285, R288 to R294, R299, spec/23 R359). -/

namespace Sys2Proof.Machine

/-! ## The halt line (spec/16 R288, R289) -/

/-- The context's halt line is up and its agents have not all stopped. -/
def State.halting (s : State) (g : Nat) : Bool :=
  match s.ctxs.find? (ctxOf g) with
  | some c => c.st == .halting
  | none => false

/-- The lane stream of a team stops: what is in flight to V registers is interlocked (spec/20 R336). -/
def State.haltLane (s : State) (t : Nat) : State :=
  s.modTeam t fun x =>
    if x.laneStopped then x else { x.saveStreams with laneStopped := true, laneStopAt := s.cycleReg (s.teamCore t) }
/-- A sequencer stops. -/
def State.haltSeq (s : State) (g : Nat) : State :=
  s.modGang g fun x => if x.sstopped then x else { x with sstopped := true, sstopAt := s.cycleReg (s.coreNum g 0) }
/-- The engines of a member core stop. -/
def State.haltEngines (s : State) (k : Nat) : State :=
  s.modMember k fun m => if m.stopped then m else { m with stopped := true, stopAt := s.cycleReg (s.coreNum (k / 4) (k % 4)) }
/-- Both streams of a team stop. -/
def State.haltTeam (s : State) (t : Nat) : State :=
  (s.haltLane t).modTeam t fun x => if x.stopped then x else { x with stopped := true, stopAt := s.cycleReg (s.teamCore t) }
/-- Every agent of a gang stops. -/
def State.haltGang (s : State) (g : Nat) : State :=
  (s.membersOf g).foldl State.haltEngines ((s.each (s.teamsOf g) State.haltTeam).haltSeq g)

/-- Passes of the lane instruction under way that remain when the halt line comes: an instruction is one step of the model, so how many
is left open (spec/16 R289, DESIGN CHOICE, log entry 6). -/
def Team.passesLeft (t : Team) (free : Nat) : Nat := if t.running.isSome then free % max 1 (t.width / 32) else 0
/-- Segments of a command that have been issued and are drained (spec/16 R289). -/
def Op.going (x : Op) : Nat :=
  (x.reqs.filter fun q => match q.st with
    | .home _ => true
    | .performed => true
    | _ => false).length

/-- HALT_LINE_ARRIVAL (spec/16 R289): a scalar stream stops at its second turn, after at most 6 further instructions, or at once in
its wait, which it does not leave; a lane pipe after its instruction; a sequencer at once; the engines of a core at a segment boundary and after the
instruction under way. -/
def execHaltLineArrival (s : State) : Out :=
  match s.arg.agent with
  | none => .next s
  | some a =>
    if !s.halting (agentGang a) then .next s
    else
      match a with
      | .scalar t =>
        let x := s.team t
        if x.stopped || x.exited then .next s
        else if x.reached || x.wait.isSome then
          .next (s.modTeam t fun x => { x with stopped := true, stopAt := s.cycleReg (s.teamCore t) })
        else .next ((s.modTeam t fun x => { x with reached := true, skid := 0 }).defer .haltLineArrival)
      | .lane t =>
        let x := s.team t
        if x.laneStopped then .next s
        else .next ((s.fresh.haltLane t).modTeam t fun y => { y with laneSkid := x.passesLeft (Config.freeWord s.free).toNat })
      | .seq g => .next (s.haltSeq g)
      | .engines k =>
        let m := s.member k
        if m.stopped then .next s
        else
          let skid := if m.mq.isEmpty || m.mheld.isSome then 0 else (Config.freeWord s.free).toNat % 25
          let drain (p : Nat × Op) : Nat × Op := if p.2.member = k then (p.1, { p.2 with skid := p.2.going }) else p
          .next (({ s.fresh with ops := s.ops.map drain }.haltEngines k).modMember k fun m => { m with skid := skid })

/-- Every agent of a gang has stopped. -/
def State.gangStopped (s : State) (g : Nat) : Bool :=
  (s.teamsOf g).all (fun t => ((s.team t).stopped || (s.team t).exited) && ((s.team t).laneStopped || (s.team t).copy || (s.team t).exited))
    && (!(s.gang g).hasSeq || (s.gang g).sstopped || (s.gang g).halted) && (s.membersOf g).all fun k => (s.member k).stopped

/-- Requests of a gang that have left their cores and whose replies are still to come, and segments that have been performed
and are not yet credited (spec/16 R291, R292). -/
def State.awaited (s : State) (g : Nat) : Bool :=
  s.ops.any fun p => p.2.gang == g && p.2.reqs.any fun q => match q.st with
    | .home _ => true
    | .performed => true
    | .port => p.2.portWord
    | _ => false

/-! ## Dumps (spec/16 R293, R294) -/

/-- The header of a dump: `size` bytes in all, images at these offsets. -/
def dumpHeader (c : Nat) (x : Ctx) (size : Nat) (images : List Nat) : List W64 :=
  let faults := (List.range 8).map fun i => BitVec.ofNat 64 ((x.faults.getD (2 * i) 0).toNat + 2 ^ 32 * (x.faults.getD (2 * i + 1) 0).toNat)
  padTo 32 ([ BitVec.ofNat 64 (0xE70BD0A1 + 1 * 2 ^ 32 + x.faults.length * 2 ^ 48),
      BitVec.ofNat 64 (c % 256 + partOf c * 2 ^ 8 + images.length * 2 ^ 32),
      BitVec.ofNat 64 (x.gangs - x.placed + x.extra * 2 ^ 32), BitVec.ofNat 64 x.haltTime ] ++ faults ++ [BitVec.ofNat 64 size])
  ++ images.map (BitVec.ofNat 64)

/-- Write the dump of a context to its partition's dump area, or its snapshot (spec/23 R359): header, and one
stop image for each placed gang; an area that is too small receives the header alone. -/
def State.writeDump (s : State) (c : Nat) (x : Ctx) (base size : Nat) (gs : List Nat) : State :=
  let imgs := gs.map fun g => s.imageWords g 2
  let first := (256 + 8 * gs.length + 255) / 256 * 256
  let offs := layOut first imgs
  let total := first + imgs.foldl (fun n w => n + 8 * w.length) 0
  if size < total then s.benchWords base ((dumpHeader c x total (gs.map fun _ => 0)).take 32)
  else
    let s := s.benchWords base (dumpHeader c x total offs)
    (offs.zip imgs).foldl (fun (s : State) p => s.benchWords (base + p.1) p.2) s

/-- The gangs that a dump or snapshot of a context holds. -/
def State.dumpGangs (s : State) (c : Nat) : List Nat :=
  (s.gangsOf c).filter fun g => (s.gang g).st != .retired && (s.gang g).st != .unplaced

/-- The ARMED trigger slots of a context become IDLE (spec/12 R233). -/
def State.disarm (s : State) (c : Nat) : State :=
  let mine (o : Nat) : Bool := match s.ops.find? o with
    | some op => ctxOf op.gang == c
    | none => false
  { s with slots := s.slots.map fun (p : Nat × Slot) => if p.2.st = .armed ∧ mine p.2.op then (p.1, Slot.blank) else p }

/-- A halted context gives up its cores and its slots, and its CONTEXT_HALTED record names the dump (spec/16 R293); in the
reset of its function there is no such record (spec/18 R312). -/
def State.endHalted (s : State) (c : Nat) : State :=
  let (base, reset) := match s.parts.find? (partOf c) with
    | some p => (p.cfg.dumpB, p.state == 3)
    | none => (0, false)
  let s := s.each (s.gangsOf c) fun s g => (s.vacate g).modGang g fun x => { x with st := .stopped }
  let s := (s.disarm c).modCtx c fun x => { x with st := .ended }
  if reset then s.freeCtx c else (s.post .gangPlacement (partOf c)).completeCtx c kContextHalted (BitVec.ofNat 64 base)

/-- Another context halted earlier on a fatal fault, and its dump is not written yet (spec/16 R294). -/
def State.dumpBefore (s : State) (c : Nat) (x : Ctx) : Bool :=
  s.ctxs.any fun p => p.1 != c && p.2.st == .halting && p.2.fatal && decide (p.2.haltTime < x.haltTime)

/-- DUMP (spec/16 R293, R294, R299, spec/23 R359): once every agent of a halting context has stopped and every reply is in,
its dump is written. After a fatal fault the context ends; after a debug stop it stays on its cores. -/
def execDump (s : State) : Out :=
  let c := s.arg.x
  match s.ctxs.find? c with
  | none => .next s
  | some x =>
    if x.st != .halting then .next s
    else
      let gs := s.dumpGangs c
      let live := gs.filter fun g => (s.gang g).st == .resident
      let ready := live.all s.gangStopped && !live.any s.awaited && gs.all (fun g => (s.gang g).st == .resident
        || ((s.gang g).st == .spilled && (s.gang g).awaits == 0)) && !s.dumpBefore c x
      if !ready then .next (s.defer .dump)
      else
        match s.parts.find? (partOf c) with
        | none => .next s
        | some pt =>
          if x.fatal then .next ((s.writeDump c x pt.cfg.dumpB pt.cfg.dumpS gs).endHalted c)
          else .next ((s.writeDump c x pt.cfg.dumpB pt.cfg.dumpS gs).modCtx c fun x => { x with st := .stopped })

/-! ## Going on after a debug stop (spec/23 R361, spec/24 R370, R376) -/

/-- Accesses of a team's operations that scratchpad watchpoints hold are performed, each past the watchpoint that held it
(spec/23 R361). -/
def State.letGoOps (s : State) (t : Nat) : State :=
  s.ops.foldl (fun (s : State) p =>
    if p.2.team ≠ t then s
    else p.2.reqs.foldl (fun (s : State) q => match q.st with
      | .held wp => if wp < 4 then
          (s.modReq p.1 q.id fun r => { r with st := .ready, count := wp + 1 }).serve p.1 q.id p.2 else s
      | _ => s) s) s

/-- The same, and the access that its scalar stream is held in. -/
def State.letGo (s : State) (t : Nat) : State :=
  (s.letGoOps t).modTeam t fun x => { x with wait := x.wait.map fun w =>
    if w.obj = .fence ∧ 1 ≤ w.phase ∧ w.phase ≤ 4 then { w with phase := w.phase + 4 } else w }

/-- The streams of a team may issue again. -/
def Team.go (t : Team) : Team := { t with stopped := false, reached := false, skid := 0, laneStopped := false, laneSkid := 0 }

/-- Every agent of a gang goes on from its stop record (spec/23 R361, spec/16 R296). -/
def State.resumeGang (s : State) (g : Nat) : State :=
  let s := (s.each (s.teamsOf g) State.letGo).letGoOps (teamKey g 256)
  let s := s.each (s.teamsOf g) fun s t => s.modTeam t Team.go
  let s := s.modGang g fun x => { x with sstopped := false }
  let s := s.each (s.membersOf g) fun s k => s.modMember k fun m =>
    { m with stopped := false, mheld := none, mskip := if m.mheld.isSome then m.mheld else m.mskip }
  s.startGang g

/-- A stopped context resumes. -/
def State.resumeCtx (s : State) (c : Nat) : State :=
  let s := s.modCtx c fun x =>
    { x with halt := false, fatal := false, faults := [], extra := 0, haltTime := 0, st := if x.elig then .eligible else .waiting }
  let s := s.each ((s.gangsOf c).filter fun g => (s.gang g).st == .resident) State.resumeGang
  (s.makeEligible c).post .gangPlacement (partOf c)

/-- A session ends: a stopped context resumes, or, after a replay, halts with the dump of its original stop (spec/24 R370,
R376). -/
def State.detach (s : State) (p : Nat) (x : Session) : State :=
  let base := match s.parts.find? p with
    | some pt => pt.cfg.dumpB
    | none => 0
  let s := match s.ctxs.find? x.ctx with
    | some c =>
      if c.st ≠ CtxSt.stopped then s
      else if c.replayed then (s.benchStore (x.dump.length / 128 + 2) base x.dump).endHalted x.ctx
      else s.resumeCtx x.ctx
    | none => s
  s.modPart p fun y => { y with session := none }

/-- A session that is to end waits for a debug stop under way. -/
def State.leaving (s : State) (x : Session) : Bool :=
  x.leave && match s.ctxs.find? x.ctx with
    | some c => c.st == .halting && !c.fatal
    | none => false

/-! ## Held fault records (spec/16 R285) -/

/-- Held records of a partition enter its ring while it has room. -/
def State.drainFaults (s : State) (p : Nat) : Nat → State
  | 0 => s
  | fuel + 1 =>
    match s.parts.find? p with
    | none => s
    | some pt =>
      match pt.heldF with
      | [] => s
      | ws :: rest =>
        if !s.ringFree pt.cfg.faultq 31 then s
        else ((s.modPart p fun x => { x with heldF := rest }).ringPut pt.cfg.faultq 31 128 ws).drainFaults p fuel

/-- Held records of the management ring enter it while it has room. -/
def State.drainMgmt (s : State) : Nat → State
  | 0 => s
  | fuel + 1 =>
    match s.mgmtHeld with
    | [] => s
    | ws :: rest => if !s.mgmtFree then s else ({ s with mgmtHeld := rest }.mgmtPut ws).drainMgmt fuel

/-- FAULT_RECORD_DRAIN (spec/16 R285): the host advances GET of a partition's fault ring, or, with `ok`, of the management
ring, and records that were held enter it. -/
def execFaultRecordDrain (s : State) : Out :=
  let v := natBytes 4 (s.arg.w.truncate 32 : W32).toNat
  if s.arg.ok then .next ((s.setMgmt 4 v).drainMgmt 32)
  else
    match s.parts.find? s.arg.x with
    | none => .next s
    | some pt => .next ((s.benchStore 2 (pt.cfg.faultq + 4) v).drainFaults s.arg.x 32)

end Sys2Proof.Machine
end

