-- ==== Sys2Proof/Machine/Manage.lean ====
section
/-! DEFINITION. The host's side: management registers, feature negotiation, management commands, partitions and their
reset, the apertures and the attestation report (spec/18 R305 to R312, R315, R316, R318). -/

namespace Sys2Proof.Machine

/-! ## Registers (spec/18 R307) -/

/-- STATUS [1:0]: 0 negotiating, 1 running, 2 refused, 3 recovery. -/
def State.mode (s : State) : Nat := bits s.status.toNat 0 2
/-- STATUS with another [1:0]. -/
def State.setMode (s : State) (m : Nat) : State := { s with status := (s.status &&& ~~~3) ||| BitVec.ofNat 64 m }

/-- REGISTER_WRITE (spec/18 R307, R309): ACCEPT while it is not fixed, APBASE, and CMD; `x` is the offset and `w` the
value. RESP and the other registers are the device's. In recovery only CMD is accepted (R317). An APBASE that is no multiple
of 64 GiB leaves the base open (DESIGN CHOICE, log entry 20). -/
def execRegisterWrite (s : State) : Out :=
  let off := s.arg.x
  let v := s.arg.w
  let hi : BitVec 128 := BitVec.ofNat 128 (2 ^ 128 - 2 ^ 64)
  if 0x100 ≤ off ∧ off < 0x140 ∧ off % 8 = 0 then .next { s with cmd := listSet s.cmd ((off - 0x100) / 8) v }
  else if s.power = .recovery then .next s
  else if off = 0x10 ∧ s.mode ≠ 1 then .next { s with accept := (s.accept &&& hi) ||| v.zeroExtend 128 }
  else if off = 0x18 ∧ s.mode ≠ 1 then .next { s with accept := (s.accept &&& ~~~hi) ||| (v.zeroExtend 128 <<< 64) }
  else if off = 0x28 then
    if v.toNat % 2 ^ 36 = 0 then .next { s with apbase := v }
    else .next { s.fresh with apbase := Config.freeWord s.free &&& BitVec.ofNat 64 (2 ^ 64 - 2 ^ 36) }
  else .next s

/-- FEATURE_NEGOTIATION (spec/18 R309, R322): a write of 1 to STATUS [1:0]. The flag of a thermal stop is cleared as the
negotiation completes. -/
def execFeatureNegotiation (s : State) : Out :=
  if s.mode = 1 ∨ s.mode = 3 then .next s
  else if s.accept &&& ~~~s.offer ≠ 0 ∨ s.accept.getLsbD 0 = false then .next { s.setMode 2 with accept := 0 }
  else .next { s.setMode 1 with trip := false, status := (s.setMode 1).status &&& ~~~0x10 }

/-! ## Commands (spec/18 R308) -/

/-- The code of a command. -/
def cmdCode (cmd : List W64) : Nat := bits (listGet 0 cmd 0).toNat 0 8
/-- An operand of a command. -/
def cmdArg (cmd : List W64) (i : Nat) : Nat := (listGet 0 cmd i).toNat

/-- The codes that the tables of spec/18 R308 and spec/24 R376 list. -/
def listedCode (c : Nat) : Bool := (decide (1 ≤ c) && decide (c ≤ 9)) || (decide (0x10 ≤ c) && decide (c ≤ 0x1B))

/-- Latch CMD: the command runs, with its status and the words that follow the first of RESP (spec/18 R308). -/
def State.latchCmd (s : State) (status : Nat) (resp : List W64) : State :=
  { s with run := some (s.cmd, status, resp), status := (s.status &&& ~~~8) ||| 4 }.post .managementCommandDone 0

/-- A doorbell rung while CMD holds a command with this code: it is carried out, or refused with a status, and then
nothing changes; while another command runs it is dropped (spec/18 R308, R309). -/
def State.doorbell (s : State) (code : Nat) (k : List W64 → Except Nat (State × List W64)) : Out :=
  if cmdCode s.cmd ≠ code then .next s
  else if s.run.isSome then .next { s with status := s.status ||| 8 }
  else if s.mode ≠ 1 then .next (s.latchCmd 2 [])
  else if bits (listGet 0 s.cmd 0).toNat 8 56 ≠ 0 then .next (s.latchCmd 1 [])
  else
    match k s.cmd with
    | .error e => .next (s.latchCmd e [])
    | .ok (s, resp) => .next (s.latchCmd 0 resp)

/-- A command that is done without words of its own in RESP. -/
def ok (s : State) : Except Nat (State × List W64) := .ok (s, [])

/-- A failing status that the spec does not name, left open (DESIGN CHOICE, log entry 20). -/
def State.openStatus (s : State) : Nat := 1 + (Config.freeWord s.free).toNat % 3

/-- DOORBELL_WHILE_BUSY (spec/18 R308). -/
def execDoorbellWhileBusy (s : State) : Out := .next (if s.run.isSome then { s with status := s.status ||| 8 } else s)

/-- UNLISTED_COMMAND_CODE (spec/18 R308): refused with status 1. -/
def execUnlistedCommandCode (s : State) : Out :=
  if listedCode (cmdCode s.cmd) || (cmdCode s.cmd == 10 && s.mode == 3) then .next s
  else s.doorbell (cmdCode s.cmd) fun _ => .error 1

/-! ## Partitions (spec/18 R310) -/

/-- The configuration in a block of 256 bytes. -/
def readCfg (b : List Byte) : PartCfg :=
  let f (at_ n : Nat) : Nat := bytesNat ((b.drop at_).take n)
  { quadsB := BitVec.ofNat 128 (f 0 16), hbmBase := f 0x10 8, hbmSize := f 0x18 8, stBase := f 0x20 8, stSize := f 0x28 8, ptRoot := f 0x30 8,
    subq := f 0x38 8, compq := f 0x40 8, faultq := f 0x48 8, prq := f 0x50 8, prs := f 0x58 8, dumpB := f 0x60 8, dumpS := f 0x68 8,
    ev0 := f 0x70 2, ev1 := f 0x72 2, slot0 := f 0x74 2 % 2 ^ 12, slot1 := f 0x76 2 % 2 ^ 12, grp0 := f 0x78 2 % 2 ^ 12,
    grp1 := f 0x7A 2 % 2 ^ 12, preempt := if f 0x7C 4 = 0xFFFFFFFF then 100 else f 0x7C 4, walk := f 0x80 4, ftimeout := f 0x84 4,
    journB := f 0x88 8, journS := f 0x90 8 }

/-- `[base, base + size)` lies in the partition's share of HBM4E, and its base is 4 KiB-aligned. -/
def PartCfg.holds (c : PartCfg) (base size : Nat) : Bool :=
  base % 4096 == 0 && decide (c.hbmBase ≤ base) && decide (base + size ≤ c.hbmBase + c.hbmSize)

/-- The rings of a partition: submission, completion, fault, page-request, page-response. -/
def PartCfg.rings (c : PartCfg) : List Nat := [c.subq, c.compq, c.faultq, c.prq, c.prs]

/-- A block without a reserved bit, a value out of range or a misalignment (spec/18 R310). -/
def cfgOk (b : List Byte) (secondTier : Bool) : Bool :=
  let c := readCfg b
  let f (at_ n : Nat) : Nat := bytesNat ((b.drop at_).take n)
  let gib := 2 ^ 30
  let reserved := [f 0x74 2 / 2 ^ 12, f 0x76 2 / 2 ^ 12, f 0x78 2 / 2 ^ 12, f 0x7A 2 / 2 ^ 12, f 0x98 104, c.quadsB.toNat / 2 ^ Config.quads]
  let hbm := c.hbmBase % gib == 0 && c.hbmSize % gib == 0 && decide (gib ≤ c.hbmSize) && decide (c.hbmBase + c.hbmSize ≤ Config.hbmEnd)
  let st := c.stBase % gib == 0 && (c.stSize == 0 || secondTier && decide (Config.stBase ≤ c.stBase) && decide (c.stBase + c.stSize ≤ Config.stEnd))
  let times := decide (10 ≤ c.walk) && decide (c.walk ≤ 10000) && decide (100 ≤ c.ftimeout) && decide (c.ftimeout ≤ 1000000)
  let journal := c.journS % 2 ^ 20 == 0 && (c.journS == 0 || c.holds c.journB c.journS)
  reserved.all (· == 0) && hbm && st && c.ptRoot % 1024 == 0 && physOk c.ptRoot && c.rings.all (fun r => c.holds r 4096)
    && c.holds c.dumpB c.dumpS && times && journal

/-- Two ranges of numbers meet; one whose last is below its first is empty. -/
def meet (a0 a1 b0 b1 : Nat) : Bool := decide (a0 ≤ a1) && decide (b0 ≤ b1) && decide (a0 ≤ b1) && decide (b0 ≤ a1)

/-- Two partitions overlap in quads, shares, names, slots or groups (spec/18 R310). -/
def PartCfg.overlaps (a b : PartCfg) : Bool :=
  a.quadsB &&& b.quadsB != 0 || meet a.hbmBase (a.hbmBase + a.hbmSize - 1) b.hbmBase (b.hbmBase + b.hbmSize - 1)
    || (a.stSize != 0 && b.stSize != 0 && meet a.stBase (a.stBase + a.stSize - 1) b.stBase (b.stBase + b.stSize - 1))
    || meet a.ev0 a.ev1 b.ev0 b.ev1 || meet a.slot0 a.slot1 b.slot0 b.slot1 || meet a.grp0 a.grp1 b.grp0 b.grp1

/-- The event counters of a partition, and PUT and GET of its rings, are zeroed (spec/18 R310). -/
def State.zeroPart (s : State) (c : PartCfg) : State :=
  let s := { s with evt := s.evt.filter fun e => !(decide (c.ev0 ≤ e.1) && decide (e.1 ≤ c.ev1)) }
  s.each c.rings fun s r => s.benchStore 2 r (List.replicate 8 0)

/-- CONFIGURE_PARTITION (spec/18 R310). -/
def execConfigurePartition (s : State) : Out :=
  s.doorbell 1 fun cmd =>
    let p := cmdArg cmd 1
    let at_ := cmdArg cmd 2
    let b := s.memBytes at_ 256
    let c := readCfg b
    if 8 ≤ p ∨ at_ % 256 ≠ 0 ∨ physOk at_ = false ∨ cfgOk b (s.accept.getLsbD 1) = false then .error 1
    else if (s.parts.find? p).isSome || s.parts.any (fun q => q.2.cfg.overlaps c) then .error 2
    else
      let pt : Part := { cfg := c, block := b, state := 1, errseq := 1, lost := 0, heldF := [], heldC := [], prTag := 1, session := none,
                         taken := 0, puts := [] }
      ok (({ s with parts := s.parts.set p pt }.zeroPart c).push
        [.event .waitForWalk { Args.none with x := p, z := s.ns + c.walk * 1000 }])

/-- Contexts of a partition. -/
def State.ctxsOf (s : State) (p : Nat) : List Nat := (s.ctxs.filter fun c => partOf c.1 == p).map Prod.fst

/-- DESTROY_PARTITION (spec/18 R308): every context halts, and then the partition is removed. -/
def execDestroyPartition (s : State) : Out :=
  s.doorbell 2 fun cmd =>
    let p := cmdArg cmd 1
    if 8 ≤ p then .error 1
    else if (s.parts.find? p).isNone then .error s.openStatus
    else
      let s := s.modPart p fun x => { x with state := 2 }
      ok (s.each (s.ctxsOf p) fun s c => s.raiseHalt c true)

/-- A partition is removed. -/
def State.removePart (s : State) (p : Nat) : State :=
  { s with parts := s.parts.del p, tfaults := s.tfaults.filter fun f => f.part != p }

/-! ## Groups, windows, slots, power, fabric and trace (spec/18 R308, R315, R316, R321) -/

/-- SET_GROUP (spec/18 R308, R315): the entry takes effect with the response. -/
def execSetGroup (s : State) : Out :=
  s.doorbell 3 fun cmd =>
    let g := cmdArg cmd 1
    let d0 := listGet 0 cmd 2
    let d1 := listGet 0 cmd 3
    if s.pod.isNone then .error 2
    else if 4096 ≤ g ∨ bits d0.toNat 54 10 ≠ 0 ∨ bits d1.toNat 26 38 ≠ 0 ∨ bits d1.toNat 0 12 ≠ 0 then .error 1
    else ok s

/-- An entry of the window table without a reserved bit or a value out of range (spec/18 R316). -/
def windowOk (w : List W64) : Bool :=
  let f (i lo n : Nat) : Nat := bits (listGet 0 w i).toNat lo n
  [f 0 54 10, f 0 0 12, f 1 40 24, f 1 0 12, f 2 20 44, f 3 11 53, f 3 3 5].all (· == 0) && f 1 0 40 != 0
    && (decide (f 2 0 16 < 1024) || f 2 0 16 == 0xFFFF)

/-- EXPORT_WINDOW (spec/18 R308, R316): the entry, without a revocation mark. -/
def execExportWindow (s : State) : Out :=
  s.doorbell 4 fun cmd =>
    let w := (List.range 4).map fun i => listGet 0 cmd (2 + i)
    if s.pod.isNone then .error 2
    else if 4096 ≤ cmdArg cmd 1 ∨ windowOk w = false then .error 1
    else ok { s with windows := s.windows.set (cmdArg cmd 1) (w, false) }

/-- REVOKE_WINDOW (spec/18 R308, R316). -/
def execRevokeWindow (s : State) : Out :=
  s.doorbell 5 fun cmd =>
    let n := cmdArg cmd 1
    if s.pod.isNone then .error 2
    else if 4096 ≤ n then .error 1
    else ok { s with windows := s.windows.set n ((s.windows.get (List.replicate 4 0, false) n).1, true) }

/-- CLEAR_TRIGGER (spec/12 R233, spec/18 R308). -/
def execClearTrigger (s : State) : Out :=
  s.doorbell 6 fun cmd =>
    let n := cmdArg cmd 1
    if 4096 ≤ n then .error 1
    else if (s.slots.get .blank n).st = .latched then ok (s.modSlot n fun _ => Slot.blank)
    else ok s

/-- SET_POWER_CAP (spec/18 R308). -/
def execSetPowerCap (s : State) : Out :=
  s.doorbell 7 fun cmd =>
    let n := cmdArg cmd 1
    if n < 1200 ∨ 3200 < n then .error 1 else ok { s with cap := n }

/-- SET_FABRIC (spec/18 R308): the pod number, and the leaf switch of each pod device. -/
def execSetFabric (s : State) : Out :=
  s.doorbell 8 fun cmd =>
    let a := cmdArg cmd 2
    if 1024 ≤ cmdArg cmd 1 ∨ physOk a = false ∨ physOk (a + 2047) = false then .error 1
    else
      let leaf := (List.range 1024).map fun d => (d, bytesNat (s.memBytes (a + 2 * d) 2))
      ok { s with pod := some (cmdArg cmd 1), leaf := leaf }

/-- A size that is a power of 2. -/
def isPow2 (n : Nat) : Bool := n != 0 && (n &&& (n - 1)) == 0

/-- SET_TRACE (spec/18 R308, R321). -/
def execSetTrace (s : State) : Out :=
  s.doorbell 9 fun cmd =>
    let b := cmdArg cmd 1
    let n := cmdArg cmd 2
    if b % 4096 ≠ 0 ∨ isPow2 n = false ∨ n < 4096 ∨ 2 ^ 24 < n ∨ physOk b = false ∨ physOk (b + n - 1) = false then .error 1
    else ok { s with traceB := b, traceS := n }

/-! ## The end of a command (spec/18 R308) -/

/-- No segment is being performed in a window, none waits there for a translation, and none that was performed has its answer held
for its trigger (spec/12 R233, spec/18 R316). -/
def State.windowQuiet (s : State) (n : Nat) : Bool :=
  let mine (w : PeerW) : Bool := w.win == n
  !s.arriving.any mine && !(s.incoming.any fun c => c.win == n && c.held.isSome) && !s.hw.any fun h => match h.2.peer with
    | some w => mine w
    | none => false

/-- What a running command still waits for is over: the contexts of a partition that is destroyed, segments being performed
in a revoked window, a step, a replay. -/
def State.cmdOver (s : State) (cmd : List W64) : Bool :=
  let step := s.parts.any fun p => match p.2.session with
    | some x => x.step.isSome
    | none => false
  let replay := s.parts.any fun p => match p.2.session with
    | some x => x.replay.isSome
    | none => false
  match cmdCode cmd with
  | 2 => (s.ctxsOf (cmdArg cmd 1)).isEmpty
  | 5 => s.windowQuiet (cmdArg cmd 1)
  | 0x11 => !s.parts.any fun p => match p.2.session with
    | some x => s.leaving x
    | none => false
  | 0x13 => !step
  | 0x19 => !replay
  | _ => true

/-- MANAGEMENT_COMMAND_DONE (spec/18 R308): RESP, BUSY and MSI-X vector 0 of the physical function; SET_GROUP's entry
takes effect with the response (R315). -/
def execManagementCommandDone (s : State) : Out :=
  match s.run with
  | none => .next s
  | some (cmd, st, resp) =>
    if st = 0 ∧ s.cmdOver cmd = false then .next (s.defer .managementCommandDone)
    else
      let s := if st = 0 ∧ cmdCode cmd = 2 then s.removePart (cmdArg cmd 1) else s
      let s := if st = 0 ∧ cmdCode cmd = 3 then { s with groupTab := s.groupTab.set (cmdArg cmd 1) (listGet 0 cmd 2, listGet 0 cmd 3) } else s
      let s := s.parts.foldl (fun (s : State) p => match p.2.session with
        | some x => if x.leave then s.detach p.1 x else s
        | none => s) s
      let words := (BitVec.ofNat 64 (st + cmdCode cmd * 256) :: resp ++ List.replicate 8 0).take 8
      .next { s with run := none, resp := words, status := s.status &&& ~~~4, msix := s.msix.set 8 (s.msix.get 0 8 ||| 1) }

/-! ## Apertures (spec/18 R306) -/

/-- The physical base and the bytes of a function's BAR 2 that reach memory: function 8 is the physical one; none where the
function answers with all ones. -/
def State.aperture (s : State) (fn : Nat) : Option (Nat × Nat) :=
  if fn = 8 then some (s.apbase.toNat, 2 ^ 36)
  else
    match s.parts.find? fn with
    | some p => if s.vfs && p.state != 3 && decide (fn < 8) then some (p.cfg.hbmBase, p.cfg.hbmSize) else none
    | none => none

/-- The index words of a partition's rings that a host write has reached: the device learns of what the host has put or
taken (spec/07 R136, spec/18 R306, R311). `prs` is PUT of the page-response ring as it stood. -/
def State.hostIndexes (s : State) (k : Nat) (c : PartCfg) (pa n : Nat) (prs : W32) : State :=
  let hit (a : Nat) : Bool := decide (pa < a + 4) && decide (a < pa + n)
  let s := if hit c.subq then s.submitted k (s.mem32 c.subq) else s
  let s := if hit (c.compq + 4) then s.completionsTaken k else s
  let s := if hit (c.faultq + 4) then s.drainFaults k 32 else s
  if !hit c.prs then s
  else
    s.each (List.range (min 124 (s.mem32 c.prs - prs).toNat)) fun s i =>
      let r := c.prs + 0x80 + (prs.toNat + i) % 124 * 32
      (s.responseTaken c).pageAnswer k (s.mem64 r).toNat ((s.mem64 (r + 8)).getLsbD 0)

/-- HOST_WRITE (spec/18 R306): the bytes `data` at offset `y` of function `x`'s BAR 2; what lies beyond the share, or where no
memory is, is discarded. -/
def execHostWrite (s : State) : Out :=
  let a := s.arg
  match s.aperture a.x with
  | none => .next s
  | some (base, size) =>
    let data := (a.data.take (size - a.y)).take ((List.range a.data.length).takeWhile fun i => physOk (base + a.y + i)).length
    let old := s.parts.map fun p => (p.1, p.2.cfg, s.mem32 p.2.cfg.prs)
    let pa := base + a.y
    let s := (s.benchStore (data.length / 128 + 2) pa data).tlbRefresh
    .next (old.foldl (fun (s : State) p => s.hostIndexes p.1 p.2.1 pa data.length p.2.2) s)

/-- A byte of the physical function's BAR 0; the spec gives none for an offset that it does not list. -/
def State.mgmtByte (s : State) (off : Nat) : Byte :=
  let at_ (v lo : Nat) : Byte := BitVec.ofNat 8 (v / 2 ^ (8 * (off - lo)))
  if off < 0x10 then at_ s.offer.toNat 0
  else if off < 0x20 then at_ s.accept.toNat 0x10
  else if off < 0x28 then at_ s.status.toNat 0x20
  else if off < 0x30 then at_ s.apbase.toNat 0x28
  else if off < 0x38 then at_ s.tracecnt.toNat 0x30
  else if 0x100 ≤ off ∧ off < 0x140 then at_ (listGet 0 s.cmd ((off - 0x100) / 8)).toNat (off / 8 * 8)
  else if 0x140 ≤ off ∧ off < 0x180 then at_ (listGet 0 s.resp ((off - 0x140) / 8)).toNat (off / 8 * 8)
  else if 0x180 ≤ off ∧ off < 0x188 then 0
  else if 0x1000 ≤ off ∧ off < 0x2000 then s.mgmtq.get 0 (off - 0x1000)
  else (Config.freeWord ((s.free + 1) * 2 ^ 32 + off)).truncate 8

/-- A byte of a virtual function's BAR 0. -/
def State.vfByte (s : State) (p : Part) (off : Nat) : Byte :=
  if off < 0x10 then BitVec.ofNat 8 (s.accept.toNat / 2 ^ (8 * off)) else if off = 0x10 then BitVec.ofNat 8 p.state else 0

/-- HOST_READ (spec/18 R305, R306): `z` bytes at offset `y` of BAR `u`, 0 or 2, of function `x`, into the answer. -/
def execHostRead (s : State) : Out :=
  let a := s.arg
  let ones := List.replicate a.z (0xFF : Byte)
  let put (l : List Byte) : Out := .next { s.fresh with hostData := l }
  if a.u = 0 then
    if a.x = 8 then put ((List.range a.z).map fun i => s.mgmtByte (a.y + i))
    else
      match s.parts.find? a.x with
      | some p => put (if s.vfs then (List.range a.z).map fun i => s.vfByte p (a.y + i) else ones)
      | none => put ones
  else
    match s.aperture a.x with
    | none => put ones
    | some (base, size) => put ((List.range a.z).map fun i =>
        if size ≤ a.y + i then 0xFF
        else if physOk (base + a.y + i) then s.memByte (base + a.y + i)
        else (Config.freeWord ((s.free + 1) * 2 ^ 32 + i)).truncate 8)

/-! ## Attestation (spec/18 R318) -/

/-- The bytes of a measurement, its first byte first. -/
def digestBytes (d : BitVec 384) : List Byte := (List.range 48).map fun i => BitVec.ofNat 8 (d.toNat / 2 ^ (8 * (47 - i)))

/-- GET_MEASUREMENTS (spec/18 R318): the report over the eight registers, the nonce `data`, the accepted feature word and the
digest of each partition's configuration block, with its signature (DESIGN CHOICE, log entry 11). -/
def execGetMeasurements (s : State) : Out :=
  let m := (List.range 8).flatMap fun i => digestBytes (s.measure.get 0 i)
  let parts := s.parts.flatMap fun p => digestBytes (Config.sha384 p.2.block)
  let report := m ++ s.arg.data ++ natBytes 16 s.accept.toNat ++ parts
  .next { s with hostData := report ++ Config.signReport report }

/-! ## Function Level Reset (spec/18 R309, R312) -/

/-- FUNCTION_LEVEL_RESET (spec/18 R312) of virtual function `x`: its contexts halt, launches without a placed gang are
discarded, its trigger slots become IDLE and its windows are revoked; the rest follows when the dumps are written. -/
def execFunctionLevelReset (s : State) : Out :=
  let p := s.arg.x
  match s.parts.find? p with
  | none => .next s
  | some pt =>
    if pt.state ≠ 1 then .next s
    else
      let s := s.modPart p fun x => { x with state := 3, session := none }
      let gone (c : Nat) : Bool := match s.ctxs.find? c with
        | some x => x.placed == 0 || x.st == .ended
        | none => false
      let l := s.ctxsOf p
      let s := s.each (l.filter gone) State.freeCtx
      let s := s.each (l.filter fun c => !gone c) fun s c => s.raiseHalt c true
      let mine (n : Nat) : Bool := decide (pt.cfg.slot0 ≤ n) && decide (n ≤ pt.cfg.slot1)
      let s := { s with
        slots := s.slots.filter fun q => !mine q.1
        windows := s.windows.map fun (w : Nat × List W64 × Bool) => if bits (listGet 0 w.2.1 3).toNat 8 3 = p then (w.1, (w.2.1, true)) else w }
      .next (s.post .flrComplete p)

/-- The windows that a partition exports (spec/18 R316). -/
def State.exports (s : State) (p : Nat) : List Nat :=
  (s.windows.filter fun w => bits (listGet 0 w.2.1 3).toNat 8 3 == p).map Prod.fst

/-- FLR_COMPLETE (spec/18 R312): the contexts' dumps are written and no segment is being performed in the revoked windows: counters, rings and the fault sequence are as at creation,
outstanding page requests are refused, and the partition runs. -/
def execFlrComplete (s : State) : Out :=
  let p := s.arg.x
  match s.parts.find? p with
  | none => .next s
  | some pt =>
    if pt.state ≠ 3 then .next s
    else if !(s.ctxsOf p).isEmpty || !(s.exports p).all s.windowQuiet then .next (s.defer .flrComplete)
    else
      let s := s.each ((s.tfaults.filter fun f => f.part == p && f.answer.isNone).map fun f => f.tag) fun s t =>
        match s.tfault p t with
        | some f => s.answerFault f 1
        | none => s
      .next ((s.zeroPart pt.cfg).modPart p fun x =>
        { x with state := 1, errseq := 1, lost := 0, heldF := [], heldC := [], taken := 0, puts := [] })

/-- PF_FUNCTION_LEVEL_RESET (spec/18 R309): every context halts, and ACCEPT is no longer fixed. -/
def execPfFunctionLevelReset (s : State) : Out :=
  let s := s.each (s.ctxs.map Prod.fst) fun s c => s.raiseHalt c true
  .next (s.setMode 0)

end Sys2Proof.Machine
end

