-- ==== Sys2Proof/Machine/Power.lean ====
section
/-! DEFINITION. Boot, resets, throttling and the thermal stop (spec/18 R317 to R322). -/

namespace Sys2Proof.Machine

/-! ## Boot (spec/18 R317) -/

/-- STATUS after a boot: [1:0], the running command's bits, LASTTRIP, and the ports present (spec/18 R307, R322). -/
def State.bootStatus (s : State) (mode : Nat) : W64 :=
  (s.status &&& 0xC) ||| BitVec.ofNat 64 (mode + s.trip.toNat * 2 ^ 4 + Config.ports * 2 ^ 8)

/-- The device enters recovery (spec/18 R317). -/
def State.recover (s : State) : State := { s with power := .recovery, status := s.bootStatus 3 }

/-- A measurement register extended with an image (DESIGN CHOICE, log entry 11). -/
def extendBy (m : BitVec 384) (image : List Byte) : BitVec 384 :=
  Config.sha384 (digestBytes m ++ digestBytes (Config.sha384 image))

/-- Extend a measurement register. -/
def State.extend (s : State) (n : Nat) (image : List Byte) : State :=
  { s with measure := s.measure.set n (extendBy (s.measure.get 0 n) image) }

/-- The boot with the bundle in flash: signatures and rollback, measurements, and the signed configuration block with its
defaults (spec/18 R317). -/
def State.boot (s : State) : State :=
  if Config.bundleGood s.flash = false ∨ Config.bundleVersion s.flash < s.rollback then s.recover
  else
    let s := (Config.bundleImages s.flash).foldl (fun (s : State) b => s.extend (Config.measureReg b % 8) b) s
    if s.flashCfg.isEmpty then
      { s with
        power := .running, status := s.bootStatus 0, cap := 3200, vfs := true, penuraRate := true, stdRate := true }
    else if Config.configGood s.flashCfg = false then s.recover
    else
      { s.extend 7 s.flashCfg with
        power := .running, status := s.bootStatus 0, cap := Config.configCap s.flashCfg, vfs := Config.configExposes s.flashCfg,
        penuraRate := Config.configRate s.flashCfg, stdRate := Config.configStdRate s.flashCfg }

/-- What a device without its state is: all lost but the module flash, the fuses and the trip flag (spec/18 R322; what a
reset without a loss of power keeps of memory the spec does not say: DESIGN CHOICE, log entry 1). -/
def State.lost (s : State) : State :=
  { State.reset with flash := s.flash, flashCfg := s.flashCfg, rollback := s.rollback, trip := s.trip, free := s.free, schedule := s.schedule }

/-- Restart: held in reset while a junction sensor reads 85 degrees or more (spec/18 R322). -/
def State.restart (s : State) (hot : Bool) : State :=
  let s := s.lost
  if hot then { s with power := .heldReset, hot := true } else s.boot

/-- POWER_GOOD (spec/18 R317, R322): the device boots; `ok` says that a junction sensor reads 85 degrees or more. -/
def execPowerGood (s : State) : Out :=
  match s.power with
  | .boot => .next (if s.arg.ok then { s with power := .heldReset, hot := true } else s.boot)
  | .off => .next (s.restart s.arg.ok)
  | _ => .next s

/-- FUNDAMENTAL_RESET (spec/18 R322). -/
def execFundamentalReset (s : State) : Out := .next (if s.power = .off then s else s.restart s.arg.ok)

/-- JUNCTION_BELOW_85C (spec/18 R322): a device held in reset restarts. -/
def execJunctionBelow85c (s : State) : Out := .next (if s.power = .heldReset then { s with hot := false }.boot else s)

/-- MODULE_POWER_REMOVAL (spec/18 R322). -/
def execModulePowerRemoval (s : State) : Out := .next { s.lost with power := .off, pcie := false }

/-- LOAD_BUNDLE (spec/18 R317): in recovery CMD code 0x0A loads a bundle; one that passes the checks is kept, and the boot
goes on with it. Elsewhere no table lists the code. -/
def execLoadBundle (s : State) : Out :=
  if s.mode ≠ 3 then s.doorbell 10 fun _ => .error 1
  else if cmdCode s.cmd ≠ 10 then .next s
  else if s.run.isSome then .next { s with status := s.status ||| 8 }
  else if bits (listGet 0 s.cmd 0).toNat 8 56 ≠ 0 then .next (s.latchCmd 1 [])
  else
    let b := Config.bundleAt s.mem (cmdArg s.cmd 1)
    if Config.bundleGood b = false ∨ Config.bundleVersion b < s.rollback then .next (s.fresh.latchCmd s.openStatus [])
    else .next ({ s with flash := b, measure := [] }.latchCmd 0 []).boot

/-! ## Throttling (spec/18 R319 to R321) -/

/-- The codes of the causes. -/
def cThermal : Nat := 1
def cCurrent : Nat := 2
def cDroop : Nat := 3
def cBudget : Nat := 4

/-- A die's settings as they may stand (spec/18 R319, R320). -/
def settingsOk (mhz mv limit : Nat) : Bool :=
  mhz % 50 == 0 && decide (1000 ≤ mhz) && decide (mhz ≤ 3000) && mv % 2 == 0 && decide (300 ≤ mv) && decide (mv ≤ 450)
    && decide (1 ≤ limit) && decide (limit ≤ 100)

/-- A die. -/
def State.die (s : State) (d : Nat) : Die := s.dies.get { mhz := 3000, mv := 350, limit := 100, causes := [] } d

/-- The second doubleword of a throttle-reason record (spec/18 R321). -/
def traceWord (cause die changed mhz mv limit : Nat) : W64 :=
  BitVec.ofNat 64 (cause * 2 ^ 60 + die * 2 ^ 59 + changed * 2 ^ 56 + mhz * 2 ^ 32 + mv * 2 ^ 16 + limit * 2 ^ 8)

/-- Write a throttle-reason record, where SET_TRACE has placed the trace; while none is placed, a change is neither recorded nor
counted (spec/18 R321, which says nothing of that; DESIGN CHOICE, log entry 72). -/
def State.traceRecord (s : State) (w : W64) : State :=
  if s.traceS = 0 then s
  else { s.benchWords (s.traceB + s.tracecnt.toNat * 16 % s.traceS) [BitVec.ofNat 64 s.ns, w] with tracecnt := s.tracecnt + 1 }

/-- A die takes new settings: a change is traced, with its cause (spec/18 R321). -/
def State.setDie (s : State) (d cause mhz mv limit : Nat) (causes : List Nat) : State :=
  let x := s.die d
  let changed := (if x.mhz = mhz then 0 else 1) + (if x.mv = mv then 0 else 2) + (if x.limit = limit then 0 else 4)
  let s := { s with dies := s.dies.set d { mhz := mhz, mv := mv, limit := limit, causes := causes } }
  if changed = 0 then s else s.traceRecord (traceWord cause d changed mhz mv limit)

/-- The Power core limits die `x` for a cause: clock `y`, voltage `z` and issue limit `u` (spec/18 R320). -/
def State.throttle (s : State) (cause : Nat) : Out :=
  let a := s.arg
  let d := s.die a.x
  if 2 ≤ a.x ∨ settingsOk a.y a.z a.u = false ∨ d.mhz < a.y ∨ d.limit < a.u then .next s
  else .next (s.setDie a.x cause a.y a.z a.u (if d.causes.contains cause then d.causes else d.causes ++ [cause]))

def execThermal (s : State) : Out := s.throttle cThermal
def execCurrent (s : State) : Out := s.throttle cCurrent
def execDroop (s : State) : Out := s.throttle cDroop
def execBudget (s : State) : Out := s.throttle cBudget

/-- THROTTLE_RESTORE (spec/18 R320): cause `y` of die `x` has cleared for 1 ms: a step back toward full settings; the last
one ends the cause. -/
def execThrottleRestore (s : State) : Out :=
  let a := s.arg
  let d := s.die a.x
  if 2 ≤ a.x ∨ d.causes.contains a.y = false ∨ settingsOk a.z a.u a.v = false ∨ a.z < d.mhz ∨ a.v < d.limit then .next s
  else .next (s.setDie a.x a.y a.z a.u a.v (if a.z = 3000 ∧ a.v = 100 then d.causes.filter (· != a.y) else d.causes))

/-- THERMAL_STOP (spec/18 R320, R322): at 110 degrees on die `x` one THERMAL record is written and the trip flag stored, and
every clock stops: nothing of the state is left. -/
def execThermalStop (s : State) : Out :=
  let d := s.die s.arg.x
  let s := s.traceRecord (traceWord cThermal (s.arg.x % 2) 0 d.mhz d.mv d.limit)
  .next { ({ s with trip := true } : State).lost with power := .stopped, pcie := false, hot := true }

end Sys2Proof.Machine
end

