-- ==== Sys2Proof/Machine/Debug.lean ====
section
/-! DEFINITION. The Debug core: sessions, stops, steps, watchpoints, checkpoints, replay, sampling and counters (spec/23, spec/24). -/

namespace Sys2Proof.Machine

/-! ## Sessions (spec/24 R376) -/

/-- The partitions that have a session. -/
def State.sessions (s : State) : List (Nat × Session) :=
  s.parts.filterMap fun p => p.2.session.map fun x => (p.1, x)

/-- The session that a command or a report acts on; with sessions in several partitions the spec does not say which (DESIGN CHOICE, log
entry 20). -/
def State.theSession (s : State) : Option (Nat × Session) :=
  s.sessions[(Config.freeWord s.free).toNat % s.sessions.length]?

/-- A debug command on the attached session and its context (spec/24 R376). -/
def State.debug (s : State) (code : Nat) (k : State → Nat → Nat → Ctx → List W64 → Except Nat (State × List W64)) : Out :=
  s.doorbell code fun cmd =>
    match s.theSession with
    | none => .error 2
    | some (p, x) =>
      match s.ctxs.find? x.ctx with
      | none => .error 2
      | some c => k s.fresh p x.ctx c cmd

/-- ATTACH (spec/24 R376). -/
def execAttach (s : State) : Out :=
  s.doorbell 0x10 fun cmd =>
    let p := cmdArg cmd 1
    let c := p * 256 + cmdArg cmd 2
    if 8 ≤ p ∨ 256 ≤ cmdArg cmd 2 then .error 1
    else
      match s.parts.find? p with
      | none => .error s.openStatus
      | some pt =>
        if pt.session.isSome then .error 2
        else if (s.ctxs.find? c).isNone then .error s.openStatus
        else ok (s.modPart p fun x => { x with session := some { ctx := c, step := none, replay := none, dump := [] } })

/-- DETACH (spec/24 R376): the session ends as the command does. -/
def execDetach (s : State) : Out :=
  s.debug 0x11 fun s p _ _ _ => ok (s.modPart p fun x => { x with session := x.session.map fun y => { y with leave := true } })

/-- STOP (spec/24 R376). -/
def execStop (s : State) : Out :=
  s.debug 0x12 fun s _ c x _ =>
    if x.halt || x.st == .ended then .error 2
    else ok (s.debugStop c { FRec.blank with detail := BitVec.ofNat 64 (3 * 2 ^ 60) })

/-- RESUME (spec/23 R361, spec/24 R370). -/
def execResume (s : State) : Out :=
  s.debug 0x14 fun s _ c x _ =>
    if x.st != .stopped || x.replayed then .error 2 else ok (s.resumeCtx c)

/-! ## Stepping (spec/23 R360, R361, spec/24 R380, R381) -/

/-- STEP: the team's streams and the work it has issued run; what a watchpoint holds of it is performed. -/
def execStep (s : State) : Out :=
  s.debug 0x13 fun s p c x cmd =>
    let n := cmdArg cmd 1
    let g := gangKey c n
    let t := teamKey g (cmdArg cmd 2)
    if x.st != .stopped || x.replayed then .error 2
    else if 2 ^ 20 ≤ n ∨ (s.gangs.find? g).isNone ∨ (s.gang g).nteams ≤ cmdArg cmd 2 then .error 1
    else if (s.gang g).st != .resident || (s.team t).exited then .error 2
    else
      let s := s.modPart p fun y => { y with session := y.session.map fun z => { z with step := some { team := t, from_ := (s.team t).rwc, hit := false } } }
      let s := (s.letGo t).modTeam t Team.go
      ok ((s.push (.agent (.scalar t) :: if (s.team t).copy then [] else [.agent (.lane t)])).post .stepEnd t)

/-- The copy queues whose head is a team's. -/
def State.ownQueues (s : State) (t : Nat) : List Nat :=
  (List.range 4).filter fun q => match (s.member (s.memberOf t)).queues.get [] q with
    | o :: _ => (match s.ops.find? o with
      | some x => x.team == t
      | none => false)
    | [] => false

/-- A team's agents that have work: its streams, the queues that run a command of its own, and its operations outside them. -/
def State.ownNodes (s : State) (t : Nat) : List WNode :=
  let tm := s.team t
  (if tm.exited then [] else [.scalar t]) ++ (if tm.queue.isEmpty && tm.running.isNone && tm.ended.isEmpty then [] else [.lane t])
    ++ (s.ownQueues t).map (WNode.copyq (s.memberOf t)) ++ ((s.freeOps (gangOf t)).filter fun o => match s.ops.find? o with
      | some x => x.team == t
      | none => false).map .op

/-- Every request that an operation still has open waits: on an EMPTY line, or on the answer to a translation fault. -/
def Op.parkedAll (x : Op) : Bool :=
  let l := x.reqs.filter fun q => q.st != .done
  !l.isEmpty && l.all fun q => match q.st with
    | .line => true
    | .parked _ => true
    | _ => false

/-- The entry of one of a stepped team's agents, where it waits; a signaller that is open counts as stopped. -/
def State.ownEntry (s : State) (t : Nat) (n : WNode) : Option WEntry :=
  let own := (s.ownNodes t).filter fun m => m != n
  let e : WEntry := { node := n, agent := 0, core := 0, num := 0, kind := 0, obj := 0, sigs := own }
  let parked (o : Nat) : Option WEntry := match s.ops.find? o with
    | some x => if x.parkedAll then some e else none
    | none => none
  match n with
  | .scalar t =>
    (match s.scalarEntry t with
     | some e => some e
     | none =>
       match (s.team t).wait with
       | none => none
       | some w =>
         if w.limit.isSome || w.result.isSome then none
         else match w.obj with
           | .fence => some e
           | .fault => some { e with sigs := [] }
           | .fabric => some { e with sigs := [] }
           | .host => some { e with sigs := [] }
           | .phaseBar p =>
             if w.phase = 0 then some e
             else match s.pbLook t p (BitVec.ofNat 32 (w.phase - 1)) with
               | .status v => if phaseDone v then none else some e
               | _ => some e
           | _ => none)
  | .lane t => s.laneEntry t
  | .copyq k q =>
    (match s.copyEntry k q with
     | some e => some e
     | none => match (s.member k).queues.get [] q with
       | o :: _ => parked o
       | [] => none)
  | .op o =>
    (match s.opEntry o with
     | some e => some e
     | none => parked o)
  | _ => none

/-- The stepped team's scalar stream is blocked and no agent of its own can go on: every signaller lies outside the team, or
is one of its agents that waits likewise. -/
def State.stepBlocked (s : State) (t : Nat) : Bool :=
  let own := s.ownNodes t
  let inner (n : WNode) : Bool := n == .busy || own.contains n
  let l := (own.filterMap (s.ownEntry t)).map fun e => { e with sigs := e.sigs.filter inner }
  (deadlocked l).any fun e => e.node == .scalar t

/-- Where a team's wait-for entry stands in the snapshot of its context, where the dump area has room for it (spec/07 R141,
spec/16 R293). -/
def State.snapWait (s : State) (base t : Nat) : Option Nat :=
  let g := gangOf t
  let k := ((s.dumpGangs (ctxOf g)).takeWhile fun h => h != g).length
  let off := (s.mem64 (base + 256 + 8 * k)).toNat
  if (s.mem64 base).toNat % 2 ^ 32 ≠ 0xE70BD0A1 ∨ off = 0 then none else some (base + off + 256 + 4096 * teamNum t + 0x440)

/-- STEP_END (spec/23 R360, spec/24 R381): the step of team `x` ends by retirement, blocked or by a hit: the team stops again,
and the answer is made. After a hit the snapshot is written again. -/
def execStepEnd (s : State) : Out :=
  let t := s.arg.x
  let c := ctxOf (gangOf t)
  match s.stepRun t, s.ctxs.find? c, s.parts.find? (partOf c) with
  | some y, some x, some pt =>
    let isOver := y.hit || (s.team t).rwc != y.from_ || (s.team t).exited
    let blocked := !isOver && s.stepBlocked t
    if !isOver && !blocked then .next (s.defer .stepEnd)
    else
      let s := s.modPart (partOf c) fun p => { p with session := p.session.map fun z => { z with step := none } }
      let s := { s with run := s.run.map fun r => (r.1, r.2.1, [BitVec.ofNat 64 (4 * 2 ^ 60 + blocked.toNat), (s.team t).rwc]) }
      if x.st != .stopped then .next s
      else
        let s := s.haltTeam t
        if y.hit then .next (s.writeDump c x pt.cfg.dumpB pt.cfg.dumpS (s.dumpGangs c))
        else if blocked then
          match s.snapWait pt.cfg.dumpB t with
          | some a => .next (s.benchWords a (s.teamWait t))
          | none => .next s
        else .next s
  | _, _, _ => .next s

/-! ## Watchpoints (spec/23 R356, spec/24 R374, R375) -/

/-- The member core of a context's gang that holds a physical core. -/
def State.heldBy (s : State) (c core : Nat) : Option Nat :=
  match (s.core core).issuing with
  | none => none
  | some g =>
    if ctxOf g ≠ c then none
    else ((List.range (s.gang g).cores.length).find? fun m => s.coreNum g m == core).map fun m => memberKey g m

/-- SET_SPWATCH (spec/23 R356): a descriptor on a core that the session's context holds. -/
def execSetSpwatch (s : State) : Out :=
  s.debug 0x15 fun s _ c _ cmd =>
    let d := listGet 0 cmd 3
    let n := d.toNat
    if Config.cores ≤ cmdArg cmd 1 ∨ 4 ≤ cmdArg cmd 2 ∨ bits n 40 24 ≠ 0 ∨ bits n 24 8 ≠ 0 ∨ bits n 0 21 % 2 ^ bits n 21 3 ≠ 0 then .error 1
    else
      match s.heldBy c (cmdArg cmd 1) with
      | none => .error s.openStatus
      | some k => ok (s.modMember k fun m => { m with spw := m.spw.put 0 (cmdArg cmd 2) d })

/-- A range of 2^`len` bytes lies within the lines of a slice: one line does, if some HOME gives the slice; two never do
(spec/14 R243, spec/24 R374). -/
def homedAt (slice pa len : Nat) : Bool := decide (len ≤ 7) && [0, 1, 2].any fun h => sliceOf h (pa / 128) == slice

/-- SET_L2WATCH (spec/24 R374). -/
def execSetL2watch (s : State) : Out :=
  s.debug 0x16 fun s _ _ _ cmd =>
    let d0 := (listGet 0 cmd 3).toNat
    let d1 := (listGet 0 cmd 4).toNat
    let len := bits d1 0 6
    if 128 ≤ cmdArg cmd 1 ∨ 8 ≤ cmdArg cmd 2 ∨ bits d0 52 12 ≠ 0 ∨ bits d1 14 50 ≠ 0 ∨ len < 3 ∨ 40 < len ∨ d0 % 2 ^ len ≠ 0
        ∨ homedAt (cmdArg cmd 1) d0 len = false then .error 1
    else ok (s.modSlice (cmdArg cmd 1) fun x => { x with l2w := x.l2w.set (cmdArg cmd 2) (listGet 0 cmd 3, listGet 0 cmd 4) })

/-- L2_WATCH_REPORT (spec/24 R375): the first hit of slice `x` reaches the Debug core, which stops the session's context; one
that has stopped already takes no more records. -/
def execL2WatchReport (s : State) : Out :=
  match List.find? (fun (h : Nat × Nat × W64 × Nat) => h.1 == s.arg.x) s.l2hits with
  | none => .next s
  | some h =>
    let s := { s with l2hits := s.l2hits.erase h }
    match s.theSession with
    | none => .next s
    | some (_, x) =>
      match s.ctxs.find? x.ctx with
      | none => .next s.fresh
      | some c =>
        if c.st == .ended || (c.st == .stopped && x.step.isNone) then .next s.fresh
        else .next (s.fresh.debugStop x.ctx { FRec.blank with addr := BitVec.ofNat 64 h.2.1, detail := h.2.2.1 })

/-! ## Checkpoints and the journal (spec/24 R365 to R368) -/

/-- SET_JOURNAL (spec/24 R368): from each gang's next checkpoint on. -/
def execSetJournal (s : State) : Out :=
  s.debug 0x17 fun s p _ _ cmd =>
    match s.parts.find? p with
    | none => .error 2
    | some pt =>
      let base := cmdArg cmd 1
      let size := cmdArg cmd 2
      if size % 2 ^ 20 ≠ 0 ∨ (size ≠ 0 ∧ pt.cfg.holds base size = false) then .error 1
      else ok (s.modPart p fun x => { x with cfg := { x.cfg with journB := base, journS := size } })

/-- CHECKPOINT (spec/24 R366): the gang takes one at its next issue boundary. -/
def execCheckpoint (s : State) : Out :=
  s.debug 0x18 fun s _ c _ cmd =>
    let g := gangKey c (cmdArg cmd 1)
    if 2 ^ 20 ≤ cmdArg cmd 1 ∨ (s.gangs.find? g).isNone then .error 1
    else if !(s.gang g).record then .error s.openStatus
    else ok (s.push [.event .checkpointDue { Args.none with x := g, ok := true }])

/-- The interval that a gang's last checkpoint began is over: its journal goes with it. -/
def State.closeInterval (s : State) (g : Nat) : List Image :=
  let l := s.ckpts.get [] g
  match l.getLast? with
  | none => []
  | some i => l.dropLast ++ [{ i with journal := s.journals.get [] g, order := s.orders.get [] g,
                                      gang := { i.gang with suspended := (s.gang g).suspended } }]

/-- The count of a request that an earlier interval issued. -/
def oldCount (n : W64) : W64 := n ||| BitVec.ofNat 64 (2 ^ 63)

/-- A gang's part of the journal area: the recording gangs of its partition share it, in ascending order, in equal parts (spec/24 R368,
DESIGN CHOICE, log entry 21). -/
def State.journalPart (s : State) (g : Nat) (cfg : PartCfg) : Nat × Nat :=
  let l := (s.gangs.filter fun p => p.2.record && p.2.st != .retired && partOf (ctxOf p.1) == partOf (ctxOf g)).map Prod.fst
  let size := cfg.journS / max 1 l.length / 256 * 256
  (cfg.journB + size * (l.takeWhile fun h => h != g).length, size)

/-- Copy a gang as a KIND 3 image to its part of the journal area, at a place left open, where it fits (spec/24 R366, DESIGN CHOICE, log
entry 21). -/
def State.writeCheckpoint (s : State) (g : Nat) : State :=
  match s.parts.find? (partOf (ctxOf g)) with
  | none => s
  | some pt =>
    let ws := s.imageWords g 3
    let (base, size) := s.journalPart g pt.cfg
    if size < 8 * ws.length then s
    else s.fresh.benchWords (base + 256 * ((Config.freeWord s.free).toNat % ((size - 8 * ws.length) / 256 + 1))) ws

/-- A gang takes a checkpoint: the interval number rises, every count returns to 0, and a new journal begins. It keeps its most
recent checkpoints, how many is open (spec/24 R366, R368, DESIGN CHOICE, log entry 21). -/
def State.takeCheckpoint (s : State) (g : Nat) : State :=
  let closed := s.closeInterval g
  let team (x : Team) : Team := { x with rwc := 0, watch := x.watch.map fun e => { e with rwc := oldCount e.rwc } }
  let s := s.modGang g fun x => { x with interval := x.interval + 1, ckCount := 0, suspended := false }
  let s := s.each (s.teamsOf g) fun s t => s.modTeam t team
  let s := { s with
    ops := s.ops.map fun (p : Nat × Op) => if p.2.gang = g then (p.1, { p.2 with rwc := oldCount p.2.rwc }) else p
    journals := s.journals.set g [], orders := s.orders.set g [] }
  let gone := (Config.freeWord s.free).toNat % (closed.length + 1)
  ({ s.fresh with ckpts := s.ckpts.set g (closed.drop gone ++ [s.saveGang g 3]) }.stampStops g).writeCheckpoint g

/-- CHECKPOINT_DUE (spec/24 R366, R379): gang `x` takes the checkpoint that its count or, with `ok`, a command made due; a fatal
halt cancels it, and after a debug stop it follows at resume. -/
def execCheckpointDue (s : State) : Out :=
  let g := s.arg.x
  let x := s.gang g
  match s.ctxs.find? (ctxOf g) with
  | none => .next s
  | some c =>
    let away := x.st == .unplaced || x.st == .stopped || x.st == .retired
    if !x.record || away || c.fatal || c.st == .ended || c.replayed || (x.ckCount < 2 ^ 20 && !s.arg.ok) then .next s
    else if c.halt then .next (s.defer .checkpointDue)
    else .next (s.takeCheckpoint g)

/-- JOURNAL_SUSPEND (spec/24 R368): the interval of gang `x` no longer fits; a record marks it, and nothing stops. -/
def execJournalSuspend (s : State) : Out :=
  let g := s.arg.x
  if !s.recording g || (s.gang g).st != .resident then .next s
  else
    let s := s.modGang g fun x => { x with suspended := true }
    let f : FRec := { FRec.blank with kind := 0x20, gang := (s.gang g).idx, detail := BitVec.ofNat 64 (6 * 2 ^ 60) }
    .next (s.faultRecord (partOf (ctxOf g)) (some (ctxOf g)) f).1

/-! ## Replay (spec/24 R369 to R371) -/

/-- What a gang did up to the `n`-th retirement of a team; none if it did not come so far. -/
def untilCount (t : Nat) : Nat → List Ran → Option (List Ran)
  | 0, _ => some []
  | _ + 1, [] => none
  | n + 1, r :: l =>
    let k := if r = .issue (.scalar t) ∨ r = .issue (.lane t) then n else n + 1
    (untilCount t k l).map fun m => r :: m

/-- Restore a gang from a checkpoint on its own cores, to run as the journal says (spec/24 R369). -/
def State.restoreTo (s : State) (g : Nat) (i : Image) (journal : List JEntry) (order : List Ran) : State :=
  let now := s.gang g
  let s := { s with ops := s.ops.filter fun p => p.2.gang != g, agenda := s.agenda.filter fun t => !t.stale g
                    replayJ := s.replayJ.set g journal, replayO := s.replayO.set g order }
  let base := s.nextOp
  let s := s.writeImage i g fun x =>
    { x with part := now.part, ctx := now.ctx, idx := now.idx, st := .resident, cores := now.cores, since := now.since, order := now.order,
             awaits := 0, image := now.image, codeFrom := s.stored }
  let s := s.each (s.teamsOf g) fun s t => s.modTeam t fun y => y.unpackTime (s.cycleOf (s.teamCore t))
  let s := (s.kickGang i g base).startGang g
  if order.isEmpty then s.push [.event .replayStop { Args.none with x := g, y := 2 }] else s.meetFatal g

/-- The bytes of the dump that a stop has written. -/
def State.dumpBytes (s : State) (c : PartCfg) : List Byte := s.memBytes c.dumpB (min (s.mem64 (c.dumpB + 0x60)).toNat c.dumpS)

/-- REPLAY_TO (spec/24 R369, R370): an interval that is not kept, or whose recording was suspended, is refused with status 2,
a count that the team did not reach with status 1. -/
def execReplayTo (s : State) : Out :=
  s.debug 0x19 fun s p c x cmd =>
    let n := cmdArg cmd 1
    let g := gangKey c n
    let t := teamKey g (cmdArg cmd 2)
    let l := s.ckpts.get [] g
    let last := l.getLast?
    if x.st != .stopped then .error 2
    else if 2 ^ 20 ≤ n ∨ (s.gangs.find? g).isNone ∨ (s.gang g).nteams ≤ cmdArg cmd 2 ∨ 2 ^ 32 ≤ cmdArg cmd 3 then .error 1
    else if (s.gang g).st != .resident then .error 2
    else
      match l.find? fun i => i.gang.interval.toNat == cmdArg cmd 3 with
      | none => .error 2
      | some i =>
        let open_ := match last with
          | some j => j.gang.interval == i.gang.interval
          | none => false
        let i := if open_ && !x.replayed then { i with gang := { i.gang with suspended := (s.gang g).suspended } } else i
        if i.gang.suspended then .error 2
        else
          let journal := if open_ then s.journals.get [] g else i.journal
          let order := if open_ then s.orders.get [] g else i.order
          match untilCount t (cmdArg cmd 4) order, s.parts.find? p with
          | some order, some pt =>
            let keep := s.dumpBytes pt.cfg
            let s := s.modPart p fun y => { y with session := y.session.map fun z =>
              { z with replay := some g, dump := if z.dump.isEmpty then keep else z.dump } }
            let l := if open_ && !x.replayed then l.dropLast ++ [i] else l
            let s := { s with ckpts := s.ckpts.set g l }
            ok ((s.modCtx c fun y => { y with replayed := true }).restoreTo g i journal order)
          | _, _ => .error 1

/-- REPLAY_STOP (spec/24 R370 to R372): the replay of gang `x` stops: `y` 0 at the BRK that the team in `list` has
executed at the address `w`, 1 at a fatal fault of KIND `z`, 2 at
its count. Its agents stop, a record is written, and a snapshot. -/
def execReplayStop (s : State) : Out :=
  let a := s.arg
  let g := a.x
  let c := ctxOf g
  if !s.replaying g then .next s
  else
    let s := s.modPart (partOf c) fun p => { p with session := p.session.map fun z => { z with replay := none } }
    let s := s.haltGang g
    let t := a.list.headD 0
    let f : FRec :=
      if a.y = 0 then { FRec.blank with
        kind := 0x20, unit := 3, core := s.teamCore t, team := teamNum t, gang := (s.gang g).idx, pc := a.w, word := BitVec.ofNat 64 a.v,
        detail := BitVec.ofNat 64 (2 * 2 ^ 60) }
      else { FRec.blank with
        kind := 0x20, gang := (s.gang g).idx, inner := if a.y = 1 then a.z else 0, detail := BitVec.ofNat 64 (5 * 2 ^ 60) }
    let r := s.faultRecord (partOf c) (some c) f
    let s := r.1.modCtx c fun x => { x with faults := [r.2] }
    match s.ctxs.find? c, s.parts.find? (partOf c) with
    | some x, some pt => .next (s.writeDump c x pt.cfg.dumpB pt.cfg.dumpS (s.dumpGangs c))
    | _, _ => .next s

/-! ## Sampling and counters (spec/24 R377, R378) -/

/-- SET_SAMPLE (spec/24 R377): every core starts from an offset of its own. -/
def execSetSample (s : State) : Out :=
  s.debug 0x1A fun s _ _ _ cmd =>
    let n := cmdArg cmd 1
    let b := cmdArg cmd 2
    let k := cmdArg cmd 3
    if n = 0 then ok { s with sampleN := 0 }
    else if n < 4 ∨ 24 < n ∨ isPow2 k = false ∨ k < 4096 ∨ physOk b = false ∨ physOk (b + k - 1) = false then .error 1
    else ok { s with sampleN := n, sampleB := b, sampleS := k, sampleC := 0
                     cores := s.cores.map fun (c : Nat × CoreHw) => (c.1, { c.2 with sample := 0 }) }

/-- SET_COUNTER (spec/24 R378): the counter counts the event from here on; what it starts from the spec does not say (DESIGN CHOICE, log
entry 22). -/
def execSetCounter (s : State) : Out :=
  s.debug 0x1B fun s _ _ _ cmd =>
    let core := cmdArg cmd 1
    if Config.cores ≤ core ∨ 8 ≤ cmdArg cmd 2 ∨ 10 ≤ cmdArg cmd 3 then .error 1
    else
      match (s.core core).issuing with
      | none => .error s.openStatus
      | some g =>
        match s.heldBy (ctxOf g) core with
        | none => .error s.openStatus
        | some k => ok (s.fresh.modMember k fun m => { m with ctr := m.ctr.set (cmdArg cmd 2) (cmdArg cmd 3, Config.freeWord s.free) })

end Sys2Proof.Machine
end

