-- ==== Sys2Proof/Machine/ScalarCtl.lean ====
section
/-! DEFINITION. Branches, jumps, traps, the end of a team and special registers (spec/03 R54 to R57, R70 to R74). -/

namespace Sys2Proof.Machine

/-- Check a target: a multiple of 4 in a page with execute permission; a page that is not present is met by the fetch
(spec/03 R55, spec/14 R258). -/
def State.jumpTo (s : State) (target : W64) (k : State → Out) : Out :=
  if target.toNat % 4 ≠ 0 then faultAt s kMisaligned target
  else if 2 ^ 54 ≤ target.toNat then faultAt s kProtection target
  else
    match s.translate (s.teamCore s.cur) s.tg.part target.toNat with
    | .leaf l => if l.x && l.type == 0 then k s else faultAt s kProtection target
    | .absent => k s
    | .bad _ => faultAt s kProtection target

/-- The stream goes on at a target. -/
def State.goto (s : State) (target : W64) : State := (s.modTm fun t => { t with pc := target }).retire

/-- The target of a PC-relative offset in words (spec/01 R25). -/
def State.target {n : Nat} (s : State) (off : BitVec n) : W64 := s.tm.pc + (sext64 off <<< 2)

/-- Branch by an offset when a condition holds, else go on (spec/03 R54). -/
def State.branch {n : Nat} (s : State) (taken : Bool) (off : BitVec n) : Out :=
  if taken then s.jumpTo (s.target off) fun s => .next (s.goto (s.target off)) else .next s.advance

/-- A compare-and-branch instruction (spec/03 R54). -/
def compareBranch (c : Cond) (sa sb : BitVec 6) (off : BitVec 13) (s : State) : Out :=
  s.withRegs [sa, sb] [] fun s => s.branch (c.holds (s.rS sa) (s.rS sb)) off

def execSbeq (sa sb : BitVec 6) (off : BitVec 13) (s : State) : Out := compareBranch .eq sa sb off s
def execSbne (sa sb : BitVec 6) (off : BitVec 13) (s : State) : Out := compareBranch .ne sa sb off s
def execSbltS (sa sb : BitVec 6) (off : BitVec 13) (s : State) : Out := compareBranch .ltS sa sb off s
def execSbgeS (sa sb : BitVec 6) (off : BitVec 13) (s : State) : Out := compareBranch .geS sa sb off s
def execSbltN (sa sb : BitVec 6) (off : BitVec 13) (s : State) : Out := compareBranch .ltN sa sb off s
def execSbgeN (sa sb : BitVec 6) (off : BitVec 13) (s : State) : Out := compareBranch .geN sa sb off s

/-- Jump and link: the target is read before PC + 4 is written (spec/03 R55). -/
def jumpLink (sd : BitVec 6) (target : W64) (s : State) : Out :=
  s.jumpTo target fun s => .next ((s.wS sd (s.tm.pc + 4)).goto target)

def execSjal (sd : BitVec 6) (off : BitVec 19) (s : State) : Out :=
  s.withRegs [] [sd] fun s => jumpLink sd (s.target off) s
def execSjr (sd sa : BitVec 6) (s : State) : Out := s.withRegs [sa] [sd] fun s => jumpLink sd (s.rS sa) s

/-- A mask register as the scalar stream reads it (spec/01 R12, spec/03 R56). -/
def State.readMask (s : State) (m : BitVec 4) : Mask := s.tm.seenM s.free m.toNat

/-- Branch on a mask register; a read before the block's token is observed takes a fresh choice (spec/03 R56). -/
def maskBranch (f : Team → Mask → Bool) (m : BitVec 4) (off : BitVec 13) (s : State) : Out :=
  if s.awaitsBlock true [m.toNat] then stall s.fresh
  else s.fresh.branch (f s.tm (s.readMask m)) off

def execSbany (m : BitVec 4) (off : BitVec 13) (s : State) : Out := maskBranch (fun _ => maskAny) m off s
def execSball (m : BitVec 4) (off : BitVec 13) (s : State) : Out := maskBranch maskAll m off s

/-- SLOOP (spec/03 R57). A fault at its target leaves the counter as it was (spec/02 R45). -/
def execSloop (sa : BitVec 6) (off : BitVec 13) (s : State) : Out :=
  s.withRegs [sa] [sa] fun s =>
    let n := s.rS sa - 1
    if n = 0 then .next (s.wS sa n).advance
    else s.jumpTo (s.target off) fun s => .next ((s.wS sa n).goto (s.target off))

/-- STRAP (spec/03 R70): without a handler it is illegal, in handler mode it is a fault inside a handler. -/
def execStrap (code : BitVec 13) (s : State) : Out :=
  let t := s.tm
  if t.hm then .next (s.scalarFault 0 .state 0)
  else if s.tg.handler = 0 then illegal s .value
  else .next (s.retire.enterHandler s.cur 1 code.toNat (t.pc + 4) s.word 0)

/-- TRET (spec/03 R71). -/
def execTret (s : State) : Out :=
  if !s.tm.hm then illegal s .value
  else s.jumpTo s.tm.epc fun s => .next s.leaveHandler.retire

/-- The team's PENDING tokens. -/
def Team.pendingSet (t : Team) : W32 :=
  (List.range 32).foldl (fun (w : W32) n => if (t.getT n).st = .pending then w ||| (1 <<< n : W32) else w) 0

/-- EXIT (spec/03 R72): release, drain, leave every group, free the register units, leave handler mode (spec/06
R132); the gang retires with its last agent. -/
def execExit (s : State) : Out :=
  s.release fun s =>
    let s := s.modTm fun t => { t with watch := [] }
    let t := s.tm
    if t.pendingSet ≠ 0 then s.block (.tokens t.pendingSet) none 0
    else
      let g := gangOf s.cur
      let ev : BEv := { mem := teamNum s.cur, kind := .leaveAll, after := [] }
      let s := s.modGang g fun x => { x with bevents := x.bevents ++ [ev] }
      let s := s.post .barrierUnitEvent g
      let s := s.advance.modTm fun t => { t with exited := true, hstat := if t.hm then 0 else t.hstat }
      let s := if (s.member (s.memberOf s.cur)).vq.isEmpty then s else s.post .vgrowGrant (s.memberOf s.cur)
      .next (s.gangCheck g)

/-- The debug session of a gang's partition is attached to its context (spec/24 R376). -/
def State.debugged (s : State) (g : Nat) : Bool :=
  match s.parts.find? (partOf (ctxOf g)) with
  | some p => (match p.session with
    | some x => x.ctx == ctxOf g
    | none => false)
  | none => false

/-- BRK retires, and stops the context when a session is attached; in a replay it stops the replay (spec/24 R372), with `y` 0
and its address. -/
def execBrk (s : State) : Out :=
  let g := gangOf s.cur
  let f : FRec := { FRec.blank with
    unit := 3, core := s.teamCore s.cur, team := teamNum s.cur, gang := s.tg.idx, pc := s.tm.pc, word := s.word,
    detail := BitVec.ofNat 64 (2 * 2 ^ 60) }
  let s' := s.advance
  if !s.debugged g then .next s'
  else if s.replaying g then .next (s'.push [.event .replayStop { Args.none with x := g, w := s.tm.pc, list := [s.cur], v := s.word.toNat }])
  else .next (s'.debugStop (ctxOf g) f)

def execNop (s : State) : Out := .next s.advance

/-- DLREM: the microseconds of the deadline counter not yet elapsed (spec/01 R24, spec/07 R150). -/
def State.dlrem (s : State) : W64 :=
  match s.ctxs.find? (ctxOf (gangOf s.cur)) with
  | some c => if c.deadline = 0 then 0 else BitVec.ofNat 64 ((c.since + c.deadline * 1000 - s.ns + 999) / 1000)
  | none => 0

/-- The special registers (spec/01 R24). -/
def State.special (s : State) (num : Nat) : W64 :=
  let t := s.tm
  let g := s.tg
  let core := s.teamCore s.cur
  let wcode := if t.copy then 0 else t.wcode.toNat
  match num with
  | 0x000 => BitVec.ofNat 64 (teamNum s.cur + t.copy.toNat * 2 ^ 8 + wcode * 2 ^ 9)
  | 0x001 => BitVec.ofNat 64 g.idx
  | 0x002 => BitVec.ofNat 64 (core + t.quarter * 2 ^ 9 + core / 4 * 2 ^ 11 + dieOf core * 2 ^ 18)
  | 0x003 => BitVec.ofNat 64 (g.part + ctxOf (gangOf s.cur) % 256 * 2 ^ 8)
  | 0x008 => t.hstat
  | 0x009 => t.epc
  | 0x00A => t.tword
  | 0x00B => t.twordh
  | 0x00C => g.haddr
  | 0x010 => t.rwc
  | 0x011 => s.cycleReg core
  | 0x012 => BitVec.ofNat 64 g.ttryi
  | 0x013 => BitVec.ofNat 64 (if t.copy then 0 else t.budget)
  | 0x014 => t.lcb
  | 0x015 => BitVec.ofNat 64 (t.unresolved 0 + t.unresolved 1 * 2 ^ 8 + t.unresolved 2 * 2 ^ 16 + t.unresolved 3 * 2 ^ 24)
  | 0x016 => s.dlrem
  | _ => 0

/-- SRD (spec/03 R74); CYCLE and DLREM are journalled (spec/24 R367). -/
def execSrd (sd : BitVec 6) (num : BitVec 12) (s : State) : Out :=
  if !srdNumbers.contains num.toNat then illegal s .value
  else
    s.withRegs [] [sd] fun s =>
      let v := s.special num.toNat
      let r := if num = 0x011 ∨ num = 0x016 then s.journal1 v else (v, s)
      .next (r.2.wS sd r.1).advance

/-- SWR: EPC is the one writable register (spec/01 R24, spec/03 R74). -/
def execSwr (sd : BitVec 6) (num : BitVec 12) (s : State) : Out :=
  if !swrNumbers.contains num.toNat then illegal s .value
  else s.withRegs [sd] [] fun s => .next (s.modTm fun t => { t with epc := s.rS sd }).advance

end Sys2Proof.Machine
end

