-- ==== Sys2Proof/Machine/Fence.lean ====
section
/-! DEFINITION. Fences, CHK and WCLR (spec/12 R224 to R228, spec/22 R350). -/

namespace Sys2Proof.Machine

/-- What a fence of a kind covers among the team's accesses in flight: `.acq` the loads, the others all (spec/12 R224).
-/
def State.fenceCover (s : State) (kind : BitVec 2) : List Nat :=
  let c := s.covered s.cur
  if kind = 0 then c.filter fun o => match s.ops.find? o with
    | some x => (match x.kind with
      | .sstg _ => false
      | .vst => false
      | .vrmo => false
      | _ => true)
    | none => false
  else c

/-- FENCE (spec/12 R224): it holds later accesses until the covered ones are over, and does not block the stream;
`.cst` then discards the constant-path copies (spec/12 R225). -/
def placeFence (kind : BitVec 2) (s : State) : Out :=
  let c := s.fenceCover kind
  let s := if c.isEmpty then (if kind = 3 then s.modCore (s.teamCore s.cur) fun x => { x with cc := [] } else s)
    else s.modTm fun t => { t with fences := t.fences ++ [{ cover := c, cst := kind == 3 }] }
  .next s.advance

/-- The scope says with whom the fence synchronises, not what it waits for (spec/12 R224); with a scope too small it synchronises all the
same (spec/15 R274; DESIGN CHOICE, log entry 75). -/
def execFence (kind _scope : BitVec 2) (s : State) : Out :=
  if kind = 0 then placeFence kind s else s.release fun s => placeFence kind s

/-- The lanes of the struck entries of a watch set (spec/12 R227). -/
def Team.struckLanes (t : Team) (w : BitVec 2) : Mask :=
  (t.watch.filter fun e => e.set == w && e.st == .struck).foldl (fun (m : Mask) e => m ||| e.mask) 0

/-- Discard the entries of a watch set. -/
def Team.discard (t : Team) (w : BitVec 2) : Team := { t with watch := t.watch.filter fun e => e.set != w }

/-- A mask as doublewords, for the journal. -/
def maskWords (m : Mask) : List W64 := (List.range 16).map fun i => (m >>> (64 * i)).truncate 64
/-- The mask of doublewords. -/
def wordsMask (l : List W64) : Mask := l.foldr (fun (w : W64) (m : Mask) => (m <<< 64) ||| w.zeroExtend 1024) 0

/-- CHK writes its mask register; a block's earlier write of it that the team has not observed is written over (spec/12 R227). -/
def Team.chkMask (t : Team) (k : Nat) (m : Mask) : Team :=
  { t with dirty := t.dirty.filter fun e => !(e.isMask && e.reg == k) }.setM k m

/-- CHK settles a watch set: struck lanes go to the mask register and the stream branches (spec/12 R227). -/
def execChk (w : BitVec 2) (mask : BitVec 4) (off : BitVec 13) (s : State) : Out :=
  if !s.tm.lanesIdle then s.block .queue none 0
  else
    let a := Agent.scalar s.cur
    match s.recall a s.tm.rwc with
    | some (v, s) =>
      let m := wordsMask v
      let s := s.modTm fun t => t.discard w
      if m = 0 then .next s.advance
      else s.jumpTo (s.target off) fun s => .next ((s.modTm fun t => t.chkMask mask.toNat m).goto (s.target off))
    | none =>
      if s.tm.watch.any (fun e => e.set == w && e.st == .unresolved) then s.block .watch none 0
      else
        let m := s.tm.struckLanes w
        let done (s : State) : State := (s.note a s.tm.rwc (maskWords m)).modTm fun t => t.discard w
        if m = 0 then .next (done s).advance
        else s.jumpTo (s.target off) fun s => .next (((done s).modTm fun t => t.chkMask mask.toNat m).goto (s.target off))

/-- WCLR (spec/12 R228). -/
def execWclr (w : BitVec 2) (s : State) : Out :=
  if !s.tm.lanesIdle then s.block .queue none 0 else .next (s.modTm fun t => t.discard w).advance

end Sys2Proof.Machine
end

