-- ==== Sys2Proof/Machine/LaneCvt.lean ====
section
/-! DEFINITION. The conversions of the lane stream (spec/04 R93, R94, spec/10 R191). -/

namespace Sys2Proof.Machine

/-- The float format with an element code: f32, f16, b16, e4m3, e5m2 (spec/02 R43). -/
def floatOf (code : Nat) : FFmt :=
  match code with
  | 0 => f32
  | 1 => f16
  | 2 => b16
  | 3 => e4m3
  | _ => e5m2

/-- Bits of an element format (spec/02 R43). -/
def formatBits (code : Nat) : Nat :=
  match code with
  | 0 => 32
  | 1 => 16
  | 2 => 16
  | 5 => 32
  | 6 => 32
  | 7 => 16
  | 8 => 16
  | _ => 8

/-- The element code names a signed integer format. -/
def formatSigned (code : Nat) : Bool := code == 5 || code == 7 || code == 9

/-- The value of the low bits of a word in an element format. -/
def formatValue (code x : Nat) : Num :=
  let n := x % 2 ^ formatBits code
  if code < 5 then (floatOf code).value n
  else if formatSigned code then Num.ofInt (readSigned (formatBits code) n) else Num.ofInt n

/-- The least and the greatest value of an integer format. -/
def formatRange (code : Nat) : Int × Int :=
  let w := formatBits code
  if formatSigned code then (-(2 ^ (w - 1)), 2 ^ (w - 1) - 1) else (0, 2 ^ w - 1)

/-- Convert between element formats: floats are rounded, integers rounded and clamped, the result sign- or
zero-extended to 32 bits (spec/04 R93, R94). -/
def convertElem (m : RMode) (sat : Bool) (d sc x : Nat) : W32 :=
  let v := formatValue sc x
  if d < 5 then BitVec.ofNat 32 ((floatOf d).convert m sat v)
  else BitVec.ofInt 32 (v.toInt m (formatRange d).1 (formatRange d).2)

/-- The rounding mode of a conversion: MOD [7:5], or FMT.RM (spec/04 R93). -/
def State.cvtMode (s : State) (f : LaneF) : RMode :=
  if f.hi3 = 0 then .ofCode (bits s.tm.fmt.toNat 0 2) else .ofCode (f.hi3 - 1)
/-- FMT.SAT (spec/01 R17). -/
def State.saturates (s : State) : Bool := s.tm.fmt.getLsbD 4

def execVcvt (f : LaneF) (s : State) : Out :=
  s.laneMap 0x080 f false false false fun s _ a _ _ _ => convertElem (s.cvtMode f) s.saturates f.dfmt f.sfmt a.toNat
def execVcvti (f : LaneF) (s : State) : Out :=
  s.laneMap 0x081 f false false false fun s _ a _ _ _ => convertElem (s.cvtMode f) s.saturates f.dfmt f.sfmt a.toNat

/-- VPACK of two converted values into a destination (spec/04 R94). -/
def packInto (w : Nat) (high : Bool) (a b d : W32) : W32 :=
  if w = 16 then (a &&& 0xFFFF) ||| (b <<< 16)
  else
    let sh := if high then 16 else 0
    (d &&& ~~~((0xFFFF : W32) <<< sh)) ||| ((a &&& 0xFF) <<< sh) ||| ((b &&& 0xFF) <<< (sh + 8))

def execVpack (f : LaneF) (s : State) : Out :=
  let w := formatBits f.dfmt
  s.laneMap 0x082 f false false (w == 8) fun s _ a b _ d =>
    let cv (x : W32) : W32 := convertElem (s.cvtMode f) s.saturates f.dfmt f.sfmt x.toNat
    packInto w (f.imm.getLsbD 0) (cv a) (cv b) d

/-- VUNPK: the element that IMM names, widened exactly (spec/04 R94). -/
def execVunpk (f : LaneF) (s : State) : Out :=
  let w := formatBits f.sfmt
  let i := if w = 16 then bits f.imm.toNat 0 1 else bits f.imm.toNat 0 2
  s.laneMap 0x083 f false false false fun _ _ a _ _ _ => convertElem .rne false f.dfmt f.sfmt (a.toNat / 2 ^ (w * i))

/-- A codebook entry of a FIFO on the team's core: while a CBLD switches it, the entry before or after (spec/04 R94,
spec/08 R166). -/
def State.codeEntry (s : State) (n i l : Nat) : BitVec 16 :=
  let x := (s.member (s.memberOf s.cur)).fifos.get .blank n
  match x.cbld with
  | some (_, new, _) => if Config.pick ((s.free + 1) * 2 ^ 32 + l) then listGet 0 new i else listGet 0 x.code i
  | none => listGet 0 x.code i

/-- VCBD: a 4-bit code through a codebook (spec/04 R94); a FIFO that is not declared is a reserved value. -/
def execVcbd (f : LaneF) (s : State) : Out :=
  let n := bits f.imm.toNat 3 3
  let x := (s.member (s.memberOf s.cur)).fifos.get .blank n
  s.fresh.laneMap 0x084 f (!x.declared) false false fun s l a _ _ _ =>
    let e := (s.codeEntry n (bits a.toNat (4 * bits f.imm.toNat 0 3) 4) l).toNat
    if f.dfmt = 2 then BitVec.ofNat 32 e else convertElem .rne false 0 2 e

end Sys2Proof.Machine
end

