-- ==== Sys2Proof/Machine/LaneMask.lean ====
section
/-! DEFINITION. Divergence and the mask instructions (spec/01 R18, spec/04 R95 to R98). -/

namespace Sys2Proof.Machine

/-- Lane operations of the team in flight that were issued in the region that ends: later lane accesses follow them
(spec/15 R263). -/
def State.rejoin (s : State) (mark : Nat) : State :=
  let l := (s.ops.filter fun p => p.2.team == s.cur && p.2.isLane && decide (mark ≤ p.1) && !p.2.finished).map Prod.fst
  s.modTm fun t => { t with recon := (t.recon.filter fun o => (s.ops.find? o).isSome && !l.contains o) ++ l }

/-- A divergence instruction: it is never skipped, and reads its condition in the lanes of M0 (spec/04 R76, R95). The
effect gets the block and the lanes of M0 whose condition holds, and answers where the block goes on. -/
def State.laneDiverge (s : State) (opc : Nat) (f : LaneF) (bad isOver cond : Bool)
    (g : Block → Mask → State → State × Option Nat) : Out :=
  let src : List Nat := if cond then [f.sa.toNat] else []
  let reads (t : Team) (_ : Mask) : List (Nat × List Nat) := src.map fun c => (c, lanesOf (t.getM 0) t.width)
  s.laneFrame f opc bad isOver src reads false fun b view eff s =>
    let r := s.laneCycle src
    let s := r.2
    let hit := ((lanesOf eff s.tm.width).filter fun l => s.operand view b f r.1 f.sa.toNat l != 0).foldl
      (fun (m : Mask) l => m ||| (1 <<< l : Mask)) 0
    let x := g b hit s
    .next (x.1.laneRetire b f 0 x.2)

/-- The stack is full (spec/01 R18). -/
def Team.stackFull (t : Team) : Bool := decide (t.depth ≤ t.stack.length)

/-- The entry that a push makes. -/
def State.pushed (s : State) (kind : StackKind) (b : Block) : StackE :=
  { kind := kind, mask := s.tm.getM 0, fmt := s.tm.fmt, start := b.idx + 1, block := b.disp, cont := 0, mark := s.nextOp }

/-- M0 becomes a mask; the scalar stream need not see it before it has observed the block's token (spec/03 R56). -/
def Team.setM0 (t : Team) (m : Mask) : Team :=
  match t.running with
  | some b => (t.soil b.disp true 0).setM 0 m
  | none => t.setM 0 m

/-- VIF (spec/04 R96). -/
def execVif (f : LaneF) (s : State) : Out :=
  s.laneDiverge 0x0A0 f false s.tm.stackFull true fun b hit s =>
    let e := s.pushed .ifk b
    (s.modTm fun t => { t.setM0 (t.getM 0 &&& hit) with stack := e :: t.stack }, none)

/-- The kind of the top entry; the top is the head of the list. -/
def Team.topKind (t : Team) : Option StackKind := t.stack.head?.map fun e => e.kind

/-- VELSE (spec/04 R96, R97). -/
def execVelse (f : LaneF) (s : State) : Out :=
  s.laneDiverge 0x0A1 f (s.tm.topKind != some .ifk) false false fun _ _ s =>
    (s.modTm fun t =>
      match t.stack with
      | e :: l => { t.setM0 (e.mask &&& ~~~t.getM 0) with stack := { e with kind := .elsek } :: l, fmt := e.fmt }
      | [] => t, none)

/-- Pop the top entry: M0 and FMT return, and the region's accesses precede later ones (spec/04 R96, spec/15 R263). -/
def State.popStack (s : State) : State :=
  match s.tm.stack with
  | e :: l => (s.rejoin e.mark).modTm fun t => { t.setM0 e.mask with stack := l, fmt := e.fmt }
  | [] => s

/-- VENDIF (spec/04 R96, R97). -/
def execVendif (f : LaneF) (s : State) : Out :=
  s.laneDiverge 0x0A2 f (s.tm.topKind != some .ifk && s.tm.topKind != some .elsek) false false fun _ _ s =>
    (s.popStack, none)

/-- VLOOP (spec/04 R96). -/
def execVloop (f : LaneF) (s : State) : Out :=
  s.laneDiverge 0x0A3 f false s.tm.stackFull false fun b _ s =>
    let e := s.pushed .loop b
    (s.modTm fun t => { t with stack := e :: t.stack }, none)

/-- Take lanes out of the entries above the innermost LOOP entry, and with `cont` note them there (spec/04 R96). -/
def leaveLoop (out : Mask) (cont : Bool) : List StackE → List StackE
  | [] => []
  | e :: l =>
    if e.kind = .loop then (if cont then { e with cont := e.cont ||| out } else e) :: l
    else { e with mask := e.mask &&& ~~~out } :: leaveLoop out cont l

/-- VBRK and VCONT (spec/04 R96, R97). -/
def State.dropLanes (s : State) (opc : Nat) (f : LaneF) (cont : Bool) : Out :=
  s.laneDiverge opc f (!s.tm.stack.any fun e => e.kind == .loop) false true fun _ hit s =>
    (s.modTm fun t => { t.setM0 (t.getM 0 &&& ~~~hit) with stack := leaveLoop (t.getM 0 &&& hit) cont t.stack }, none)

def execVbrk (f : LaneF) (s : State) : Out := s.dropLanes 0x0A4 f false
def execVcont (f : LaneF) (s : State) : Out := s.dropLanes 0x0A5 f true

/-- The top entry is a LOOP of the running dispatch (spec/04 R97). -/
def Team.loopHere (t : Team) : Bool :=
  match t.stack, t.running with
  | e :: _, some b => e.kind == .loop && e.block == b.disp
  | _, _ => false

/-- The lanes with which the innermost loop would repeat. -/
def Team.loopLanes (t : Team) : Mask :=
  match t.stack with
  | e :: _ => t.getM 0 ||| e.cont
  | [] => 0

/-- The loop exits, and no instruction follows in the section (spec/01 R12). -/
def Team.runsOut (t : Team) (f : LaneF) : Bool :=
  t.loopLanes == 0 && !f.e && match t.running with
    | some b => decide (t.lanes ≤ b.idx + 1)
    | none => false

/-- VENDLP (spec/04 R96, R97): it repeats at the loop's start, or pops. -/
def execVendlp (f : LaneF) (s : State) : Out :=
  s.laneDiverge 0x0A6 f (!s.tm.loopHere) (s.tm.loopHere && s.tm.runsOut f) false fun _ _ s =>
    let m := s.tm.loopLanes
    match s.tm.stack with
    | e :: l =>
      if m = 0 then (s.popStack, none)
      else (s.modTm fun t => { t.setM0 m with stack := { e with cont := 0 } :: l }, some e.start)
    | [] => (s, none)

/-- The mask instructions: a bit per active lane (spec/04 R98). -/
def maskOp (opc : Nat) (g : Bool → Bool → Bool) (f : LaneF) (s : State) : Out :=
  s.laneMap opc f false false false fun _ _ a b _ _ => if g (a != 0) (b != 0) then 0xFFFFFFFF else 0

def execMand (f : LaneF) (s : State) : Out := maskOp 0x0A7 (fun a b => a && b) f s
def execMor (f : LaneF) (s : State) : Out := maskOp 0x0A8 (fun a b => a || b) f s
def execMxor (f : LaneF) (s : State) : Out := maskOp 0x0A9 (fun a b => a != b) f s
def execMandn (f : LaneF) (s : State) : Out := maskOp 0x0AA (fun a b => a && !b) f s
def execMnot (f : LaneF) (s : State) : Out := maskOp 0x0AB (fun a _ => !a) f s
def execMmov (f : LaneF) (s : State) : Out := maskOp 0x0AC (fun a _ => a) f s
/-- MSET: bit l of the lane's place in its word (spec/04 R98). -/
def execMset (f : LaneF) (s : State) : Out :=
  s.laneMap 0x0AD f false false false fun _ l _ _ _ _ => if f.imm.getLsbD (l % 32) then 0xFFFFFFFF else 0

end Sys2Proof.Machine
end

