-- ==== Sys2Proof/Machine/ScalarMem.lean ====
section
/-! DEFINITION. Scratchpad and constant access of the scalar stream, and the SIMM pair (spec/01 R26, spec/03 R52,
R58 to R60). -/

namespace Sys2Proof.Machine

/-- The address checks of a scratchpad access: alignment, then the partition's range (spec/03 R58). -/
def State.padAddr (s : State) (addr : W64) (n : Nat) (k : Nat → Out) : Out :=
  if addr.toNat % n ≠ 0 then faultAt s kMisaligned addr
  else if s.padSize (gangOf s.cur) ≤ addr.toNat then faultAt s kOutOfPart addr
  else k addr.toNat

/-- The record of a scalar instruction that a debug stop names. -/
def State.scalarRec (s : State) : FRec :=
  { FRec.blank with
    unit := 3, core := s.teamCore s.cur, team := teamNum s.cur, gang := s.tg.idx, pc := s.tm.pc, word := s.word }

/-- Test a scalar scratchpad access against the watchpoints: a match holds it, at the instruction, until a step or a
resume lets it pass that watchpoint (spec/23 R356, R357, R361; DEDUCED, log entry 13). -/
def State.scalarWatch (s : State) (mk addr n kind : Nat) (k : State → Out) : Out :=
  let ph := match s.tm.wait with
    | some w => w.phase
    | none => 0
  if 1 ≤ ph ∧ ph ≤ 4 then .next s
  else
    match (s.member mk).spHit addr n kind .own (if ph = 0 then none else some (ph - 5)) with
    | none => k s
    | some wp => (s.spStop mk s.scalarRec addr 0 kind .own wp).block .fence none (wp + 1)

/-- A later fixed-latency access stalls while a fence holds it (spec/12 R224). -/
def State.pastFence (s : State) (k : State → Out) : Out :=
  if (s.fenced s.cur).isEmpty then k (s.liftFences s.cur) else s.block .fence none 0

/-- A scalar scratchpad access queues behind its quarter's earlier requests (spec/06 R125). -/
def State.inQuarter (s : State) (k : State → Out) : Out :=
  if s.quarterAhead (gangOf s.cur) s.tm.core s.tm.quarter s.tm.core s.nextOp 0 then stall s else k s

/-- SLD: wait on an EMPTY line, read 0 from a POISONED one, else the bytes zero-extended (spec/03 R58). A value that
another requester wrote is journalled (spec/24 R367). -/
def padLoad (n : Nat) (len : W64) (sd sa : BitVec 6) (imm : W64) (s : State) : Out :=
  s.withRegs [sa] [sd] fun s =>
    s.padAddr (s.rS sa + imm) n fun addr =>
      s.pastFence fun s => s.inQuarter fun s =>
        let mk := s.memberOf s.cur
        let m := s.member mk
        let other := m.foreign addr (Cls.own.tag s.tm.quarter)
        match (if other then s.recall (.scalar s.cur) s.tm.rwc else none) with
        | some (v, s) =>
          let s := (s.wS sd (v.headD 0)).advanceBy len
          .next (if v.getD 1 1 = 2 then s.classTrap .poisonRead 0 else s)
        | none =>
          let st := m.lineSt addr
          if st = 0 then s.block (.line addr) none 0
          else
            s.scalarWatch mk addr n 0 fun s =>
              let v := if st = 2 then 0 else BitVec.ofNat 64 (bytesNat (m.bytes addr n))
              let s := if other then s.note (.scalar s.cur) s.tm.rwc [v, st.zeroExtend 64] else s
              let s := (s.wS sd v).advanceBy len
              .next (if st = 2 then s.classTrap .poisonRead 0 else s)

/-- SST: store the low bytes of S[SD]; the line becomes FULL (spec/03 R58). -/
def padStoreReg (n : Nat) (len : W64) (sd sa : BitVec 6) (imm : W64) (s : State) : Out :=
  s.withRegs [sd, sa] [] fun s =>
    s.padAddr (s.rS sa + imm) n fun addr =>
      s.pastFence fun s => s.inQuarter fun s =>
        let mk := s.memberOf s.cur
        s.scalarWatch mk addr n 1 fun s =>
          .next ((s.padStore mk addr (natBytes n (s.rS sd).toNat) true (Cls.own.tag s.tm.quarter)).advanceBy len)

/-- SLDC (spec/03 R59): alignment and CONSTS are checked, a missing page parks the stream, and poison, an unresolvable
fault or an uncorrectable error gives 0 and the poison-read class. -/
def constLoad (len : W64) (sd sa : BitVec 6) (imm : W64) (s : State) : Out :=
  s.withRegs [sa] [sd] fun s =>
    let off := s.rS sa + imm
    let g := gangOf s.cur
    let zero (s : State) : Out := .next (((s.wS sd 0).advanceBy len).classTrap .poisonRead 0)
    if off.toNat % 8 ≠ 0 then faultAt s kMisaligned off
    else if s.tg.consts ≤ off.toNat then faultAt s kProtection off
    else
      s.pastFence fun s =>
        match s.recall (.scalar s.cur) s.tm.rwc with
        | some (v, s) => if v.getD 1 0 = 0 then .next ((s.wS sd (v.headD 0)).advanceBy len) else zero s
        | none =>
          let c := s.teamCore s.cur
          let r := s.constRead c s.tg.part (s.tg.constb + off).toNat
          let s := r.1
          match r.2 with
          | .value v false => .next (((s.note (.scalar s.cur) s.tm.rwc [v, 0]).wS sd v).advanceBy len)
          | .value _ true => zero (s.note (.scalar s.cur) s.tm.rwc [0, 1])
          | .denied => faultAt s kProtection (s.tg.constb + off)
          | .absent va =>
            let p := s.parkStream g va 0 (.scalar s.cur)
            (match p.2 with
             | none => p.1.block .fault none 0
             | some why =>
               zero ((p.1.unresolvable s.tg.part (some (ctxOf g)) s.scalarRec va why 0).1.note (.scalar s.cur) s.tm.rwc [0, 1]))
          | .bad va e => zero ((s.unresolvable s.tg.part (some (ctxOf g)) s.scalarRec va 3 e).1.note (.scalar s.cur) s.tm.rwc [0, 1])
          | .error gr => zero ((s.uncorrectable s.tg.part (some (ctxOf g)) s.scalarRec gr).1.note (.scalar s.cur) s.tm.rwc [0, 1])

def execSldD (sd sa : BitVec 6) (imm : BitVec 13) (s : State) : Out := padLoad 8 4 sd sa (sext64 imm) s
def execSldW (sd sa : BitVec 6) (imm : BitVec 13) (s : State) : Out := padLoad 4 4 sd sa (sext64 imm) s
def execSstD (sd sa : BitVec 6) (imm : BitVec 13) (s : State) : Out := padStoreReg 8 4 sd sa (sext64 imm) s
def execSstW (sd sa : BitVec 6) (imm : BitVec 13) (s : State) : Out := padStoreReg 4 4 sd sa (sext64 imm) s
def execSldc (sd sa : BitVec 6) (imm : BitVec 13) (s : State) : Out := constLoad 4 sd sa (sext64 imm) s

/-- The lines of a range, by their first addresses. -/
def linesOf (addr n : Nat) : List Nat := (List.range (n / 128)).map fun i => addr + 128 * i

/-- SEMPTY (spec/03 R60). -/
def execSempty (sa sb : BitVec 6) (s : State) : Out :=
  s.withRegs [sa, sb] [] fun s =>
    let a := s.rS sa
    let n := s.rS sb
    if a.toNat % 128 ≠ 0 then faultAt s kMisaligned a
    else if n.toNat % 128 ≠ 0 then faultAt s kMisaligned n
    else if n = 0 then .next s.advance
    else if s.padSize (gangOf s.cur) < a.toNat + n.toNat then faultAt s kOutOfPart a
    else
      let mk := s.memberOf s.cur
      s.scalarWatch mk a.toNat n.toNat 1 fun s =>
        .next (s.modMember mk fun m => (linesOf a.toNat n.toNat).foldl (fun (m : Member) l => m.setLine l 0) m).advance

/-- SIMM: the pair issues, retires and traps as one instruction; a word that SIMM may not precede, or a shift whose
widened immediate is beyond 63, is a pairing that is not admitted (spec/01 R26, spec/03 R52). The word of the pair, in a fault record
and in TWORD, has the SIMM word low and the widened word in [63:32] (DEDUCED, log entry 30). -/
def execSimm (imm25 : BitVec 25) (word : BitVec 32) (s : State) : Out :=
  if !simmAdmits word then illegal s .value
  else
    let one := s.word
    let s := { s with word := (one &&& 0xFFFFFFFF) + (word.zeroExtend 64 <<< 32) }
    match decodeScalar word 0 with
    | .error r => illegal s r
    | .ok i =>
      match i with
      | .saddi sd sa imm => scalarImm .add 8 sd sa (simmImm imm25 imm) s
      | .sandi sd sa imm => scalarImm .and 8 sd sa (simmImm imm25 imm) s
      | .sori sd sa imm => scalarImm .or 8 sd sa (simmImm imm25 imm) s
      | .sxori sd sa imm => scalarImm .xor 8 sd sa (simmImm imm25 imm) s
      | .sslti sd sa imm => scalarImm .sltS 8 sd sa (simmImm imm25 imm) s
      | .sshli sd sa sh => if imm25 = 0 then scalarImm .shl 8 sd sa (sh.zeroExtend 64) s else illegal s .value
      | .sshri sd sa sh => if imm25 = 0 then scalarImm .shr 8 sd sa (sh.zeroExtend 64) s else illegal s .value
      | .ssrai sd sa sh => if imm25 = 0 then scalarImm .sra 8 sd sa (sh.zeroExtend 64) s else illegal s .value
      | .sldD sd sa imm => padLoad 8 8 sd sa (simmImm imm25 imm) s
      | .sldW sd sa imm => padLoad 4 8 sd sa (simmImm imm25 imm) s
      | .sstD sd sa imm => padStoreReg 8 8 sd sa (simmImm imm25 imm) s
      | .sstW sd sa imm => padStoreReg 4 8 sd sa (simmImm imm25 imm) s
      | .sldc sd sa imm => constLoad 8 sd sa (simmImm imm25 imm) s
      | _ => illegal s .value

end Sys2Proof.Machine
end

