-- ==== Sys2Proof/Machine/Dispatch.lean ====
section
/-! DEFINITION. One arm per row of the opcode table, each a direct call of its meaning. -/

namespace Sys2Proof.Machine

/-- The meaning of an instruction or step: what the machine does when it happens. -/
def exec (i : Instr) (s : State) : Host.Outcome State Fault Refusal :=
  match i with
  | .sadd sd sa sb => Sys2Proof.Machine.execSadd sd sa sb s
  | .ssub sd sa sb => Sys2Proof.Machine.execSsub sd sa sb s
  | .sand sd sa sb => Sys2Proof.Machine.execSand sd sa sb s
  | .sor sd sa sb => Sys2Proof.Machine.execSor sd sa sb s
  | .sxor sd sa sb => Sys2Proof.Machine.execSxor sd sa sb s
  | .sshl sd sa sb => Sys2Proof.Machine.execSshl sd sa sb s
  | .sshr sd sa sb => Sys2Proof.Machine.execSshr sd sa sb s
  | .ssra sd sa sb => Sys2Proof.Machine.execSsra sd sa sb s
  | .sminS sd sa sb => Sys2Proof.Machine.execSminS sd sa sb s
  | .smaxS sd sa sb => Sys2Proof.Machine.execSmaxS sd sa sb s
  | .sminN sd sa sb => Sys2Proof.Machine.execSminN sd sa sb s
  | .smaxN sd sa sb => Sys2Proof.Machine.execSmaxN sd sa sb s
  | .ssltS sd sa sb => Sys2Proof.Machine.execSsltS sd sa sb s
  | .ssltN sd sa sb => Sys2Proof.Machine.execSsltN sd sa sb s
  | .sseq sd sa sb => Sys2Proof.Machine.execSseq sd sa sb s
  | .ssne sd sa sb => Sys2Proof.Machine.execSsne sd sa sb s
  | .sclz sd sa => Sys2Proof.Machine.execSclz sd sa s
  | .spop sd sa => Sys2Proof.Machine.execSpop sd sa s
  | .smul sd sa sb => Sys2Proof.Machine.execSmul sd sa sb s
  | .smulhS sd sa sb => Sys2Proof.Machine.execSmulhS sd sa sb s
  | .smulhN sd sa sb => Sys2Proof.Machine.execSmulhN sd sa sb s
  | .sdivS sd sa sb => Sys2Proof.Machine.execSdivS sd sa sb s
  | .sdivN sd sa sb => Sys2Proof.Machine.execSdivN sd sa sb s
  | .sremS sd sa sb => Sys2Proof.Machine.execSremS sd sa sb s
  | .sremN sd sa sb => Sys2Proof.Machine.execSremN sd sa sb s
  | .saddi sd sa imm => Sys2Proof.Machine.execSaddi sd sa imm s
  | .sandi sd sa imm => Sys2Proof.Machine.execSandi sd sa imm s
  | .sori sd sa imm => Sys2Proof.Machine.execSori sd sa imm s
  | .sxori sd sa imm => Sys2Proof.Machine.execSxori sd sa imm s
  | .sslti sd sa imm => Sys2Proof.Machine.execSslti sd sa imm s
  | .sshli sd sa sh => Sys2Proof.Machine.execSshli sd sa sh s
  | .sshri sd sa sh => Sys2Proof.Machine.execSshri sd sa sh s
  | .ssrai sd sa sh => Sys2Proof.Machine.execSsrai sd sa sh s
  | .sbfx sd sa sx lo wd => Sys2Proof.Machine.execSbfx sd sa sx lo wd s
  | .simm imm25 word => Sys2Proof.Machine.execSimm imm25 word s
  | .sbeq sa sb off => Sys2Proof.Machine.execSbeq sa sb off s
  | .sbne sa sb off => Sys2Proof.Machine.execSbne sa sb off s
  | .sbltS sa sb off => Sys2Proof.Machine.execSbltS sa sb off s
  | .sbgeS sa sb off => Sys2Proof.Machine.execSbgeS sa sb off s
  | .sbltN sa sb off => Sys2Proof.Machine.execSbltN sa sb off s
  | .sbgeN sa sb off => Sys2Proof.Machine.execSbgeN sa sb off s
  | .sjal sd off => Sys2Proof.Machine.execSjal sd off s
  | .sjr sd sa => Sys2Proof.Machine.execSjr sd sa s
  | .sbany m off => Sys2Proof.Machine.execSbany m off s
  | .sball m off => Sys2Proof.Machine.execSball m off s
  | .sloop sa off => Sys2Proof.Machine.execSloop sa off s
  | .sldD sd sa imm => Sys2Proof.Machine.execSldD sd sa imm s
  | .sldW sd sa imm => Sys2Proof.Machine.execSldW sd sa imm s
  | .sstD sd sa imm => Sys2Proof.Machine.execSstD sd sa imm s
  | .sstW sd sa imm => Sys2Proof.Machine.execSstW sd sa imm s
  | .sldc sd sa imm => Sys2Proof.Machine.execSldc sd sa imm s
  | .sempty sa sb => Sys2Proof.Machine.execSempty sa sb s
  | .sldg td sp sa sb word => Sys2Proof.Machine.execSldg td sp sa sb word s
  | .sstg td sp sa sb word => Sys2Proof.Machine.execSstg td sp sa sb word s
  | .lrun td sp lidx => Sys2Proof.Machine.execLrun td sp lidx s
  | .lrunr td sp sa => Sys2Proof.Machine.execLrunr td sp sa s
  | .twait sa => Sys2Proof.Machine.execTwait sa s
  | .ttry sd sa => Sys2Proof.Machine.execTtry sd sa s
  | .twaitt sd sa sb => Sys2Proof.Machine.execTwaitt sd sa sb s
  | .tclr sa => Sys2Proof.Machine.execTclr sa s
  | .tstat sd sa => Sys2Proof.Machine.execTstat sd sa s
  | .tany sd sa => Sys2Proof.Machine.execTany sd sa s
  | .barArr b => Sys2Proof.Machine.execBarArr b s
  | .barWait b => Sys2Proof.Machine.execBarWait b s
  | .barSync b => Sys2Proof.Machine.execBarSync b s
  | .join g => Sys2Proof.Machine.execJoin g s
  | .leave g => Sys2Proof.Machine.execLeave g s
  | .bind b g => Sys2Proof.Machine.execBind b g s
  | .evsig sa => Sys2Proof.Machine.execEvsig sa s
  | .grp sd g => Sys2Proof.Machine.execGrp sd g s
  | .vgrow sd sa => Sys2Proof.Machine.execVgrow sd sa s
  | .vgrowT sd sa => Sys2Proof.Machine.execVgrowT sd sa s
  | .vshrink sa => Sys2Proof.Machine.execVshrink sa s
  | .fmtset sa => Sys2Proof.Machine.execFmtset sa s
  | .fmtget sd => Sys2Proof.Machine.execFmtget sd s
  | .fmtseti v => Sys2Proof.Machine.execFmtseti v s
  | .cpy td sp sa q => Sys2Proof.Machine.execCpy td sp sa q s
  | .cbld td sp sa f => Sys2Proof.Machine.execCbld td sp sa f s
  | .cpbi td sp sa => Sys2Proof.Machine.execCpbi td sp sa s
  | .xred td sp sa => Sys2Proof.Machine.execXred td sp sa s
  | .xgat td sp sa => Sys2Proof.Machine.execXgat td sp sa s
  | .xa2a td sp sa => Sys2Proof.Machine.execXa2a td sp sa s
  | .pinit td sp sa sb => Sys2Proof.Machine.execPinit td sp sa sb s
  | .pexp td sp sa sb => Sys2Proof.Machine.execPexp td sp sa sb s
  | .parr td sp sa => Sys2Proof.Machine.execParr td sp sa s
  | .texp td sp sa => Sys2Proof.Machine.execTexp td sp sa s
  | .pwait sd sa sb => Sys2Proof.Machine.execPwait sd sa sb s
  | .ptry sd sa sb => Sys2Proof.Machine.execPtry sd sa sb s
  | .fence kind scope => Sys2Proof.Machine.execFence kind scope s
  | .chk w mask off => Sys2Proof.Machine.execChk w mask off s
  | .wclr w => Sys2Proof.Machine.execWclr w s
  | .trig td sp sa sb => Sys2Proof.Machine.execTrig td sp sa sb s
  | .seal td sp sa sb => Sys2Proof.Machine.execSeal td sp sa sb s
  | .unseal td sp sa => Sys2Proof.Machine.execUnseal td sp sa s
  | .vref td sp sa => Sys2Proof.Machine.execVref td sp sa s
  | .strap code => Sys2Proof.Machine.execStrap code s
  | .tret => Sys2Proof.Machine.execTret s
  | .exit => Sys2Proof.Machine.execExit s
  | .brk => Sys2Proof.Machine.execBrk s
  | .nop => Sys2Proof.Machine.execNop s
  | .srd sd num => Sys2Proof.Machine.execSrd sd num s
  | .swr sd num => Sys2Proof.Machine.execSwr sd num s
  | .vadd f => Sys2Proof.Machine.execVadd f s
  | .vsub f => Sys2Proof.Machine.execVsub f s
  | .vmul f => Sys2Proof.Machine.execVmul f s
  | .vmulh f => Sys2Proof.Machine.execVmulh f s
  | .vmad f => Sys2Proof.Machine.execVmad f s
  | .vmin f => Sys2Proof.Machine.execVmin f s
  | .vmax f => Sys2Proof.Machine.execVmax f s
  | .vabs f => Sys2Proof.Machine.execVabs f s
  | .vneg f => Sys2Proof.Machine.execVneg f s
  | .vand f => Sys2Proof.Machine.execVand f s
  | .vor f => Sys2Proof.Machine.execVor f s
  | .vxor f => Sys2Proof.Machine.execVxor f s
  | .vnot f => Sys2Proof.Machine.execVnot f s
  | .vshl f => Sys2Proof.Machine.execVshl f s
  | .vshr f => Sys2Proof.Machine.execVshr f s
  | .vsra f => Sys2Proof.Machine.execVsra f s
  | .vrot f => Sys2Proof.Machine.execVrot f s
  | .vclz f => Sys2Proof.Machine.execVclz f s
  | .vpop f => Sys2Proof.Machine.execVpop f s
  | .vbfx f => Sys2Proof.Machine.execVbfx f s
  | .vbfi f => Sys2Proof.Machine.execVbfi f s
  | .vsel f => Sys2Proof.Machine.execVsel f s
  | .vmov f => Sys2Proof.Machine.execVmov f s
  | .vcmp f => Sys2Proof.Machine.execVcmp f s
  | .vfadd f => Sys2Proof.Machine.execVfadd f s
  | .vfsub f => Sys2Proof.Machine.execVfsub f s
  | .vfmul f => Sys2Proof.Machine.execVfmul f s
  | .vfma f => Sys2Proof.Machine.execVfma f s
  | .vfms f => Sys2Proof.Machine.execVfms f s
  | .vfnma f => Sys2Proof.Machine.execVfnma f s
  | .vfmin f => Sys2Proof.Machine.execVfmin f s
  | .vfmax f => Sys2Proof.Machine.execVfmax f s
  | .vfdiv f => Sys2Proof.Machine.execVfdiv f s
  | .vfsqrt f => Sys2Proof.Machine.execVfsqrt f s
  | .vfrcp f => Sys2Proof.Machine.execVfrcp f s
  | .vfrsq f => Sys2Proof.Machine.execVfrsq f s
  | .vfabs f => Sys2Proof.Machine.execVfabs f s
  | .vfneg f => Sys2Proof.Machine.execVfneg f s
  | .vfcmp f => Sys2Proof.Machine.execVfcmp f s
  | .vfcmpd f => Sys2Proof.Machine.execVfcmpd f s
  | .vtrim f => Sys2Proof.Machine.execVtrim f s
  | .vfcls f => Sys2Proof.Machine.execVfcls f s
  | .vfexp2 f => Sys2Proof.Machine.execVfexp2 f s
  | .vflog2 f => Sys2Proof.Machine.execVflog2 f s
  | .vcvt f => Sys2Proof.Machine.execVcvt f s
  | .vcvti f => Sys2Proof.Machine.execVcvti f s
  | .vpack f => Sys2Proof.Machine.execVpack f s
  | .vunpk f => Sys2Proof.Machine.execVunpk f s
  | .vcbd f => Sys2Proof.Machine.execVcbd f s
  | .vif f => Sys2Proof.Machine.execVif f s
  | .velse f => Sys2Proof.Machine.execVelse f s
  | .vendif f => Sys2Proof.Machine.execVendif f s
  | .vloop f => Sys2Proof.Machine.execVloop f s
  | .vbrk f => Sys2Proof.Machine.execVbrk f s
  | .vcont f => Sys2Proof.Machine.execVcont f s
  | .vendlp f => Sys2Proof.Machine.execVendlp f s
  | .mand f => Sys2Proof.Machine.execMand f s
  | .mor f => Sys2Proof.Machine.execMor f s
  | .mxor f => Sys2Proof.Machine.execMxor f s
  | .mandn f => Sys2Proof.Machine.execMandn f s
  | .mnot f => Sys2Proof.Machine.execMnot f s
  | .mmov f => Sys2Proof.Machine.execMmov f s
  | .mset f => Sys2Proof.Machine.execMset f s
  | .vshuf f => Sys2Proof.Machine.execVshuf f s
  | .vbcast f => Sys2Proof.Machine.execVbcast f s
  | .vscan f => Sys2Proof.Machine.execVscan f s
  | .vred f => Sys2Proof.Machine.execVred f s
  | .vballot f => Sys2Proof.Machine.execVballot f s
  | .vld f => Sys2Proof.Machine.execVld f s
  | .vst f => Sys2Proof.Machine.execVst f s
  | .vlds f => Sys2Proof.Machine.execVlds f s
  | .vamo f => Sys2Proof.Machine.execVamo f s
  | .vrmo f => Sys2Proof.Machine.execVrmo f s
  | .vprf f => Sys2Proof.Machine.execVprf f s
  | .mma f => Sys2Proof.Machine.execMma f s
  | .mmaz f => Sys2Proof.Machine.execMmaz f s
  | .mdist f => Sys2Proof.Machine.execMdist f s
  | .mtopk f => Sys2Proof.Machine.execMtopk f s
  | .mzero f => Sys2Proof.Machine.execMzero f s
  | .matrixMmov f => Sys2Proof.Machine.execMatrixMmov f s
  | .mepi f => Sys2Proof.Machine.execMepi f s
  | .mtab f => Sys2Proof.Machine.execMtab f s
  | .mbias f => Sys2Proof.Machine.execMbias f s
  | .mscl f => Sys2Proof.Machine.execMscl f s
  | .fskip f => Sys2Proof.Machine.execFskip f s
  | .mkset f => Sys2Proof.Machine.execMkset f s
  | .matrixMset f => Sys2Proof.Machine.execMatrixMset f s
  | .madd f => Sys2Proof.Machine.execMadd f s
  | .mbnz f => Sys2Proof.Machine.execMbnz f s
  | .mj f => Sys2Proof.Machine.execMj f s
  | .marr f => Sys2Proof.Machine.execMarr f s
  | .mwait f => Sys2Proof.Machine.execMwait f s
  | .mtok f => Sys2Proof.Machine.execMtok f s
  | .mhalt f => Sys2Proof.Machine.execMhalt f s
  | .mnop f => Sys2Proof.Machine.execMnop f s
  | .registerWrite => Sys2Proof.Machine.execRegisterWrite s
  | .featureNegotiation => Sys2Proof.Machine.execFeatureNegotiation s
  | .configurePartition => Sys2Proof.Machine.execConfigurePartition s
  | .destroyPartition => Sys2Proof.Machine.execDestroyPartition s
  | .setGroup => Sys2Proof.Machine.execSetGroup s
  | .exportWindow => Sys2Proof.Machine.execExportWindow s
  | .revokeWindow => Sys2Proof.Machine.execRevokeWindow s
  | .clearTrigger => Sys2Proof.Machine.execClearTrigger s
  | .setPowerCap => Sys2Proof.Machine.execSetPowerCap s
  | .setFabric => Sys2Proof.Machine.execSetFabric s
  | .setTrace => Sys2Proof.Machine.execSetTrace s
  | .loadBundle => Sys2Proof.Machine.execLoadBundle s
  | .managementCommandDone => Sys2Proof.Machine.execManagementCommandDone s
  | .attach => Sys2Proof.Machine.execAttach s
  | .detach => Sys2Proof.Machine.execDetach s
  | .stop => Sys2Proof.Machine.execStop s
  | .step => Sys2Proof.Machine.execStep s
  | .resume => Sys2Proof.Machine.execResume s
  | .setSpwatch => Sys2Proof.Machine.execSetSpwatch s
  | .setL2watch => Sys2Proof.Machine.execSetL2watch s
  | .setJournal => Sys2Proof.Machine.execSetJournal s
  | .checkpoint => Sys2Proof.Machine.execCheckpoint s
  | .replayTo => Sys2Proof.Machine.execReplayTo s
  | .setSample => Sys2Proof.Machine.execSetSample s
  | .setCounter => Sys2Proof.Machine.execSetCounter s
  | .getMeasurements => Sys2Proof.Machine.execGetMeasurements s
  | .hostWrite => Sys2Proof.Machine.execHostWrite s
  | .hostRead => Sys2Proof.Machine.execHostRead s
  | .functionLevelReset => Sys2Proof.Machine.execFunctionLevelReset s
  | .flrComplete => Sys2Proof.Machine.execFlrComplete s
  | .pfFunctionLevelReset => Sys2Proof.Machine.execPfFunctionLevelReset s
  | .powerGood => Sys2Proof.Machine.execPowerGood s
  | .fundamentalReset => Sys2Proof.Machine.execFundamentalReset s
  | .thermal => Sys2Proof.Machine.execThermal s
  | .current => Sys2Proof.Machine.execCurrent s
  | .droop => Sys2Proof.Machine.execDroop s
  | .budget => Sys2Proof.Machine.execBudget s
  | .throttleRestore => Sys2Proof.Machine.execThrottleRestore s
  | .thermalStop => Sys2Proof.Machine.execThermalStop s
  | .linkTrain => Sys2Proof.Machine.execLinkTrain s
  | .laneFailure => Sys2Proof.Machine.execLaneFailure s
  | .linkTimeout => Sys2Proof.Machine.execLinkTimeout s
  | .mcastSeg => Sys2Proof.Machine.execMcastSeg s
  | .memberAck => Sys2Proof.Machine.execMemberAck s
  | .trigSeg => Sys2Proof.Machine.execTrigSeg s
  | .triggerFire => Sys2Proof.Machine.execTriggerFire s
  | .sealQuery => Sys2Proof.Machine.execSealQuery s
  | .sealReply => Sys2Proof.Machine.execSealReply s
  | .staleNack => Sys2Proof.Machine.execStaleNack s
  | .pbarEvent => Sys2Proof.Machine.execPbarEvent s
  | .pbarRelease => Sys2Proof.Machine.execPbarRelease s
  | .segNack => Sys2Proof.Machine.execSegNack s
  | .reservedMessage => Sys2Proof.Machine.execReservedMessage s
  | .peerWriteSegment => Sys2Proof.Machine.execPeerWriteSegment s
  | .peerReadSegment => Sys2Proof.Machine.execPeerReadSegment s
  | .peerWriteAck => Sys2Proof.Machine.execPeerWriteAck s
  | .submissionBatch => Sys2Proof.Machine.execSubmissionBatch s
  | .submissionResume => Sys2Proof.Machine.execSubmissionResume s
  | .heldCompletionRelease => Sys2Proof.Machine.execHeldCompletionRelease s
  | .eventSignal => Sys2Proof.Machine.execEventSignal s
  | .gangPlacement => Sys2Proof.Machine.execGangPlacement s
  | .preEmption => Sys2Proof.Machine.execPreEmption s
  | .spillComplete => Sys2Proof.Machine.execSpillComplete s
  | .replyPatch => Sys2Proof.Machine.execReplyPatch s
  | .deadlineExpiry => Sys2Proof.Machine.execDeadlineExpiry s
  | .waitForWalk => Sys2Proof.Machine.execWaitForWalk s
  | .vgrowGrant => Sys2Proof.Machine.execVgrowGrant s
  | .waitLimitExpiry => Sys2Proof.Machine.execWaitLimitExpiry s
  | .preconditionsMet => Sys2Proof.Machine.execPreconditionsMet s
  | .laneBlockIssue => Sys2Proof.Machine.execLaneBlockIssue s
  | .laneBlockComplete => Sys2Proof.Machine.execLaneBlockComplete s
  | .laneMemoryComplete => Sys2Proof.Machine.execLaneMemoryComplete s
  | .scalarGlobalComplete => Sys2Proof.Machine.execScalarGlobalComplete s
  | .copyStart => Sys2Proof.Machine.execCopyStart s
  | .copySegment => Sys2Proof.Machine.execCopySegment s
  | .copySegmentAck => Sys2Proof.Machine.execCopySegmentAck s
  | .copyAttemptFail => Sys2Proof.Machine.execCopyAttemptFail s
  | .copyComplete => Sys2Proof.Machine.execCopyComplete s
  | .collectiveStep => Sys2Proof.Machine.execCollectiveStep s
  | .collectiveComplete => Sys2Proof.Machine.execCollectiveComplete s
  | .fifoEntryLand => Sys2Proof.Machine.execFifoEntryLand s
  | .matrixComplete => Sys2Proof.Machine.execMatrixComplete s
  | .digitArrival => Sys2Proof.Machine.execDigitArrival s
  | .homeWrite => Sys2Proof.Machine.execHomeWrite s
  | .sharerUpdate => Sys2Proof.Machine.execSharerUpdate s
  | .updateAck => Sys2Proof.Machine.execUpdateAck s
  | .homeAtomic => Sys2Proof.Machine.execHomeAtomic s
  | .routerMerge => Sys2Proof.Machine.execRouterMerge s
  | .nearCacheFill => Sys2Proof.Machine.execNearCacheFill s
  | .directoryEviction => Sys2Proof.Machine.execDirectoryEviction s
  | .lapseNotice => Sys2Proof.Machine.execLapseNotice s
  | .evictionComplete => Sys2Proof.Machine.execEvictionComplete s
  | .epochWrapNotice => Sys2Proof.Machine.execEpochWrapNotice s
  | .settleNotice => Sys2Proof.Machine.execSettleNotice s
  | .constantFill => Sys2Proof.Machine.execConstantFill s
  | .patrolScrub => Sys2Proof.Machine.execPatrolScrub s
  | .pageWalkComplete => Sys2Proof.Machine.execPageWalkComplete s
  | .translationFault => Sys2Proof.Machine.execTranslationFault s
  | .pageResponse => Sys2Proof.Machine.execPageResponse s
  | .translationTimeout => Sys2Proof.Machine.execTranslationTimeout s
  | .watchRequest => Sys2Proof.Machine.execWatchRequest s
  | .watchAnswer => Sys2Proof.Machine.execWatchAnswer s
  | .sealedWatchExpiry => Sys2Proof.Machine.execSealedWatchExpiry s
  | .scratchpadAccess => Sys2Proof.Machine.execScratchpadAccess s
  | .emptyLineWake => Sys2Proof.Machine.execEmptyLineWake s
  | .barrierUnitEvent => Sys2Proof.Machine.execBarrierUnitEvent s
  | .barrierRelease => Sys2Proof.Machine.execBarrierRelease s
  | .phaseBarrierEvent => Sys2Proof.Machine.execPhaseBarrierEvent s
  | .phaseRelease => Sys2Proof.Machine.execPhaseRelease s
  | .haltLineArrival => Sys2Proof.Machine.execHaltLineArrival s
  | .dump => Sys2Proof.Machine.execDump s
  | .faultRecordDrain => Sys2Proof.Machine.execFaultRecordDrain s
  | .l2WatchReport => Sys2Proof.Machine.execL2WatchReport s
  | .stepEnd => Sys2Proof.Machine.execStepEnd s
  | .checkpointDue => Sys2Proof.Machine.execCheckpointDue s
  | .journalSuspend => Sys2Proof.Machine.execJournalSuspend s
  | .replayStop => Sys2Proof.Machine.execReplayStop s
  | .sampleRecord => Sys2Proof.Machine.execSampleRecord s
  | .doorbellWhileBusy => Sys2Proof.Machine.execDoorbellWhileBusy s
  | .unlistedCommandCode => Sys2Proof.Machine.execUnlistedCommandCode s
  | .modulePowerRemoval => Sys2Proof.Machine.execModulePowerRemoval s
  | .junctionBelow85c => Sys2Proof.Machine.execJunctionBelow85c s

end Sys2Proof.Machine
end

