-- ==== Sys2Proof/Machine/Fetch.lean ====
section
/-! DEFINITION. Fetching the next instruction of a stream (spec/01 R10 to R12, R20, spec/03 R55, spec/08 R169). -/

namespace Sys2Proof.Machine

/-- What an agent's turn comes to. -/
inductive Fetch where
  /-- The agent takes no more turns: its gang is not resident, it has ended, or it has stopped. -/
  | idle
  /-- Nothing issues in this turn, or a trap was taken. -/
  | wait (s : State)
  /-- This instruction issues. -/
  | run (i : Instr) (s : State)

/-- What the bytes at an address of the code give. -/
inductive Code1 where
  /-- The bytes, and that a free value chose among what has stood there (spec/01 R11). -/
  | bytes (b : List Byte) (chosen : Bool)
  /-- The page of this address is not present (spec/14 R258). -/
  | absent (va : Nat)
  /-- No execute permission at this address, or no translation (spec/03 R55). -/
  | bad (va : Nat)

/-- What stores after the restore of gang `g`'s image have overwritten in `n` bytes at a physical address of one page (spec/01
R11). -/
def State.codeOld (s : State) (g pa n : Nat) : List (Nat × Nat × List Byte) :=
  (s.overwrites.get [] (pa / 4096)).filter fun e => (s.gang g).codeFrom ≤ e.1 && decide (e.2.1 < pa + n) && decide (pa < e.2.1 + e.2.2.length)

/-- A byte as it stood before store number `t` and those after it: what the earliest of them that reached it has overwritten, or
the byte as it stands. -/
def State.byteBefore (s : State) (old : List (Nat × Nat × List Byte)) (t a : Nat) : Byte :=
  match (old.filter fun e => decide (t ≤ e.1) && decide (e.2.1 ≤ a) && decide (a < e.2.1 + e.2.2.length)).getLast? with
  | some e => listGet 0 e.2.2 (a - e.2.1)
  | none => s.memByte a

/-- The code that a fetch of gang `g` sees: as memory stands, where nothing has been stored since the image was restored; else as
it stood at that moment or at any since, left open (spec/01 R11, DEDUCED, log entry 8). -/
def State.codeBytes (s : State) (g pa n : Nat) : List Byte :=
  let old := s.codeOld g pa n
  if old.isEmpty then s.memBytes pa n
  else
    let from_ := (s.gang g).codeFrom
    let t := from_ + (Config.freeWord s.free).toNat % (s.stored - from_ + 1)
    (List.range n).map fun i => s.byteBefore old t (pa + i)

/-- `n` bytes of one page at a virtual address, for a fetch of gang `g`. -/
def State.codeOn (s : State) (g core p va n : Nat) : Code1 :=
  if 2 ^ 54 ≤ va then .bad va
  else
    match s.translate core p va with
    | .leaf l => if l.x && l.type == 0 then .bytes (s.codeBytes g (l.pa va) n) (!(s.codeOld g (l.pa va) n).isEmpty) else .bad va
    | .absent => .absent va
    | .bad _ => .bad va

/-- `n` bytes of the code: a lane instruction may begin on one page and end on the next (spec/01 R10). -/
def State.codeAt (s : State) (g core p va n : Nat) : Code1 :=
  let k := 4096 - va % 4096
  if n ≤ k then s.codeOn g core p va n
  else
    match s.codeOn g core p va k with
    | .bytes b c =>
      (match s.codeOn g core p (va + k) (n - k) with
       | .bytes b2 c2 => .bytes (b ++ b2) (c || c2)
       | r => r)
    | r => r

/-- A choice that a fetch has made is spent. -/
def State.chose (s : State) (chosen : Bool) : State := if chosen then s.fresh else s

/-- A fetch has translated its bytes: the TLBs are filled (spec/14 R257). -/
def State.fetched (s : State) (core p va n : Nat) (chosen : Bool) : State :=
  ((s.chose chosen).tlbTouch core p va).tlbTouch core p (va + n - 1)

/-- The gang may run: it is resident. -/
def State.runs (s : State) (g : Nat) : Bool := (s.gang g).st == .resident

/-- A fetch from a page that is not present: the agent parks, its fault goes to the Memory core once, and a refusal
makes the fetch a protection fault (spec/03 R55, spec/14 R258, DEDUCED, log entry 12). -/
def State.fetchFault (s : State) (g va : Nat) (a : Agent) (bad : State → State) : State :=
  let r := s.parkStream g va 3 a
  if r.2.isSome then bad r.1 else r.1

/-- A step of the team has reached its end: nothing more issues in it (spec/23 R360). -/
def State.stepOver (s : State) (t : Nat) : Bool :=
  match s.stepRun t with
  | some y => y.hit || (s.team t).rwc != y.from_
  | none => false

/-- What a turn of an agent comes to; in a replay, a turn that would run ahead of the recording does not take place (spec/24
R370). -/
def State.turned (s : State) (a : Agent) (o : Out) : Out :=
  match o with
  | .next s' => .next ((if s'.ahead then s else s').push [.agent a])
  | o => o

/-- The stream is in the wait of an instruction that has issued: one that stands before a full or busy queue has not (spec/03
R75, spec/16 R282). -/
def Team.inWait (t : Team) : Bool :=
  match t.wait with
  | none => false
  | some w => match w.obj with
    | .queue => false
    | .copyQueue _ => false
    | _ => true

/-- The scalar stream of team `t`: a DEADLINE held for it is taken at this issue slot; else the word at its PC, with
the word after it for SIMM (spec/01 R10, R26, spec/16 R282). -/
def fetchScalar (t : Nat) (s : State) : Fetch :=
  let g := gangOf t
  let tm := s.team t
  let s := { s with cur := t, curGang := g }
  if !s.runs g || tm.exited || tm.stopped then .idle
  else if s.stepOver t then .wait s
  else if tm.reached && (decide (6 ≤ tm.skid) || tm.wait.isSome) then .wait s
  else if tm.deadlineDue && !tm.hm && !tm.inWait then
    let s := s.modTm fun x => { x with deadlineDue := false, wait := none }
    .wait (if s.takes t .deadline then (s.enterHandler t TrapClass.deadline.cause 0 tm.pc 0 0).ran g (.deadline t) else s)
  else
    let core := s.teamCore t
    let p := (s.gang g).part
    match s.codeAt g core p tm.pc.toNat 4 with
    | .absent _ => .wait (s.fetchFault g tm.pc.toNat (.scalar t) fun s => s.scalarFault kProtection .state tm.pc)
    | .bad _ => .wait (s.scalarFault kProtection .state tm.pc)
    | .bytes b c =>
      let w : W32 := BitVec.ofNat 32 (bytesNat b)
      let s := { s.fetched core p tm.pc.toNat 4 c with word := w.zeroExtend 64, wordh := 0 }
      if bits w.toNat 25 7 = 0x0C then
        match s.codeAt g core p (tm.pc + 4).toNat 4 with
        | .absent _ => .wait (s.fetchFault g (tm.pc + 4).toNat (.scalar t) fun s => s.scalarFault kProtection .state (tm.pc + 4))
        | .bad _ => .wait (s.scalarFault kProtection .state (tm.pc + 4))
        | .bytes b2 c2 =>
          let s := s.fetched core p (tm.pc + 4).toNat 4 c2
          match decodeScalar w (BitVec.ofNat 32 (bytesNat b2)) with
          | .ok i => .run i s
          | .error r => .wait (s.scalarFault kIllegal r 0)
      else
        match decodeScalar w 0 with
        | .ok i => .run i s
        | .error r => .wait (s.scalarFault kIllegal r 0)

/-- The lane stream of team `t`: the instruction of its running block at the block's index; beyond the section it
traps (spec/01 R12). -/
def fetchLane (t : Nat) (s : State) : Fetch :=
  let g := gangOf t
  let tm := s.team t
  let s := { s with cur := t, curGang := g }
  if !s.runs g || tm.laneStopped then .idle
  else if s.stepOver t then .wait s
  else
    match tm.running with
    | none => if tm.exited then .idle else .wait s
    | some b =>
      let va := tm.lcb.toNat + 12 * b.idx
      if tm.lanes ≤ b.idx then .wait (s.laneFault kIllegal .state 0 0)
      else
        match s.codeAt g (s.teamCore t) (s.gang g).part va 12 with
        | .absent at_ => .wait (s.fetchFault g at_ (.lane t) fun s => s.laneFault kProtection .state (BitVec.ofNat 64 at_) 0)
        | .bad at_ => .wait (s.laneFault kProtection .state (BitVec.ofNat 64 at_) 0)
        | .bytes by_ c =>
          let n := bytesNat by_
          let s := { s.fetched (s.teamCore t) (s.gang g).part va 12 c with word := BitVec.ofNat 64 n, wordh := BitVec.ofNat 32 (n / 2 ^ 64) }
          match decodeLane (BitVec.ofNat 96 n) with
          | .ok i => .run i s
          | .error r => .wait (s.laneFault kIllegal r 0 0)

/-- The sequencer of gang `g`: the doubleword at its PC; beyond the matrix section it is a protection fault (spec/01
R20, spec/08 R169). -/
def fetchMatrix (g : Nat) (s : State) : Fetch :=
  let x := s.gang g
  let s := { s with cur := teamKey g 256, curGang := g }
  if !s.runs g || !x.hasSeq || x.halted || x.sstopped then .idle
  else if x.spc.toNat < x.secLo ∨ x.secHi < x.spc.toNat + 8 then .wait (s.seqFault kProtection .state x.spc)
  else
    match s.codeAt g (s.coreNum g 0) x.part x.spc.toNat 8 with
    | .absent _ => .wait (s.fetchFault g x.spc.toNat (.seq g) fun s => s.seqFault kProtection .state x.spc)
    | .bad _ => .wait (s.seqFault kProtection .state x.spc)
    | .bytes b c =>
      let n := bytesNat b
      let s := { s.fetched (s.coreNum g 0) x.part x.spc.toNat 8 c with word := BitVec.ofNat 64 n, wordh := 0 }
      match decodeMatrix (BitVec.ofNat 64 n) with
      | .ok i => .run i s
      | .error r => .wait (s.seqFault kIllegal r 0)

end Sys2Proof.Machine
end

