-- ==== Sys2Proof/Machine/Run.lean ====
section
/-! DEFINITION. Whose turn comes next, and what a turn does (spec/95, spec/18 R317, R322; DESIGN CHOICE, log entries 4, 5). -/

namespace Sys2Proof.Machine

/-- The management commands that a running device carries out, with their codes (spec/18 R308, spec/24 R376). -/
def managementCode : Instr → Option Nat
  | .configurePartition => some 1
  | .destroyPartition => some 2
  | .setGroup => some 3
  | .exportWindow => some 4
  | .revokeWindow => some 5
  | .clearTrigger => some 6
  | .setPowerCap => some 7
  | .setFabric => some 8
  | .setTrace => some 9
  | .attach => some 0x10
  | .detach => some 0x11
  | .stop => some 0x12
  | .step => some 0x13
  | .resume => some 0x14
  | .setSpwatch => some 0x15
  | .setL2watch => some 0x16
  | .setJournal => some 0x17
  | .checkpoint => some 0x18
  | .replayTo => some 0x19
  | .setSample => some 0x1A
  | .setCounter => some 0x1B
  | _ => none

/-- Whether one of the machine's steps can happen in this power state (spec/18 R317, R322). -/
def powerAllows (p : Power) (i : Instr) : Bool :=
  match p with
  | .running => true
  | .boot => i == .powerGood || i == .modulePowerRemoval || i == .fundamentalReset
  | .recovery =>
    (managementCode i).isSome || i == .loadBundle || i == .registerWrite || i == .managementCommandDone || i == .doorbellWhileBusy
      || i == .unlistedCommandCode || i == .hostRead || i == .fundamentalReset || i == .modulePowerRemoval
  | .heldReset => i == .junctionBelow85c || i == .modulePowerRemoval || i == .fundamentalReset
  | .off => i == .powerGood || i == .fundamentalReset
  | .stopped => i == .modulePowerRemoval || i == .fundamentalReset

/-- An agent's turn: nothing, or the instruction that its stream fetches; then its next turn stands at the end of the agenda
(spec/01 R10, R12, R20). -/
def runAgent (a : Agent) (s : State) : Out :=
  let s := { s with ahead := false }
  let f := match a with
    | .scalar t => fetchScalar t s
    | .lane t => fetchLane t s
    | .seq g => fetchMatrix g s
    | .engines _ => .idle
  match f with
  | .idle => .next s
  | .wait s' => s.turned a (.next s')
  | .run i s' => s.turned a (exec i s')

/-- The turn that comes next, and the state without it: what the schedule says, and with no schedule left the first item of the
agenda; none where nothing is to be done (DESIGN CHOICE, log entry 4). -/
def State.takeTurn (s : State) : Option (Turn × State) :=
  match s.schedule with
  | [] =>
    (match s.agenda with
     | [] => none
     | x :: l => some (x, { s with agenda := l }))
  | .input x :: rest => some (x, { s with schedule := rest })
  | .item n :: rest =>
    let k := n % s.agenda.length
    match s.agenda[k]? with
    | none => none
    | some x => some (x, { s with agenda := s.agenda.eraseIdx k, schedule := rest })

/-- A step with no turn to take: a device at power-good boots (spec/18 R317). -/
def State.idle (s : State) : Out := if s.power = .boot then exec .powerGood s else .next s

/-- A turn: time passes, one of the machine's steps happens where the power state allows it, or an agent moves. -/
def doTurn (t : Turn) (s : State) : Out :=
  match t with
  | .tick c0 c1 ns => .next (s.passTime c0 c1 ns)
  | .event i x => if powerAllows s.power i then exec i { s with arg := x } else .next s
  | .agent a => if s.power = .running then runAgent a s else .next s

end Sys2Proof.Machine
end

