-- ==== Sys2Proof/Machine/Step.lean ====
section
/-! DEFINITION. One step of the machine, and where the next step fetches its instruction. -/

namespace Sys2Proof.Machine

/-- One step (spec/95; DESIGN CHOICE, log entries 4, 5): the turn that comes next. With no turn left a device at power-good boots, and any
other waits. -/
def step (s : State) : Out := s.takeTurn.elim s.idle fun p => doTurn p.1 p.2

/-- The code page that `withFetchWord` lays down: everything from 0 to 512 GiB maps to itself with R, W and X. -/
def fetchTable (s : State) : State :=
  let s := s.setBytes 0x400 (wordBytes [0x2040, 0])
  s.setBytes 0x2000 (wordBytes [0xB8, 0])

/-- A gang of one core with one team and a sequencer, at the code address 0x100000 (DESIGN CHOICE, log entry 3). -/
def fetchGang : Gang :=
  { Gang.blank with st := .resident, cores := [0], nteams := 1, lanesU := 32, scratch := 32, acc := 16, hasSeq := true,
                    secHi := 2 ^ 54, spc := 0x100000 }

/-- A team at the code address; a copy team for the words that only a copy team may issue. -/
def fetchTeam (copy : Bool) : Team :=
  { Team.blank with pc := 0x100000, lcb := if copy then 0 else 0x100000, lanes := 1024, copy := copy, budget := 32,
                    launchBudget := 32, running := none }

/-- The configuration that `withFetchWord` gives partition 0: every quad and the whole of HBM4E. -/
def fetchPart : Part :=
  { cfg := { quadsB := BitVec.ofNat 128 (2 ^ 88 - 1), hbmBase := 0, hbmSize := 0xC000000000, stBase := 0, stSize := 0,
             ptRoot := 0x400, subq := 0x4000, compq := 0x5000, faultq := 0x6000, prq := 0x7000, prs := 0x8000,
             dumpB := 0x9000, dumpS := 0x1000, ev0 := 0, ev1 := 65535, slot0 := 0, slot1 := 4095, grp0 := 0,
             grp1 := 4095, preempt := 100, walk := 100, ftimeout := 10000, journB := 0, journS := 0 },
    block := [], state := 1, errseq := 1, lost := 0, heldF := [], heldC := [], prTag := 1, session := none, taken := 0, puts := [] }

/-- The context of the gang that `withFetchWord` places. -/
def fetchCtx : Ctx :=
  { part := 0, num := 0, st := .eligible, tag := 0, prio := 0, gangs := 1, placed := 1, retired := 0, image := 0,
    header := [], signalOnly := false, batch := false, waits := [], sigs := [], miss := none, deadline := 0, since := 0, missed := false,
    order := 0, coresAll := false, halt := false, fatal := false, haltTime := 0, faults := [], extra := 0,
    replayed := false, held := false, elig := true }

/-- The state with an instruction of `nbits` bits stored where the next step fetches: a booted device on whose core
0 a gang of one team runs, the word at the code address, and the stream that fetches words of that length next to
move (DESIGN CHOICE, log entry 3). -/
def State.withFetchWord (s : State) (nbits w : Nat) : State :=
  let op := w / 2 ^ 25 % 128
  let copy := nbits == 32 && (op == 0x40 || op == 0x41 || op == 0x50)
  let s := (fetchTable s).setBytes 0x100000 (natBytes 16 (w % 2 ^ nbits))
  let tm := fetchTeam copy
  let tm := if nbits = 96 then { tm with running := some { disp := 0, idx := 0, tok := 0, set := 0, waiting := 0, pois := none,
                                                            snap := [], later := [], unsure := [], after := [], budget := 32 } } else tm
  { s with
    power := .running
    accept := Config.offer
    parts := s.parts.set 0 fetchPart
    ctxs := s.ctxs.set 0 fetchCtx
    gangs := s.gangs.set 0 { fetchGang with codeFrom := s.stored }
    teams := s.teams.set 0 tm
    members := s.members.set 0 Member.blank
    cores := s.cores.set 0 { CoreHw.blank with issuing := some 0 }
    schedule := []
    agenda := (if nbits = 96 then Turn.agent (.lane 0) else if nbits = 64 then .agent (.seq 0) else .agent (.scalar 0))
      :: s.agenda }

end Sys2Proof.Machine
end

