-- ==== Sys2Proof/Safety.lean ====
section
/-! DEFINITION. The terms in which statements about the machine are made: when a scalar instruction reads its registers as
they stand, where a stream may go on, and what an instruction leaves as it was. -/

namespace Sys2Proof

/-- A lane word with nothing but its opcode. -/
def LaneF.plain : LaneF := { e := false, stall := 0, ch := false, msk := 0, dst := 0, sa := 0, sb := 0, sc := 0, md := 0, imm := 0 }

/-- A matrix word with nothing but its opcode. -/
def MatF.plain : MatF := { c := 0, fa := 0, fb := 0, k := 0, ifmt := 0, hold := 0, epi := 0, bw := 0, ba := 0, imm := 0 }

end Sys2Proof

namespace Sys2Proof.Machine

/-- No register of the list is the destination of a load, or of a lane block's write, whose token the team has not observed:
the scalar stream reads each as it stands (spec/01 R12, spec/03 R62). -/
def Quiet (s : State) (l : List (BitVec 6)) : Prop :=
  ∀ r ∈ l, s.tm.uncovered r = false ∧ s.tm.early false r.toNat = false

/-- An address at which the current team may go on: a multiple of 4, of 54 bits, on a page of this device with execute
permission (spec/03 R55). -/
def Executable (s : State) (target : W64) : Prop :=
  target.toNat % 4 = 0 ∧ target.toNat < 2 ^ 54 ∧
    ∃ l, s.translate (s.teamCore s.cur) s.tg.part target.toNat = .leaf l ∧ l.x = true ∧ l.type = 0

/-- A branch that goes to `target` where `c` holds and to the next word where it does not (spec/03 R54). -/
def Branches (i : Instr) (s s' : State) (c : Prop) (target : W64) : Prop :=
  (c → Executable s target → exec i s = .next (s'.goto target)) ∧ (¬ c → exec i s = .next s'.advance)

/-- What a scalar instruction that only writes registers of its team, and a retirement, leave as they were: memory and its
poison markers, every other team, what every member core and gang holds (but for debug counters and the count to the next
checkpoint), operations in flight, trigger slots, event counters, contexts, partitions, caches and homes. -/
structure Kept (s t : State) : Prop where
  memory : ∀ a, t.memByte a = s.memByte a
  overwrites : t.overwrites = s.overwrites ∧ t.stored = s.stored
  markers : ∀ g, t.marked g = s.marked g
  teams : ∀ u, u ≠ s.cur → t.team u = s.team u
  members : ∀ m, { t.member m with ctr := [] } = { s.member m with ctr := [] }
  gangs : ∀ g, { t.gang g with ckCount := 0 } = { s.gang g with ckCount := 0 }
  ops : t.ops = s.ops
  slots : t.slots = s.slots
  evt : t.evt = s.evt
  ctxs : t.ctxs = s.ctxs
  parts : t.parts = s.parts
  cores : t.cores = s.cores
  slices : t.slices = s.slices

/-- The pair as the machine keeps it for traps and fault records: the SIMM word below the word it widens. -/
def pairOf (s : State) (word : BitVec 32) : State :=
  { s with word := (s.word &&& 0xFFFFFFFF) + (word.zeroExtend 64 <<< 32) }

/-- The widened immediate of a pair: IMM25 · 2^13 + IMM13 as a 38-bit two's-complement number (spec/01 R26). -/
def pairImm (imm25 : BitVec 25) (imm : BitVec 13) : W64 :=
  (BitVec.ofInt 38 (imm25.toNat * 2 ^ 13 + imm.toInt)).signExtend 64

/-- The instructions that write one scalar register, or none, and do nothing else: the register (0 for none) and the registers
that are read (spec/03 R50 to R53, R70). -/
def registerForm : Instr → Option (BitVec 6 × List (BitVec 6))
  | .sadd rd ra rb => some (rd, [ra, rb])
  | .ssub rd ra rb => some (rd, [ra, rb])
  | .sand rd ra rb => some (rd, [ra, rb])
  | .sor rd ra rb => some (rd, [ra, rb])
  | .sxor rd ra rb => some (rd, [ra, rb])
  | .sshl rd ra rb => some (rd, [ra, rb])
  | .sshr rd ra rb => some (rd, [ra, rb])
  | .ssra rd ra rb => some (rd, [ra, rb])
  | .sminS rd ra rb => some (rd, [ra, rb])
  | .smaxS rd ra rb => some (rd, [ra, rb])
  | .sminN rd ra rb => some (rd, [ra, rb])
  | .smaxN rd ra rb => some (rd, [ra, rb])
  | .ssltS rd ra rb => some (rd, [ra, rb])
  | .ssltN rd ra rb => some (rd, [ra, rb])
  | .sseq rd ra rb => some (rd, [ra, rb])
  | .ssne rd ra rb => some (rd, [ra, rb])
  | .smul rd ra rb => some (rd, [ra, rb])
  | .smulhS rd ra rb => some (rd, [ra, rb])
  | .smulhN rd ra rb => some (rd, [ra, rb])
  | .sdivS rd ra rb => some (rd, [ra, rb])
  | .sdivN rd ra rb => some (rd, [ra, rb])
  | .sremS rd ra rb => some (rd, [ra, rb])
  | .sremN rd ra rb => some (rd, [ra, rb])
  | .sclz rd ra => some (rd, [ra])
  | .spop rd ra => some (rd, [ra])
  | .saddi rd ra _ => some (rd, [ra])
  | .sandi rd ra _ => some (rd, [ra])
  | .sori rd ra _ => some (rd, [ra])
  | .sxori rd ra _ => some (rd, [ra])
  | .sslti rd ra _ => some (rd, [ra])
  | .sshli rd ra _ => some (rd, [ra])
  | .sshri rd ra _ => some (rd, [ra])
  | .ssrai rd ra _ => some (rd, [ra])
  | .sbfx rd ra _ _ _ => some (rd, [ra])
  | .nop => some (0, [])
  | _ => none

/-- The gang of the current team neither records nor is replayed, so that nothing is journalled (spec/24 R366, R369). -/
def Plain (s : State) : Prop := s.recording (gangOf s.cur) = false ∧ s.replaying (gangOf s.cur) = false

/-- Nothing holds a scratchpad access of the current team: no fence, no wait under way, no watchpoint, no earlier request of its
quarter (spec/12 R224, spec/23 R356, spec/06 R125). -/
def PadFree (s : State) (addr n kind : Nat) : Prop :=
  s.tm.fences = [] ∧ s.tm.wait = none ∧ (s.member (s.memberOf s.cur)).spHit addr n kind .own none = none ∧
    s.quarterAhead (gangOf s.cur) s.tm.core s.tm.quarter s.tm.core s.nextOp 0 = false

/-- Byte `i` of a register value. -/
def byteOf (v : W64) (i : Nat) : Byte := (v >>> (8 * i)).truncate 8

/-- A scalar load of `n` bytes from the team's scratchpad by an instruction of `len` bytes that runs in `s'`: a FULL line gives
the bytes, lowest address in the lowest bits, zero-extended; a POISONED one gives 0 and the poison-read class; an EMPTY one
makes the stream wait; a misaligned address and one beyond the partition are faults (spec/03 R58). -/
def LoadsPad (i : Instr) (s s' : State) (n : Nat) (len : W64) (rd : BitVec 6) (addr : W64) : Prop :=
  let m := s.member (s.memberOf s.cur)
  let a := addr.toNat
  (a % n ≠ 0 → exec i s = .next (s'.scalarFault kMisaligned .state addr)) ∧
  (a % n = 0 → s.padSize (gangOf s.cur) ≤ a → exec i s = .next (s'.scalarFault kOutOfPart .state addr)) ∧
  (a % n = 0 → a < s.padSize (gangOf s.cur) → PadFree s a n 0 → Plain s →
    (m.lineSt a ≠ 0 → m.lineSt a ≠ 2 →
      ∃ v : W64, exec i s = .next ((s'.wS rd v).advanceBy len) ∧ v.toNat < 2 ^ (8 * n) ∧
        ∀ k < n, byteOf v k = m.pad.get 0 (a + k)) ∧
    (m.lineSt a = 2 → exec i s = .next (((s'.wS rd 0).advanceBy len).classTrap .poisonRead 0)) ∧
    (m.lineSt a = 0 → exec i s = s'.block (.line a) none 0))

/-- Member core `mk` has taken the bytes at `addr`, whose lines are FULL now, and nothing else of what the machine stores
has changed: no other byte or line of a scratchpad, no byte of memory, no other team, no operation (spec/03 R58). -/
structure PadWritten (s t : State) (mk addr : Nat) (data : List Byte) : Prop where
  written : ∀ k (h : k < data.length), (t.member mk).pad.get 0 (addr + k) = data[k]
  outside : ∀ a, a < addr ∨ addr + data.length ≤ a → (t.member mk).pad.get 0 a = (s.member mk).pad.get 0 a
  full : (t.member mk).lineSt addr = 1
  lines : ∀ a, a / 128 ≠ addr / 128 → (t.member mk).lineSt a = (s.member mk).lineSt a
  members : ∀ m, m ≠ mk → { t.member m with ctr := [] } = { s.member m with ctr := [] }
  memory : ∀ a, t.memByte a = s.memByte a
  markers : ∀ g, t.marked g = s.marked g
  teams : ∀ u, u ≠ s.cur → t.team u = s.team u
  ops : t.ops = s.ops
  parts : t.parts = s.parts
  ctxs : t.ctxs = s.ctxs

/-- The team has retired an instruction of `len` bytes and is otherwise as it was. -/
def OnlyRetired (s t : State) (len : W64) : Prop :=
  t.cur = s.cur ∧ t.tm = { s.tm with pc := s.tm.pc + len, rwc := s.tm.rwc + 1, wait := none }

/-- A scalar store of the low `n` bytes of S[SD] to the team's scratchpad (spec/03 R58). -/
def StoresPad (i : Instr) (s s' : State) (n : Nat) (len : W64) (rd : BitVec 6) (addr : W64) : Prop :=
  let a := addr.toNat
  (a % n ≠ 0 → exec i s = .next (s'.scalarFault kMisaligned .state addr)) ∧
  (a % n = 0 → s.padSize (gangOf s.cur) ≤ a → exec i s = .next (s'.scalarFault kOutOfPart .state addr)) ∧
  (a % n = 0 → a < s.padSize (gangOf s.cur) → PadFree s a n 1 →
    ∃ t, exec i s = .next t ∧ OnlyRetired s t len ∧
      PadWritten s t (s.memberOf s.cur) a ((List.range n).map (byteOf (s.rS rd))))

/-- A constant-path load of `len` bytes of code: misaligned and beyond CONSTS it faults; else it gives the doubleword at
CONSTB plus the offset, and 0 with the poison-read class where that carries poison (spec/03 R59). -/
def LoadsConst (i : Instr) (s s' : State) (len : W64) (rd : BitVec 6) (off : W64) : Prop :=
  let found := s'.constRead (s.teamCore s.cur) s.tg.part (s.tg.constb + off).toNat
  (off.toNat % 8 ≠ 0 → exec i s = .next (s'.scalarFault kMisaligned .state off)) ∧
  (off.toNat % 8 = 0 → s.tg.consts ≤ off.toNat → exec i s = .next (s'.scalarFault kProtection .state off)) ∧
  (off.toNat % 8 = 0 → off.toNat < s.tg.consts → s.tm.fences = [] → Plain s →
    (∀ v, found.2 = .value v false → exec i s = .next ((found.1.wS rd v).advanceBy len)) ∧
    (∀ v, found.2 = .value v true → exec i s = .next (((found.1.wS rd 0).advanceBy len).classTrap .poisonRead 0)) ∧
    (found.2 = .denied → exec i s = .next (found.1.scalarFault kProtection .state (s.tg.constb + off))))

/-- The current team has retired a word and stands at the next one; S[rd] holds `v` (S0 still 0) and every other scalar register
what it held (spec/03 R49). -/
def GoesOn (s t : State) (rd : BitVec 6) (v : W64) : Prop :=
  t.cur = s.cur ∧ t.tm.pc = s.tm.pc + 4 ∧ t.tm.rwc = s.tm.rwc + 1 ∧ t.tm.wait = none ∧ t.tm.hstat = s.tm.hstat ∧
    ∀ q, t.rS q = if q = rd ∧ rd ≠ 0 then v else s.rS q

/-- The current team has retired a word and has entered its handler: EPC is the next word, and HSTAT says the cause and code
(spec/16 R283). -/
def Enters (s t : State) (cause code : Nat) : Prop :=
  t.cur = s.cur ∧ t.tm.pc = s.tg.handler ∧ t.tm.epc = s.tm.pc + 4 ∧ t.tm.rwc = s.tm.rwc + 1 ∧ t.tm.tword = s.word ∧ t.tm.hm = true ∧
    t.tm.hstat = BitVec.ofNat 64 (code * 2 ^ 16 + cause * 2 ^ 8 + 1)

/-- The current team waits at the instruction, with a wait-for entry for the object (spec/03 R75). -/
def Waits (s t : State) (obj : WaitObj) (limit : Option Nat) (phase : Nat) : Prop :=
  t.cur = s.cur ∧
    t.tm = { s.tm with
      wait := some { obj := obj, since := s.cycleOf (s.teamCore s.cur), limit := limit, phase := phase, result := none } }

/-- A release-ordered instruction of the current team need not wait: its lane blocks have issued, no watch entry is unresolved
or struck, and the values it has read are settled (spec/22 R350, spec/15 R273). -/
def Released (s : State) : Prop :=
  s.tm.lanesIdle = true ∧ s.tm.watchAny .unresolved = false ∧ s.tm.watchAny .struck = false ∧ s.tm.unsettled = []

/-- The state of the token `n` of the current team. -/
def tokenSt (s : State) (n : Nat) : TokSt := (s.tm.getT n).st

/-- An operation put in flight by a word of the current team: its token is PENDING, the other tokens, the registers and memory
are as they were, and it waits for those tokens of its precondition set `sp` that are neither DONE nor POISONED (spec/03 R61). -/
def InFlight (s t : State) (td : BitVec 5) (sp : W64) (x : Op) : Prop :=
  GoesOn s t 0 0 ∧ t.ops = s.ops.set s.nextOp x ∧ t.nextOp = s.nextOp + 1 ∧ t.tm.getT td.toNat = Tok.pending ∧
    (∀ n, n ≠ td.toNat → t.tm.getT n = s.tm.getT n) ∧ (∀ a, t.memByte a = s.memByte a) ∧
    x.tok = td.toNat ∧ x.team = s.cur ∧ x.pc = s.tm.pc ∧ x.word = s.word ∧ x.started = false ∧
    ∀ n < 32, x.waiting.getLsbD n = (sp.getLsbD n && tokenSt s n != .done && tokenSt s n != .poisoned)

/-- A word issues an operation of which `p` holds, or, with its token PENDING, is TOKEN_BUSY (spec/03 R61). -/
def Issues (i : Instr) (s : State) (td : BitVec 5) (sp : W64) (p : State → Op → Prop) : Prop :=
  (tokenSt s td.toNat = .pending → exec i s = .next (s.scalarFault kTokenBusy .state 0)) ∧
  (tokenSt s td.toNat ≠ .pending → ∃ t x, exec i s = .next t ∧ InFlight s t td sp x ∧ p t x)

/-- An address at which a scalar global access of `n` bytes may issue: aligned, of 54 bits, on a page that allows it or that is
not present yet (spec/03 R62). -/
def GlobalOk (s : State) (a : W64) (n : Nat) (ok : Leaf → Bool) : Prop :=
  a.toNat % n = 0 ∧ a.toNat < 2 ^ 54 ∧ ∀ l, s.translate (s.teamCore s.cur) s.tg.part a.toNat = .leaf l → ok l = true

/-- A block address word that a copy team may issue: ARG 0, SPACE 0 or 1, aligned, and within the partition's scratchpad
(spec/08 R156). -/
def BlockWordOk (s : State) (w : W64) (align n : Nat) : Prop :=
  s.tm.copy = true ∧ bits w.toNat 58 6 = 0 ∧ bits w.toNat 54 4 ≤ 1 ∧ bits w.toNat 0 54 % align = 0 ∧
    (bits w.toNat 54 4 = 1 → bits w.toNat 0 54 + n ≤ s.padSize (gangOf s.cur))

/-- A barrier address word that may be issued: ARG 0 but for a core of the quad, SPACE up to 2, aligned to 16 bytes, and in a
scratchpad within the partition, of a member (spec/12 R218, R221). -/
def BarrierWordOk (s : State) (w : W64) : Prop :=
  (pbSpace w < 2 → pbArg w = 0) ∧ pbSpace w < 3 ∧ (pbSpace w = 2 → pbArg w ≤ 3 ∧ s.tg.memberAt (pbArg w) < s.tg.cores.length) ∧
    pbAddr w % 16 = 0 ∧ (pbSpace w ≠ 0 → pbAddr w < s.padSize (gangOf s.cur))

/-! ## Lane instructions -/

/-- The register operands that a lane instruction of an opcode names (spec/01 R29). -/
def laneRegs (opc : Nat) (f : LaneF) : List Nat :=
  match laneSpec opc with
  | some sp => regCodes sp f
  | none => []

/-- A lane instruction of block `b` issues without a trap or an interlock: its registers lie in the block's budget, it is not the
last of the section but for the end of its block, no write or load of the team is on its way, nothing streams, no VFCMPD is undecided,
no scalar register of its snapshot has a newer value or awaited one at its dispatch, and the gang neither records nor is replayed
(spec/02 R46, spec/03 R62, spec/04 R76, R77, R79, R89, R90, R105). -/
structure LaneReady (s : State) (b : Block) (f : LaneF) (regs : List Nat) : Prop where
  running : s.tm.running = some b
  pend : s.tm.pend = []
  loads : s.tm.loads = []
  streams : s.tm.vs = [] ∧ s.tm.cmpd = []
  scalars : b.later = [] ∧ b.unsure = []
  links : ∀ n l, (s.tm.getL n l).st ≠ .streaming ∧ (s.tm.getL n l).pend = false
  section_ : f.e = true ∨ b.idx + 1 < s.tm.lanes
  budget : ∀ r ∈ regs, r < 256 → r < 8 * b.budget
  plain : Plain s

/-- Lane `l` is active: one of the team's lanes, in M0 and in the instruction's mask (spec/01 R27). -/
def activeLane (s : State) (f : LaneF) (l : Nat) : Bool := decide (l < s.tm.width) && (s.tm.effective f).getLsbD l

/-- The active lanes, rising. -/
def activeLanes (s : State) (f : LaneF) : List Nat := (List.range s.tm.width).filter fun l => (s.tm.effective f).getLsbD l

/-- What an operand code gives in a lane (spec/01 R29). -/
def laneVal (s : State) (b : Block) (f : LaneF) (c : BitVec 9) (l : Nat) : W32 :=
  s.operand s.tm b f ((s.cycleReg (s.teamCore s.cur)).truncate 32) c.toNat l

/-- What a V register, or a mask register (a bit: all ones or 0), holds of a value written to it. -/
def landed (d : Nat) (v : W32) : W32 := if d < 256 then v else if v = 0 then 0 else 0xFFFFFFFF

/-- The block of a lane instruction goes on behind it, or ends with it (spec/01 R12, R27). -/
def BlockGoesOn (s t : State) (f : LaneF) (b : Block) : Prop :=
  (f.e = false → t.tm.running = some { b with idx := b.idx + 1 } ∧ t.tm.ended = s.tm.ended) ∧
    (f.e = true → t.tm.running = none ∧ t.tm.ended = s.tm.ended ++ [b])

/-- What every lane instruction that is no memory access leaves: memory, the other teams, the operations in flight and the tokens;
its retirement counts one (spec/04 R76). -/
structure LaneRetired (s t : State) (f : LaneF) (b : Block) : Prop where
  cur : t.cur = s.cur
  count : t.tm.rwc = s.tm.rwc + 1
  block : BlockGoesOn s t f b
  pc : t.tm.pc = s.tm.pc
  tokens : t.tm.tok = s.tm.tok
  memory : ∀ a, t.memByte a = s.memByte a
  markers : ∀ g, t.marked g = s.marked g
  teams : ∀ u, u ≠ s.cur → t.team u = s.team u
  members : ∀ m, { t.member m with ctr := [] } = { s.member m with ctr := [] }
  ops : t.ops = s.ops

/-- A register of the team as it was in its lanes: V and M registers, by operand code. -/
def SameReg (s t : State) (c : Nat) : Prop := ∀ l < s.tm.width, t.tm.reg c l = s.tm.reg c l

/-- The operand code names a V or M register. -/
def isReg (c : Nat) : Prop := c < 256 ∨ (272 ≤ c ∧ c < 288)

/-- A lane instruction has written `val` in its active lanes of register `d`; its other lanes and registers are as they were
(spec/04 R76). -/
structure LaneWrote (s t : State) (f : LaneF) (b : Block) (d : Nat) (val : Nat → W32) : Prop extends LaneRetired s t f b where
  dest : ∀ l < s.tm.width, t.tm.reg d l = if activeLane s f l then landed d (val l) else s.tm.reg d l
  others : ∀ c, c ≠ d → isReg c → SameReg s t c
  scalars : ∀ r, t.rS r = s.rS r

/-- A lane instruction gives in every active lane a value of which `p` holds, into its V or M destination, and nothing else. -/
def LaneGives (i : Instr) (s : State) (b : Block) (f : LaneF) (p : Nat → W32 → Prop) : Prop :=
  ∃ t val, exec i s = .next t ∧ LaneWrote s t f b f.dst.toNat val ∧ t.tm.links = s.tm.links ∧ t.tm.stack = s.tm.stack ∧
    ∀ l, activeLane s f l = true → p l (val l)

/-- Element `k` of `w` bits of a value (spec/04 R80). -/
def elemOf (w : Nat) (x : W32) (k : Nat) : Nat := x.toNat / 2 ^ (w * k) % 2 ^ w

/-- An integer lane instruction gives, element by element of its type, what `g` gives for the elements of SA, SB and SC. -/
def LaneElems (i : Instr) (s : State) (b : Block) (f : LaneF) (p : Nat → Nat → Nat → Nat → Prop) : Prop :=
  LaneGives i s b f fun l v =>
    let w := elemWidth f.hi3
    ∀ k < 32 / w, p (elemOf w (laneVal s b f f.sa l) k) (elemOf w (laneVal s b f f.sb l) k) (elemOf w (laneVal s b f f.sc l) k)
      (elemOf w v k)

/-- A float lane instruction gives `g` of the codes of its sources, for FP32 or for each half of a paired format, with the
rounding mode that it or FMT names: into a V or M register, or as the value of a link that begins to stream, or that is complete at
once for a result without digits (spec/04 R84 to R89). -/
def LaneFloatGives (i : Instr) (s : State) (b : Block) (f : LaneF) (opc : Nat) (g : FFmt → RMode → Nat → Nat → Nat → Nat) : Prop :=
  let at_ (c : BitVec 9) (l : Nat) : W32 := laneVal s b f c l
  let val (l : Nat) : W32 :=
    perHalf (s.floatCode f) (fun fm => g fm (s.floatMode f)) (at_ f.sa l) (at_ f.sb l) (at_ f.sc l)
  LaneReady s b f (laneRegs opc f) → s.floatCode f ≠ 3 →
  (∀ sp, laneSpec opc = some sp → s.floatCode f = 0 ∨ (linkOperand sp f = false ∧ f.ch = false)) →
  (isReg f.dst.toNat → LaneGives i s b f fun l v => v = val l) ∧
  (256 ≤ f.dst.toNat → f.dst.toNat < 264 → ∃ t, exec i s = .next t ∧ LaneRetired s t f b ∧ (∀ c, isReg c → SameReg s t c) ∧
    ∀ l, activeLane s f l = true →
      let k := t.tm.getL (f.dst.toNat - 256) l
      k.value = val l ∧ k.st = if (chainOf opc).isSome then .streaming else .complete)

/-- The register groups of a lane memory instruction lie in the block's budget (spec/01 R14, spec/04 R103). -/
def LaneGroupsFit (b : Block) (f : LaneF) : Prop :=
  ∀ r ∈ (if f.sa.toNat < 256 then f.baseCodes else []) ++ f.dstCodes ++ (if f.sb.toNat < 256 then f.sbCodes else []),
    r < 8 * b.budget

/-- The digits of a stream so far leave its value within reach (spec/20 R329). -/
def Link.InReach (k : Link) : Prop := k.hdr = false ∨ (mantissa26 k.value - digitsSum k.value k.digits).natAbs < 4 ^ (13 - k.digits.length)

/-! ## Matrix instructions -/

/-- The sequencer's gang neither records nor is replayed (spec/24 R366, R369). -/
def SeqPlain (s : State) : Prop := s.recording s.curGang = false ∧ s.replaying s.curGang = false

/-- The machine after the sequencer has issued a word that changes its gang by `f` and leads to `pc`: nothing else has changed but
the order that a recording keeps (spec/24 R370). -/
def SeqAt (s : State) (f : Gang → Gang) (pc : W64) : State := (s.modSg fun g => { f g with spc := pc, swait := none }).seqRan

/-- A matrix word has no barrier to wait for, or its wait has been answered (spec/08 R179). -/
def SeqOpen (s : State) (f : MatF) : Prop := f.bw.getLsbD 4 = false ∨ ∃ w v, s.sg.swait = some w ∧ w.result = some v

/-- The barrier at which a matrix word arrives, if any, is bound to a group of the sequencer (spec/03 R66, spec/08 R179). -/
def ArriveOk (s : State) (f : MatF) : Prop := f.ba.getLsbD 4 = true → s.sg.belongs (f.ba.toNat % 16) 256 = true

/-- The engines of the sequencer's gang execute nothing now: each is stopped, or held by a watchpoint. -/
def EnginesHeld (s : State) : Prop :=
  ∀ mk ∈ s.membersOf s.curGang, s.engineLive mk = false ∨ (s.member mk).mheld.isSome = true

/-- The tile that a matrix word names exists (spec/01 R21). -/
def TileThere (s : State) (n : Nat) : Prop := n < s.tileCount s.curGang

/-- The FIFOs of an MMA hold elements of the classes that its input format names, on every member core (spec/08 R171). -/
def FifosSuit (s : State) (f : MatF) : Prop :=
  s.fifoHolds f.fa.toNat (aClass f.ifmt.toNat) = true ∧ s.fifoHolds f.fb.toNat (bClass f.ifmt.toNat) = true

/-- An epilogue that may issue: its tile is there, and what it writes to the scratchpad, or its block, is aligned and lies in the
partition (spec/08 R156, R176). -/
def EpiOk (s : State) (f : MatF) : Prop :=
  let size := ofmtBytes (bits f.imm.toNat 14 3)
  let base := s.sg.nreg (bits f.imm.toNat 0 4)
  let stride := s.sg.nreg (bits f.imm.toNat 4 4)
  let pad := s.padSize s.curGang
  TileThere s f.c.toNat ∧ (f.epi.getLsbD 1 = true →
    (bits f.imm.toNat 8 2 = 0 → base.toNat % size = 0 ∧ stride.toNat % size = 0 ∧
      ∀ n < 256, f.epi.getLsbD 2 = false ∨ kElem (s.sg.kreg f.k) n = true →
        base.toNat + n / 16 * stride.toNat + n % 16 * size + size ≤ pad) ∧
    (bits f.imm.toNat 8 2 ≠ 0 → base.toNat % 64 = 0 ∧ base.toNat + 64 ≤ pad))

/-- A matrix word goes to the engines: every member core has it at the end of its queue, with the mask and the counters as they are,
and the sequencer goes on; no memory, no other member core, no team has changed (spec/08 R169). -/
def Queues (i : Instr) (s : State) (opc : Nat) (f : MatF) (nv : W32) : Prop :=
  ∃ t e, exec i s = .next t ∧ t.curGang = s.curGang ∧ t.sg.spc = s.sg.spc + 8 ∧ t.sg.swait = none ∧ t.sg.mseq = s.sg.mseq + 1 ∧
    t.sg.minstrs = s.sg.minstrs ++ [e] ∧ e.seq = s.sg.mseq ∧ e.pc = s.sg.spc ∧ e.word = s.word ∧
    e.left = List.range s.sg.cores.length ∧ e.ba = (if f.ba.getLsbD 4 then some (f.ba.truncate 4) else none) ∧
    (∀ mk ∈ s.membersOf s.curGang, t.member mk = { s.member mk with mq := (s.member mk).mq ++
      [{ seq := s.sg.mseq, opc := opc, f := f, kv := s.sg.kreg f.k, nv := nv, nv2 := s.sg.nreg (bits f.imm.toNat 4 4) }] }) ∧
    (∀ mk, mk ∉ s.membersOf s.curGang → t.member mk = s.member mk) ∧ t.mem = s.mem ∧ t.marks = s.marks ∧ t.teams = s.teams ∧ t.ops = s.ops

/-- A matrix word of a gang of one core whose engine has nothing else to do: it is executed as it issues. -/
structure EngineReady (s : State) (f : MatF) : Prop where
  plain : SeqPlain s
  wait : SeqOpen s f
  arrive : ArriveOk s f
  one : s.sg.cores.length = 1
  idle : (s.member (memberKey s.curGang 0)).mq = []
  live : s.engineLive (memberKey s.curGang 0) = true
  held : (s.member (memberKey s.curGang 0)).mheld = none

/-- The word has been executed, and `p` holds of the state after it. -/
def Executes (i : Instr) (s : State) (p : State → Prop) : Prop :=
  ∃ t, exec i s = .next t ∧ t.curGang = s.curGang ∧ t.sg.spc = s.sg.spc + 8 ∧ t.sg.mseq = s.sg.mseq + 1 ∧
    (t.member (memberKey s.curGang 0)).mq = [] ∧ t.mem = s.mem ∧ p t

/-- Element `n` of a tile. -/
def Tile.elem (t : Tile) (n : Nat) : W32 := listGet 0 t.elems n

/-- The INT8 sum of an element: the products, or squared differences, of the enabled depth slices (spec/10 R199). -/
def sliceSum (dist : Bool) (k : BitVec 48) (a b : List Nat) (n : Nat) : Int :=
  (((List.range 16).filter fun d => k.getLsbD (32 + d)).map fun d =>
    let x := byteInt (listGet 0 a (16 * (n / 16) + d))
    let y := byteInt (listGet 0 b (16 * d + n % 16))
    if dist then (x - y) * (x - y) else x * y).sum

/-! ## The host's side -/

/-- A running device at rest, whose CMD holds a command of this code with no reserved bit set (spec/18 R308). -/
def Commanded (s : State) (code : Nat) : Prop :=
  cmdCode s.cmd = code ∧ s.run = none ∧ s.mode = 1 ∧ bits (listGet 0 s.cmd 0).toNat 8 56 = 0

/-- The command runs and will answer with status 0 and these words; `p` holds of what it leaves. -/
def Accepted (i : Instr) (s : State) (resp : List W64) (p : State → Prop) : Prop :=
  ∃ x, exec i s = .next (x.latchCmd 0 resp) ∧ p x

/-- The command is refused with a status, and nothing else changes (spec/18 R308). -/
def Refused (i : Instr) (s : State) (st : Nat) : Prop := exec i s = .next (s.latchCmd st [])

/-- Operand `i` of the command. -/
def argOf (s : State) (i : Nat) : Nat := (listGet 0 s.cmd i).toNat

/-! ## The fabric -/

/-- The access of `n` bytes that has arrived (device `x`, its partition `y`, window `z`, offset `u`) may be performed: the window
allows it, and the exporter's page is one of this device with the permission, not sealed for a write, and no eviction of its line is
under way (spec/12 R232, spec/14 R249, spec/18 R316). -/
structure PeerPage (s : State) (n : Nat) (write : Bool) (l : Leaf) (pa : Nat) : Prop where
  allowed : s.windowCheck s.arg.x s.arg.y s.arg.z s.arg.u n write = 0
  quiet : s.tfaults = []
  part : (s.parts.find? (s.windowVa s.arg.z s.arg.u).1).isSome = true
  va : (s.windowVa s.arg.z s.arg.u).2 < 2 ^ 54
  leaf : s.walk (s.windowVa s.arg.z s.arg.u).1 (s.windowVa s.arg.z s.arg.u).2 = .leaf l
  here : l.type ≠ 2
  allows : (if write then l.w else l.r) = true
  unsealed : write = true → l.isSealed = false
  place : pa = l.pa (s.windowVa s.arg.z s.arg.u).2
  free : s.evicting (sliceOf l.home (pa / 128)) (pa / 128) = false

/-- The bytes of a segment stand at `pa`, every other byte is as it was, and the answer to the segment waits for the sharers of the
line (spec/12 R229, spec/14 R248). -/
def PeerWrites (i : Instr) (s : State) (w : PeerW) (p : State → Prop) : Prop :=
  let a := s.arg
  let n := a.data.length
  0 < n → a.u % 128 + n ≤ 128 → a.marks.length ≤ n → s.ecc = [] → ∀ l pa, PeerPage s n true l pa →
    ∃ t h, exec i s = .next t ∧ t.hw.find? s.nextOp = some h ∧ h.peer = some w ∧ t.outbox = s.outbox ∧ t.teams = s.teams ∧ p t ∧
      ∀ b, t.memByte b = if pa ≤ b ∧ b < pa + n then listGet 0 a.data (b - pa) else s.memByte b

/-- The token of an operation completes, POISONED with a cause or, with cause 0, DONE, and the operation is over. -/
def Completes (t : State) (o : Nat) (x : Op) (cause : BitVec 8) : Prop :=
  t.ops.find? o = none ∧ ((t.team x.team).getT x.tok).st = (if cause = 0 then .done else .poisoned) ∧
    ((t.team x.team).getT x.tok).cause = cause

/-! ## Requests -/

/-- The request that an event is about (operation `x`, request `y`) may be performed: it is ready, nothing that comes before it is
open, and its gang is not replayed (spec/15 R261, spec/24 R369). -/
structure RequestReady (s : State) (x : Op) (q : Req) : Prop where
  here : s.req s.arg.x s.arg.y = some (x, q)
  ready : q.st = .ready
  ripe : s.ripe s.arg.x x q = true
  live : s.replaying x.gang = false

/-- Its address has a translation that allows the access, on a line that no eviction holds (spec/14 R249, R254, R257). -/
structure AtHome (s : State) (x : Op) (q : Req) (l : Leaf) (ok : Leaf → Bool) : Prop where
  va : q.addr < 2 ^ 54
  leaf : s.lookup (s.opCore x) (s.gang x.gang).part q.addr = some l
  allows : ok l = true
  free : s.evicting (sliceOf l.home (l.pa q.addr / 128)) (l.pa q.addr / 128) = false

/-- What the operations hold of the request of the event that has happened. -/
def NowReq (s t : State) (p : Op → Req → Prop) : Prop := ∃ x q, t.req s.arg.x s.arg.y = some (x, q) ∧ p x q

/-- The state of a request after its home write: the acknowledgement of the write `wr` is awaited. -/
def AwaitsHome (s t : State) : Prop := ∃ wr, NowReq s t fun _ q => q.st = .home wr

/-- Memory holds `data` at `pa`, and what it held everywhere else. -/
def Stored (s t : State) (pa : Nat) (data : List Byte) : Prop :=
  ∀ a, t.memByte a = if pa ≤ a ∧ a < pa + data.length then listGet 0 data (a - pa) else s.memByte a

/-- A context that the Scheduler has taken up and that needs one place: nothing of it has been placed, and its image holds no work
that is open (spec/07 R148). -/
structure Placeable (s : State) (p c : Nat) (pt : Part) (x : Ctx) (i : Image) : Prop where
  part : s.parts.find? p = some pt
  runs : pt.state = 1
  ctx : s.ctxs = [(c, x)]
  mine : partOf c = p
  places : x.places = true
  one : x.gangs = 1 ∧ x.placed = 0 ∧ x.coresAll = false
  fresh : s.awayGangs c = []
  image : s.images.find? (blankKey c) = some i
  plain : i.kind = 0 ∧ i.ops = [] ∧ i.gang.bevents = [] ∧ i.gang.swait = none ∧ i.gang.awaits = 0

/-- The scratchpad of a member core holds `data` at `a`, in lines that are FULL now, and what it held everywhere else. -/
def PadHolds (s t : State) (mk a : Nat) (data : List Byte) : Prop :=
  (∀ b, (t.member mk).pad.get 0 b = if a ≤ b ∧ b < a + data.length then listGet 0 data (b - a) else (s.member mk).pad.get 0 b) ∧
    ∀ b, a ≤ b → b < a + data.length → (t.member mk).lineSt b = 1

/-- A load of up to 4 bytes into one V register per lane, which no other instruction has written meanwhile (spec/04 R105). -/
structure LoadsOne (s : State) (x : Op) (q : Req) : Prop where
  load : x.kind = .vld
  width : x.width = 4
  reg : x.reg < 256
  clean : ((s.team x.team).loads.any fun e => e.op == s.arg.x && e.isOver.contains (x.reg * 1024 + q.id)) = false

/-- The lane of a request has its bytes in its register, and the request is done. -/
def LaneTook (s t : State) (x : Op) (q : Req) (bytes : List Byte) : Prop :=
  (t.team x.team).reg x.reg q.id = BitVec.ofNat 32 (bytesNat (bytes.take 4)) ∧ NowReq s t fun _ r => r.st = .done

/-- What an atomic leaves in a place of `n` bytes that held `old` (spec/02 R43, spec/04 R107), but for the float ones. -/
def AtomicLeaves (op n old v cmp new : Nat) : Prop :=
  (op = 0 → new = (old + v) % 2 ^ (8 * n)) ∧ (op = 3 → new = old &&& v) ∧ (op = 4 → new = old ||| v) ∧ (op = 5 → new = old ^^^ v) ∧
    (op = 6 → new = v) ∧ (op = 7 → new = if old = cmp then v else old) ∧
    (op = 1 → new = if (BitVec.ofNat (8 * n) v).toInt < (BitVec.ofNat (8 * n) old).toInt then v else old) ∧
    (op = 2 → new = if (BitVec.ofNat (8 * n) old).toInt < (BitVec.ofNat (8 * n) v).toInt then v else old)

/-- Memory and its poison markers are in their canonical form. -/
def CanonicalMemory (s : State) : Prop := Memory.wf s.mem = true ∧ Sparse.canonical false s.marks = true

end Sys2Proof.Machine
end

