-- ==== Sys2Proof/WellFormed.lean ====
section
/-! DEFINITION. Which instructions the encodings admit: no reserved value stands in a field, and no modifier is one
that the instruction does not take (spec/02 R37 to R47). -/

namespace Sys2Proof

/-- An instruction that some word of the spec encodes. State conditions (spec/02 R46, reason 6) are no part of it. -/
def WellFormed (i : Instr) : Bool :=
  match i with
  | .sbfx _ _ _ lo wd => decide (lo.toNat + wd.toNat + 1 ≤ 64)
  | .sloop sa _ => sa != 0
  | .chk _ mask _ => mask != 0
  | .srd _ num => srdNumbers.contains num.toNat
  | .swr _ num => swrNumbers.contains num.toNat
  | i =>
    match laneParts i, matParts i with
    | some (opc, f), _ => laneReason opc f == none
    | none, some (opc, f) => matReason opc f == none
    | none, none => true

end Sys2Proof
end

