-- ==== Sys2Proof/Certificates/Slice0/Obligations.lean ====
section
/-! DEFINITION. The statements about the machine. -/

open Sys2Proof Sys2Proof.Machine

/-! ## The scalar stream: arithmetic -/

/-- spec/03 R50: the results of opcode 0x01 on the values a and b of S[SA] and S[SB], and the stream goes on: shifts by b[5:0]; SCLZ,
the zero bits above the highest one bit, 64 for 0, and SPOP, the one bits, read only a, and in a word of theirs SB is 0. -/
def Obligations.ScalarAluResults : Prop :=
  ∀ (s : State) (rd ra rb : BitVec 6), Quiet s [ra, rb, rd] →
    let a := s.rS ra
    let b := s.rS rb
    let n := b.toNat % 64
    exec (.sadd rd ra rb) s = .next (s.wS rd (a + b)).advance ∧
    exec (.ssub rd ra rb) s = .next (s.wS rd (a - b)).advance ∧
    exec (.sand rd ra rb) s = .next (s.wS rd (a &&& b)).advance ∧
    exec (.sor rd ra rb) s = .next (s.wS rd (a ||| b)).advance ∧
    exec (.sxor rd ra rb) s = .next (s.wS rd (a ^^^ b)).advance ∧
    exec (.sshl rd ra rb) s = .next (s.wS rd (BitVec.ofNat 64 (a.toNat * 2 ^ n))).advance ∧
    exec (.sshr rd ra rb) s = .next (s.wS rd (BitVec.ofNat 64 (a.toNat / 2 ^ n))).advance ∧
    exec (.ssra rd ra rb) s = .next (s.wS rd (BitVec.ofInt 64 (a.toInt / 2 ^ n))).advance ∧
    exec (.sminS rd ra rb) s = .next (s.wS rd (BitVec.ofInt 64 (min a.toInt b.toInt))).advance ∧
    exec (.smaxS rd ra rb) s = .next (s.wS rd (BitVec.ofInt 64 (max a.toInt b.toInt))).advance ∧
    exec (.sminN rd ra rb) s = .next (s.wS rd (BitVec.ofNat 64 (min a.toNat b.toNat))).advance ∧
    exec (.smaxN rd ra rb) s = .next (s.wS rd (BitVec.ofNat 64 (max a.toNat b.toNat))).advance ∧
    exec (.ssltS rd ra rb) s = .next (s.wS rd (if a.toInt < b.toInt then 1 else 0)).advance ∧
    exec (.ssltN rd ra rb) s = .next (s.wS rd (if a.toNat < b.toNat then 1 else 0)).advance ∧
    exec (.sseq rd ra rb) s = .next (s.wS rd (if a = b then 1 else 0)).advance ∧
    exec (.ssne rd ra rb) s = .next (s.wS rd (if a = b then 0 else 1)).advance ∧
    (∃ n : Nat, exec (.sclz rd ra) s = .next (s.wS rd (BitVec.ofNat 64 n)).advance ∧
      n ≤ 64 ∧ a.toNat < 2 ^ (64 - n) ∧ (n < 64 → 2 ^ (63 - n) ≤ a.toNat)) ∧
    exec (.spop rd ra) s = .next (s.wS rd (BitVec.ofNat 64 ((List.range 64).countP fun i => a.getLsbD i))).advance ∧
    (∀ w next : BitVec 32, bits w.toNat 25 7 = 0x01 → bits w.toNat 0 7 = 0x10 ∨ bits w.toNat 0 7 = 0x11 → bits w.toNat 7 6 ≠ 0 →
      decodeScalar w next = .error .reserved)

/-- spec/03 R51: products, and quotients and remainders that round toward zero; division by zero gives all ones and leaves
the dividend as the remainder. -/
def Obligations.ScalarMulDivResults : Prop :=
  ∀ (s : State) (rd ra rb : BitVec 6), Quiet s [ra, rb, rd] →
    let a := s.rS ra
    let b := s.rS rb
    exec (.smul rd ra rb) s = .next (s.wS rd (BitVec.ofInt 64 (a.toInt * b.toInt))).advance ∧
    exec (.smulhS rd ra rb) s =
      .next (s.wS rd (((a.signExtend 128 * b.signExtend 128) >>> 64).truncate 64)).advance ∧
    exec (.smulhN rd ra rb) s =
      .next (s.wS rd (((a.zeroExtend 128 * b.zeroExtend 128) >>> 64).truncate 64)).advance ∧
    (b = 0 →
      exec (.sdivS rd ra rb) s = .next (s.wS rd (BitVec.allOnes 64)).advance ∧
      exec (.sdivN rd ra rb) s = .next (s.wS rd (BitVec.allOnes 64)).advance ∧
      exec (.sremS rd ra rb) s = .next (s.wS rd a).advance ∧
      exec (.sremN rd ra rb) s = .next (s.wS rd a).advance) ∧
    (b ≠ 0 →
      exec (.sdivS rd ra rb) s = .next (s.wS rd (BitVec.ofInt 64 (a.toInt.tdiv b.toInt))).advance ∧
      exec (.sdivN rd ra rb) s = .next (s.wS rd (BitVec.ofNat 64 (a.toNat / b.toNat))).advance ∧
      exec (.sremS rd ra rb) s = .next (s.wS rd (BitVec.ofInt 64 (a.toInt - b.toInt * a.toInt.tdiv b.toInt))).advance ∧
      exec (.sremN rd ra rb) s = .next (s.wS rd (BitVec.ofNat 64 (a.toNat % b.toNat))).advance)

/-- spec/03 R52: the immediate forms, with the immediate sign-extended, and shifts by 0 to 63. -/
def Obligations.ScalarImmediateResults : Prop :=
  ∀ (s : State) (rd ra sh : BitVec 6) (imm : BitVec 13), Quiet s [ra, rd] →
    let a := s.rS ra
    let k : W64 := BitVec.ofInt 64 imm.toInt
    exec (.saddi rd ra imm) s = .next (s.wS rd (a + k)).advance ∧
    exec (.sandi rd ra imm) s = .next (s.wS rd (a &&& k)).advance ∧
    exec (.sori rd ra imm) s = .next (s.wS rd (a ||| k)).advance ∧
    exec (.sxori rd ra imm) s = .next (s.wS rd (a ^^^ k)).advance ∧
    exec (.sslti rd ra imm) s = .next (s.wS rd (if a.toInt < imm.toInt then 1 else 0)).advance ∧
    exec (.sshli rd ra sh) s = .next (s.wS rd (BitVec.ofNat 64 (a.toNat * 2 ^ sh.toNat))).advance ∧
    exec (.sshri rd ra sh) s = .next (s.wS rd (BitVec.ofNat 64 (a.toNat / 2 ^ sh.toNat))).advance ∧
    exec (.ssrai rd ra sh) s = .next (s.wS rd (BitVec.ofInt 64 (a.toInt / 2 ^ sh.toNat))).advance

/-- spec/03 R53: SBFX gives bits LO to LO + WD of S[SA], sign-extended where it says so: bit i of the result is bit LO + i of
the register for i up to WD, and above them 0 or the field's highest bit; its word holds LO in IMM13[11:6], WD, the width less 1, in
IMM13[5:0], and the sign bit in IMM13[12], and a field that goes beyond bit 63 is refused with reason 5. -/
def Obligations.FieldExtractBits : Prop :=
  (∀ (s : State) (rd ra lo wd : BitVec 6) (sx : Bool), Quiet s [ra, rd] → lo.toNat + wd.toNat + 1 ≤ 64 →
    ∃ v : W64, exec (.sbfx rd ra sx lo wd) s = .next (s.wS rd v).advance ∧
      ∀ i < 64, v.getLsbD i =
        if i ≤ wd.toNat then (s.rS ra).getLsbD (lo.toNat + i)
        else sx && (s.rS ra).getLsbD (lo.toNat + wd.toNat)) ∧
  (∀ w next : BitVec 32, bits w.toNat 25 7 = 0x0B →
    decodeScalar w next = if 64 < bits w.toNat 6 6 + bits w.toNat 0 6 + 1 then .error .value
      else .ok (.sbfx (BitVec.ofNat 6 (bits w.toNat 19 6)) (BitVec.ofNat 6 (bits w.toNat 13 6)) (w.getLsbD 12)
        (BitVec.ofNat 6 (bits w.toNat 6 6)) (BitVec.ofNat 6 (bits w.toNat 0 6))))

/-- spec/01 R26: SIMM and the word it precedes issue, retire and count as one instruction of 8 bytes with the immediate widened to
38 bits; a word that SIMM may not precede is illegal. The WORD of the pair's fault record is the model's choice (log entry 30). -/
def Obligations.WidenedImmediatePair : Prop :=
  ∀ (s : State) (imm25 : BitVec 25) (word : BitVec 32) (rd ra sh : BitVec 6) (imm : BitVec 13), Quiet s [ra, rd] →
    let a := s.rS ra
    let k := pairImm imm25 imm
    let p := pairOf s word
    (decodeScalar word 0 = .ok (.saddi rd ra imm) → simmAdmits word = true →
      exec (.simm imm25 word) s = .next ((p.wS rd (a + k)).advanceBy 8)) ∧
    (decodeScalar word 0 = .ok (.sandi rd ra imm) → simmAdmits word = true →
      exec (.simm imm25 word) s = .next ((p.wS rd (a &&& k)).advanceBy 8)) ∧
    (decodeScalar word 0 = .ok (.sori rd ra imm) → simmAdmits word = true →
      exec (.simm imm25 word) s = .next ((p.wS rd (a ||| k)).advanceBy 8)) ∧
    (decodeScalar word 0 = .ok (.sxori rd ra imm) → simmAdmits word = true →
      exec (.simm imm25 word) s = .next ((p.wS rd (a ^^^ k)).advanceBy 8)) ∧
    (decodeScalar word 0 = .ok (.sslti rd ra imm) → simmAdmits word = true →
      exec (.simm imm25 word) s = .next ((p.wS rd (if a.toInt < k.toInt then 1 else 0)).advanceBy 8)) ∧
    (decodeScalar word 0 = .ok (.sshli rd ra sh) → simmAdmits word = true →
      exec (.simm 0 word) s = .next ((p.wS rd (BitVec.ofNat 64 (a.toNat * 2 ^ sh.toNat))).advanceBy 8)) ∧
    (decodeScalar word 0 = .ok (.sshri rd ra sh) → simmAdmits word = true →
      exec (.simm 0 word) s = .next ((p.wS rd (BitVec.ofNat 64 (a.toNat / 2 ^ sh.toNat))).advanceBy 8)) ∧
    (decodeScalar word 0 = .ok (.ssrai rd ra sh) → simmAdmits word = true →
      exec (.simm 0 word) s = .next ((p.wS rd (BitVec.ofInt 64 (a.toInt / 2 ^ sh.toNat))).advanceBy 8)) ∧
    (imm25 ≠ 0 → decodeScalar word 0 = .ok (.sshli rd ra sh) ∨ decodeScalar word 0 = .ok (.sshri rd ra sh) ∨
        decodeScalar word 0 = .ok (.ssrai rd ra sh) → simmAdmits word = true →
      exec (.simm imm25 word) s = .next (p.scalarFault kIllegal .value 0)) ∧
    (simmAdmits word = false → exec (.simm imm25 word) s = .next (s.scalarFault kIllegal .value 0))

/-! ## The scalar stream: control -/

/-- spec/03 R54 to R57: compare-and-branch, the mask branches, jump and link, and SLOOP, to targets that may be executed. -/
def Obligations.ControlTransfers : Prop :=
  ∀ (s : State) (rd ra rb : BitVec 6) (m : BitVec 4) (off : BitVec 13) (far : BitVec 19),
    let a := s.rS ra
    let b := s.rS rb
    let pc := s.tm.pc
    let there := pc + 4 * BitVec.ofInt 64 off.toInt
    let away := pc + 4 * BitVec.ofInt 64 far.toInt
    (Quiet s [ra, rb] →
      Branches (.sbeq ra rb off) s s (a = b) there ∧ Branches (.sbne ra rb off) s s (a ≠ b) there ∧
      Branches (.sbltS ra rb off) s s (a.toInt < b.toInt) there ∧ Branches (.sbgeS ra rb off) s s (b.toInt ≤ a.toInt) there ∧
      Branches (.sbltN ra rb off) s s (a.toNat < b.toNat) there ∧ Branches (.sbgeN ra rb off) s s (b.toNat ≤ a.toNat) there) ∧
    (s.tm.early true m.toNat = false →
      Branches (.sbany m off) s s.fresh (s.tm.getM m.toNat ≠ 0) there ∧
      Branches (.sball m off) s s.fresh (s.tm.copy = false ∧ s.tm.getM m.toNat = s.tm.allLanes) there) ∧
    (Quiet s [rd] → Executable s away → exec (.sjal rd far) s = .next ((s.wS rd (pc + 4)).goto away)) ∧
    (Quiet s [ra, rd] → Executable s a → exec (.sjr rd ra) s = .next ((s.wS rd (pc + 4)).goto a)) ∧
    (Quiet s [ra] →
      (a = 1 → exec (.sloop ra off) s = .next (s.wS ra 0).advance) ∧
      (a ≠ 1 → Executable s there → exec (.sloop ra off) s = .next ((s.wS ra (a - 1)).goto there)))

/-- spec/03 R55: a jump to an address that is not a multiple of 4 is a misaligned-access fault, one to a page that is present and
may not be executed, or beyond the address space, a protection fault, both at the jump itself; a page that is not present is met
by the fetch. That a target on an absent page is met by the fetch is the model's reading (log entry 33). -/
def Obligations.JumpTargetsAreChecked : Prop :=
  ∀ (s : State) (rd ra : BitVec 6), Quiet s [ra, rd] →
    let a := s.rS ra
    (a.toNat % 4 ≠ 0 → exec (.sjr rd ra) s = .next (s.scalarFault kMisaligned .state a)) ∧
    (a.toNat % 4 = 0 → 2 ^ 54 ≤ a.toNat → exec (.sjr rd ra) s = .next (s.scalarFault kProtection .state a)) ∧
    (∀ l, a.toNat % 4 = 0 → a.toNat < 2 ^ 54 → s.translate (s.teamCore s.cur) s.tg.part a.toNat = .leaf l →
      l.x = false ∨ l.type ≠ 0 → exec (.sjr rd ra) s = .next (s.scalarFault kProtection .state a)) ∧
    (a.toNat % 4 = 0 → a.toNat < 2 ^ 54 → s.translate (s.teamCore s.cur) s.tg.part a.toNat = .absent →
      exec (.sjr rd ra) s = .next ((s.wS rd (s.tm.pc + 4)).goto a))

/-- spec/03 R70, spec/16 R283: STRAP enters the handler with EPC behind it, CAUSE 1 and its code; without a handler it is illegal,
and in handler mode it is a fault inside the handler. -/
def Obligations.SoftwareTraps : Prop :=
  ∀ (s : State) (code : BitVec 13),
    (s.tm.hm = false → s.tg.handler ≠ 0 →
      ∃ t, exec (.strap code) s = .next t ∧ t.tm.pc = s.tg.handler ∧ t.tm.epc = s.tm.pc + 4 ∧ t.tm.tword = s.word ∧
        t.tm.twordh = 0 ∧ t.tm.hstat = BitVec.ofNat 64 (code.toNat * 2 ^ 16 + 0x101) ∧ t.tm.hm = true ∧
        t.tm.rwc = s.tm.rwc + 1 ∧ (∀ r, t.rS r = s.rS r)) ∧
    (s.tm.hm = false → s.tg.handler = 0 → exec (.strap code) s = .next (s.scalarFault kIllegal .value 0)) ∧
    (s.tm.hm = true → exec (.strap code) s = .next (s.scalarFault 0 .state 0))

/-- spec/03 R71: TRET goes back to EPC, with HSTAT 0 and handler mode left; outside handler mode it is illegal with reason 5, and an EPC
that is no multiple of 4 is a misaligned-access fault at the TRET. -/
def Obligations.TrapReturn : Prop :=
  ∀ s : State,
    (s.tm.hm = true → Executable s s.tm.epc →
      ∃ t, exec .tret s = .next t ∧ t.tm.pc = s.tm.epc ∧ t.tm.hstat = 0 ∧ t.tm.hm = false ∧ t.tm.rwc = s.tm.rwc + 1 ∧
        (∀ r, t.rS r = s.rS r)) ∧
    (s.tm.hm = true → s.tm.epc.toNat % 4 ≠ 0 → exec .tret s = .next (s.scalarFault kMisaligned .state s.tm.epc)) ∧
    (s.tm.hm = false → exec .tret s = .next (s.scalarFault kIllegal .value 0))

/-- spec/03 R74, spec/01 R24: SRD gives the special register that a number names, SWR writes EPC, and every other number is
illegal; the number stands in SA and SB of the word, and TRET, EXIT, BRK and NOP have the words 0xB2000000 to 0xB2000003. -/
def Obligations.SpecialRegisters : Prop :=
  (∀ (s : State) (rd : BitVec 6), Quiet s [rd] → s.recording (gangOf s.cur) = false → s.replaying (gangOf s.cur) = false →
    let core := s.teamCore s.cur
    let gives (num : BitVec 12) (v : W64) : Prop := exec (.srd rd num) s = .next (s.wS rd v).advance
    gives 0x000 (BitVec.ofNat 64 (teamNum s.cur + s.tm.copy.toNat * 2 ^ 8 + (if s.tm.copy then 0 else s.tm.wcode.toNat) * 2 ^ 9)) ∧
    gives 0x001 (BitVec.ofNat 64 s.tg.idx) ∧
    gives 0x003 (BitVec.ofNat 64 (s.tg.part + ctxOf (gangOf s.cur) % 256 * 2 ^ 8)) ∧
    gives 0x015 (BitVec.ofNat 64 (s.tm.unresolved 0 + s.tm.unresolved 1 * 2 ^ 8 + s.tm.unresolved 2 * 2 ^ 16 + s.tm.unresolved 3 * 2 ^ 24)) ∧
    gives 0x016 s.dlrem ∧
    gives 0x002 (BitVec.ofNat 64 (core + s.tm.quarter * 2 ^ 9 + core / 4 * 2 ^ 11 + core / 176 * 2 ^ 18)) ∧
    gives 0x008 s.tm.hstat ∧ gives 0x009 s.tm.epc ∧ gives 0x00A s.tm.tword ∧ gives 0x00B s.tm.twordh ∧
    gives 0x00C s.tg.haddr ∧ gives 0x010 s.tm.rwc ∧ gives 0x011 (s.cycleReg core) ∧
    gives 0x012 (BitVec.ofNat 64 s.tg.ttryi) ∧ gives 0x013 (BitVec.ofNat 64 (if s.tm.copy then 0 else s.tm.budget)) ∧
    gives 0x014 s.tm.lcb ∧
    exec (.swr rd 0x009) s = .next (s.modTm fun x => { x with epc := s.rS rd }).advance ∧
    (∀ num : BitVec 12, num.toNat ∉ srdNumbers → exec (.srd rd num) s = .next (s.scalarFault kIllegal .value 0)) ∧
    (∀ num : BitVec 12, num ≠ 0x009 → exec (.swr rd num) s = .next (s.scalarFault kIllegal .value 0))) ∧
  (∀ (w next : BitVec 32) (rd : BitVec 6) (num : BitVec 12),
    decodeScalar w next = .ok (.srd rd num) ∨ decodeScalar w next = .ok (.swr rd num) →
      rd.toNat = bits w.toNat 19 6 ∧ num.toNat = bits w.toNat 13 6 * 64 + bits w.toNat 7 6) ∧
  decodeScalar 0xB2280884 0 = .ok (.srd 5 0x011) ∧ decodeScalar 0xB2000000 0 = .ok .tret ∧ decodeScalar 0xB2000001 0 = .ok .exit ∧
  decodeScalar 0xB2000002 0 = .ok .brk ∧ decodeScalar 0xB2000003 0 = .ok .nop

/-- spec/01 R13: S0 reads 0 and a write to it is discarded; a write to another register is read back and changes no other. -/
def Obligations.ScalarRegisterFile : Prop :=
  ∀ (s : State) (r q : BitVec 6) (v : W64),
    s.rS 0 = 0 ∧ (s.wS 0 v).tm = s.tm ∧ (s.wS r v).rS q = if q = r ∧ r ≠ 0 then v else s.rS q

/-- spec/03 R49, R54: what a retired instruction leaves. It counts one in RWC and takes the stream to its next address; but for
that and the one register it writes, the team and all else are as they were. -/
def Obligations.RetirementFrame : Prop :=
  ∀ (s : State) (rd : BitVec 6) (v target len : W64),
    let went := (s.wS rd v).goto target
    let on := (s.wS rd v).advanceBy len
    Kept s went ∧ went.cur = s.cur ∧
      went.tm = { s.tm.setS rd v with pc := target, rwc := s.tm.rwc + 1, wait := none } ∧
    Kept s on ∧ on.cur = s.cur ∧
      on.tm = { s.tm.setS rd v with pc := s.tm.pc + len, rwc := s.tm.rwc + 1, wait := none }

/-- spec/03 R50 to R53: the frame of the arithmetic instructions and NOP. Whatever
their next state is, one register at most has changed, by S0 none, and no byte of memory. -/
def Obligations.ScalarRegisterFrame : Prop :=
  ∀ (i : Instr) (s t : State) (rd : BitVec 6) (reads : List (BitVec 6)), registerForm i = some (rd, reads) →
    Quiet s (rd :: reads) → exec i s = .next t →
    Kept s t ∧ t.cur = s.cur ∧
      t.tm = { s.tm.setS rd (t.rS rd) with pc := s.tm.pc + 4, rwc := s.tm.rwc + 1, wait := none }

/-! ## The scalar stream: scratchpads and constants -/

/-- spec/03 R58, spec/01 R26: SLD of 8 and 4 bytes, alone and behind SIMM. -/
def Obligations.ScratchpadLoads : Prop :=
  ∀ (s : State) (rd ra : BitVec 6) (imm : BitVec 13) (imm25 : BitVec 25) (word : BitVec 32), Quiet s [ra, rd] →
    let near := s.rS ra + BitVec.ofInt 64 imm.toInt
    let far := s.rS ra + pairImm imm25 imm
    LoadsPad (.sldD rd ra imm) s s 8 4 rd near ∧ LoadsPad (.sldW rd ra imm) s s 4 4 rd near ∧
    (decodeScalar word 0 = .ok (.sldD rd ra imm) → simmAdmits word = true →
      LoadsPad (.simm imm25 word) s (pairOf s word) 8 8 rd far) ∧
    (decodeScalar word 0 = .ok (.sldW rd ra imm) → simmAdmits word = true →
      LoadsPad (.simm imm25 word) s (pairOf s word) 4 8 rd far)

/-- spec/03 R58, spec/01 R26: SST of 8 and 4 bytes, alone and behind SIMM, with its frame. -/
def Obligations.ScratchpadStores : Prop :=
  ∀ (s : State) (rd ra : BitVec 6) (imm : BitVec 13) (imm25 : BitVec 25) (word : BitVec 32), Quiet s [rd, ra] →
    let near := s.rS ra + BitVec.ofInt 64 imm.toInt
    let far := s.rS ra + pairImm imm25 imm
    StoresPad (.sstD rd ra imm) s s 8 4 rd near ∧ StoresPad (.sstW rd ra imm) s s 4 4 rd near ∧
    (decodeScalar word 0 = .ok (.sstD rd ra imm) → simmAdmits word = true →
      StoresPad (.simm imm25 word) s (pairOf s word) 8 8 rd far) ∧
    (decodeScalar word 0 = .ok (.sstW rd ra imm) → simmAdmits word = true →
      StoresPad (.simm imm25 word) s (pairOf s word) 4 8 rd far)

/-- spec/03 R60: SEMPTY makes the lines of its range EMPTY and no other, with their bytes as they were; an empty range does
nothing, a start or length that is no multiple of 128 is misaligned, and a range beyond the partition is a fault. -/
def Obligations.LinesMadeEmpty : Prop :=
  ∀ (s : State) (ra rb : BitVec 6), Quiet s [ra, rb] →
    let a := s.rS ra
    let n := s.rS rb
    let mk := s.memberOf s.cur
    (a.toNat % 128 ≠ 0 → exec (.sempty ra rb) s = .next (s.scalarFault kMisaligned .state a)) ∧
    (a.toNat % 128 = 0 → n.toNat % 128 ≠ 0 → exec (.sempty ra rb) s = .next (s.scalarFault kMisaligned .state n)) ∧
    (a.toNat % 128 = 0 → n = 0 → exec (.sempty ra rb) s = .next s.advance) ∧
    (a.toNat % 128 = 0 → n.toNat % 128 = 0 → n ≠ 0 → s.padSize (gangOf s.cur) < a.toNat + n.toNat →
      exec (.sempty ra rb) s = .next (s.scalarFault kOutOfPart .state a)) ∧
    (a.toNat % 128 = 0 → n.toNat % 128 = 0 → n ≠ 0 → a.toNat + n.toNat ≤ s.padSize (gangOf s.cur) → s.tm.wait = none →
      (s.member mk).spHit a.toNat n.toNat 1 .own none = none →
      ∃ t, exec (.sempty ra rb) s = .next t ∧ OnlyRetired s t 4 ∧
        (∀ b, (t.member mk).lineSt b =
          if a.toNat ≤ b ∧ b < a.toNat + n.toNat then 0 else (s.member mk).lineSt b) ∧
        (∀ m, (t.member m).pad = (s.member m).pad) ∧ (∀ m, m ≠ mk → (t.member m).line = (s.member m).line) ∧
        (∀ b, t.memByte b = s.memByte b) ∧ (∀ u, u ≠ s.cur → t.team u = s.team u))

/-- spec/03 R59, spec/01 R26: SLDC, alone and behind SIMM. -/
def Obligations.ConstantLoads : Prop :=
  ∀ (s : State) (rd ra : BitVec 6) (imm : BitVec 13) (imm25 : BitVec 25) (word : BitVec 32), Quiet s [ra, rd] →
    LoadsConst (.sldc rd ra imm) s s 4 rd (s.rS ra + BitVec.ofInt 64 imm.toInt) ∧
    (decodeScalar word 0 = .ok (.sldc rd ra imm) → simmAdmits word = true →
      LoadsConst (.simm imm25 word) s (pairOf s word) 8 rd (s.rS ra + pairImm imm25 imm))

/-! ## Tokens -/

/-- spec/03 R64, R65, spec/11 R207, spec/16 R282: TWAIT, TTRY and TWAITT. With every named token DONE the stream goes on, a wait with a
limit giving 1; with a POISONED one among them the wait-poison class names the lowest; with another state among them the stream
waits, or, its limit being 0 or run out, gives 0. TCLR frees the named tokens that are over, and with a PENDING one among them is
TOKEN_BUSY and changes none; TSTAT gives two bits for each named token; TANY gives the lowest named token that is over, 32 for an
empty set, and waits while there is none. -/
def Obligations.TokenWaitsAndStates : Prop :=
  (∀ (s : State) (rd ra rb : BitVec 6), Quiet s [ra, rb, rd] → Plain s →
     let set : W32 := (s.rS ra).truncate 32
     (s.tm.wait = none → (∀ n < 32, set.getLsbD n = true → tokenSt s n = .done) →
       (∃ t, exec (.twait ra) s = .next t ∧ GoesOn s t 0 0 ∧ t.tm.tok = s.tm.tok) ∧
       (∃ t, exec (.ttry rd ra) s = .next t ∧ GoesOn s t rd 1 ∧ t.tm.tok = s.tm.tok) ∧
       (∃ t, exec (.twaitt rd ra rb) s = .next t ∧ GoesOn s t rd 1 ∧ t.tm.tok = s.tm.tok)) ∧
     (∀ p < 32, s.tm.wait = none → (∀ n < 32, set.getLsbD n = true → tokenSt s n = .done ∨ tokenSt s n = .poisoned) →
       set.getLsbD p = true → tokenSt s p = .poisoned → (∀ n < p, set.getLsbD n = true → tokenSt s n = .done) →
       (s.takes s.cur .waitPoison = true → ∃ t, exec (.twait ra) s = .next t ∧ Enters s t 3 p) ∧
       (s.takes s.cur .waitPoison = false → ∃ t, exec (.twait ra) s = .next t ∧ GoesOn s t 0 0)) ∧
     (∀ p < 32, s.tm.wait = none → set.getLsbD p = true → tokenSt s p = .pending ∨ tokenSt s p = .free →
       (∃ t, exec (.twait ra) s = .next t ∧ Waits s t (.tokens set) none 0) ∧
       (s.tg.ttryi ≠ 0 → ∃ t, exec (.ttry rd ra) s = .next t ∧ Waits s t (.tokens set) (some s.tg.ttryi) 0) ∧
       (s.rS rb ≠ 0 → ∃ t, exec (.twaitt rd ra rb) s = .next t ∧ Waits s t (.tokens set) (some (s.rS rb).toNat) 0) ∧
       (s.rS rb = 0 → s.takes s.cur .waitExpired = false → ∃ t, exec (.twaitt rd ra rb) s = .next t ∧ GoesOn s t rd 0) ∧
       (s.rS rb = 0 → s.takes s.cur .waitExpired = true → ∃ t, exec (.twaitt rd ra rb) s = .next t ∧ Enters s t 4 0)) ∧
     (∀ w, s.tm.wait = some w → w.obj = .tokens set → w.result = some 0 → s.takes s.cur .waitExpired = false →
       (∃ t, exec (.ttry rd ra) s = .next t ∧ GoesOn s t rd 0) ∧
       (∃ t, exec (.twaitt rd ra rb) s = .next t ∧ GoesOn s t rd 0))) ∧
  (∀ (s : State) (rd ra : BitVec 6), Quiet s [ra, rd] →
     let set : W32 := (s.rS ra).truncate 32
     ((∀ n < 32, set.getLsbD n = true → tokenSt s n ≠ .pending) →
       ∃ t, exec (.tclr ra) s = .next t ∧ GoesOn s t 0 0 ∧
         ∀ n < 32, t.tm.getT n = if set.getLsbD n then Tok.blank else s.tm.getT n) ∧
     (∀ p < 32, set.getLsbD p = true → tokenSt s p = .pending → exec (.tclr ra) s = .next (s.scalarFault kTokenBusy .state 0)) ∧
     (Plain s → ∃ t v, exec (.tstat rd ra) s = .next t ∧ GoesOn s t rd v ∧
       ∀ n < 32, (v >>> (2 * n)) &&& 3 = if set.getLsbD n then BitVec.ofNat 64 (tokCode (tokenSt s n)) else 0) ∧
     (Plain s → s.tm.wait = none → set = 0 → ∃ t, exec (.tany rd ra) s = .next t ∧ GoesOn s t rd 32) ∧
     (∀ p < 32, Plain s → s.tm.wait = none → set.getLsbD p = true → tokenSt s p = .done →
       (∀ n < p, set.getLsbD n = true → tokenSt s n = .pending ∨ tokenSt s n = .free) →
       ∃ t, exec (.tany rd ra) s = .next t ∧ GoesOn s t rd (BitVec.ofNat 64 p)) ∧
     (Plain s → s.tm.wait = none → set ≠ 0 → (∀ n < 32, set.getLsbD n = true → tokenSt s n = .pending ∨ tokenSt s n = .free) →
       ∃ t, exec (.tany rd ra) s = .next t ∧ Waits s t (.tokens set) none 1))


/-! ## Barriers, groups and events -/

/-- spec/03 R66, spec/15 R265: the words that act on gang barriers and groups, for a member with no event on its way to the
barrier unit. -/
def Obligations.BarrierWords : Prop :=
  ∀ (s : State) (n : BitVec 4) (k : BitVec 3) (rd : BitVec 6),
    let g := gangOf s.cur
    let me := teamNum s.cur
    let b := s.tg.bar n.toNat
    let sends (i : Instr) (kind : BEvKind) (after : List Nat) : Prop :=
      ∃ t, exec i s = .next t ∧ GoesOn s t 0 0 ∧ (t.gang g).bevents = s.tg.bevents ++ [{ mem := me, kind := kind, after := after }]
    sends (.join k) (.join k) [] ∧ sends (.leave k) (.leave k) [] ∧
    (s.tm.wait = none → s.tg.unapplied me = false →
      (s.tg.belongs n.toNat me = false →
        exec (.barArr n) s = .next (s.scalarFault kProtection .state (n.zeroExtend 64)) ∧
        exec (.barWait n) s = .next (s.scalarFault kProtection .state (n.zeroExtend 64)) ∧
        exec (.barSync n) s = .next (s.scalarFault kProtection .state (n.zeroExtend 64))) ∧
      (s.tg.belongs n.toNat me = true → Released s → b.arrivals.getLsbD me = false →
        sends (.barArr n) (.arrive n false) (s.covered s.cur) ∧
        (∃ t, exec (.barSync n) s = .next t ∧ Waits s t (.barrier n) none 1 ∧
          (t.gang g).bevents = s.tg.bevents ++ [{ mem := me, kind := .arrive n false, after := s.covered s.cur }])) ∧
      (s.tg.belongs n.toNat me = true → Released s → b.arrivals.getLsbD me = true →
        ∃ t, exec (.barArr n) s = .next t ∧ Waits s t (.barrier n) none (b.phase.toNat + 2)) ∧
      (∀ p, s.tg.belongs n.toNat me = true → b.last.find? me = some (p, false) → p ≠ b.phase → b.poisoned.contains p = false →
        ∃ t, exec (.barWait n) s = .next t ∧ GoesOn s t 0 0) ∧
      (∀ p, s.tg.belongs n.toNat me = true → b.last.find? me = some (p, false) → p ≠ b.phase → b.poisoned.contains p = true →
        s.takes s.cur .poisonRead = true → ∃ t, exec (.barWait n) s = .next t ∧ Enters s t 2 n.toNat) ∧
      (s.tg.belongs n.toNat me = true → b.last.find? me = some (b.phase, false) →
        ∃ t, exec (.barWait n) s = .next t ∧ Waits s t (.barrier n) none (b.phase.toNat + 2)) ∧
      (b.arrivals = 0 → ∃ t, exec (.bind n k) s = .next t ∧ GoesOn s t 0 0 ∧ ((t.gang g).bar n.toNat).bound = some k ∧
        ((t.gang g).bar n.toNat).phase = b.phase) ∧
      (b.arrivals ≠ 0 → ∃ t, exec (.bind n k) s = .next t ∧ Waits s t (.barrier n) none (b.phase.toNat + 2) ∧
        ((t.gang g).bar n.toNat).rebind = some k ∧ ((t.gang g).bar n.toNat).bound = b.bound) ∧
      (Quiet s [rd] → ∃ t v, exec (.grp rd k) s = .next t ∧ GoesOn s t rd v ∧
        v.getLsbD 0 = (s.tg.group k.toNat).getLsbD me ∧
        (v >>> 16) &&& 0xFFFF = BitVec.ofNat 64 ((List.range 257).countP fun m => (s.tg.group k.toNat).getLsbD m) ∧
        ∀ j < 16, v.getLsbD (32 + j) = ((s.tg.bar j).bound == some k))) ∧
    (∀ w, s.tm.wait = some w → w.obj = .barrier n → w.phase = 1 → w.result = some 0 →
      ∃ t, exec (.barSync n) s = .next t ∧ GoesOn s t 0 0)

/-- spec/06 R130, R131, spec/03 R66: the barrier unit applies an arrival: the open phase completes when every member of the bound
group has arrived, and its number goes up by one with no arrivals left; a join and a leave change the group. The release of a
completed phase reaches a team that waits for it, with the phase's poison flag; while the phase is open the release stays on its
way. That an event which cannot take place is put back on the agenda is the model's schedule (log entry 4). -/
def Obligations.BarrierUnit : Prop :=
  (∀ (s : State) (m : Nat) (n : BitVec 4) (k : BitVec 3), m < 257 →
     let g := s.arg.x
     let x := s.gang g
     let b := x.bar n.toNat
     let bit : BitVec 257 := 1 <<< m
     let does (kind : BEvKind) (f : State → Prop) : Prop :=
       x.bevents = [{ mem := m, kind := kind, after := [] }] → ∃ t, exec .barrierUnitEvent s = .next t ∧ (t.gang g).bevents = [] ∧ f t
     (b.bound = some k → x.group k.toNat &&& ~~~(b.arrivals ||| bit) = 0 →
       does (.arrive n false) fun t => ((t.gang g).bar n.toNat).phase = b.phase + 1 ∧ ((t.gang g).bar n.toNat).arrivals = 0) ∧
     (b.bound = some k → x.group k.toNat &&& ~~~(b.arrivals ||| bit) ≠ 0 →
       does (.arrive n false) fun t =>
         ((t.gang g).bar n.toNat).phase = b.phase ∧ ((t.gang g).bar n.toNat).arrivals = b.arrivals ||| bit) ∧
     (does (.join k) fun t => (t.gang g).group k.toNat = x.group k.toNat ||| bit ∧ (t.gang g).bars = x.bars) ∧
     (does (.leave k) fun t => ((t.gang g).group k.toNat).getLsbD m = false)) ∧
  (∀ (s : State) (w : Wait) (n : BitVec 4) (p : W32),
     let u := s.arg.x
     let b := (s.gang (gangOf u)).bar n.toNat
     teamNum u ≠ 256 → (s.team u).wait = some w → w.obj = .barrier n → w.phase = p.toNat + 2 → w.result = none →
     (p ≠ b.phase → ∃ t, exec .barrierRelease s = .next t ∧
       (t.team u).wait = some { w with result := some (if b.poisoned.contains p then 1 else 0) }) ∧
     (p = b.phase → exec .barrierRelease s = .next (s.defer .barrierRelease)))


/-- spec/03 R66, R67, spec/07 R145: EVSIG sends a signal of a name in the partition's range, after the accesses its release
covers, and a name outside the range is a protection fault. The signal goes onto the model's agenda (log entry 4). -/
def Obligations.EventSignals : Prop :=
  ∀ (s : State) (ra : BitVec 6) (p : Part), Quiet s [ra] → s.parts.find? s.tg.part = some p →
    let name := (s.rS ra).toNat % 2 ^ 16
    (p.cfg.ev0 ≤ name → name ≤ p.cfg.ev1 → Released s → Plain s →
      exec (.evsig ra) s =
        .next (s.push [.event .eventSignal { Args.none with x := name, list := s.covered s.cur, y := ctxOf (gangOf s.cur) + 1 }]).advance) ∧
    (name < p.cfg.ev0 ∨ p.cfg.ev1 < name →
      exec (.evsig ra) s = .next (s.scalarFault kProtection .state (BitVec.ofNat 64 name)))

/-! ## Asynchronous operations, lane blocks and the register budget -/

/-- spec/03 R61, R62, spec/08 R154 to R157, R166, R167, spec/12 R233, R234: the words that issue an operation into a token. -/
def Obligations.AsynchronousIssue : Prop :=
  ∀ (s : State) (td : BitVec 5) (sp ra rb : BitVec 6) (q : BitVec 2) (f : BitVec 3) (word : Bool), Quiet s [sp, ra, rb] →
    let w := s.rS ra
    let set := s.rS sp
    let mk := s.memberOf s.cur
    (GlobalOk s w (widthOf word) Leaf.loads → Issues (.sldg td sp ra rb word) s td set fun t x =>
      x.kind = .sldg word ∧ x.reg = rb.toNat ∧ x.reqs.map Req.addr = [w.toNat] ∧ t.tm.uncovered rb = (rb != 0)) ∧
    (GlobalOk s w (widthOf word) Leaf.stores → Issues (.sstg td sp ra rb word) s td set fun _ x =>
      x.kind = .sstg word ∧ x.reqs.map Req.addr = [w.toNat] ∧
        x.reqs.map Req.data = [(List.range (widthOf word)).map (byteOf (s.rS rb))]) ∧
    (BlockWordOk s w 64 64 → ((s.member mk).queues.get [] q.toNat).length < 16 →
      Issues (.cpy td sp ra q) s td set fun t x => x.kind = .copy ∧ x.queue = q.toNat ∧ x.a = w ∧
        (t.member mk).queues.get [] q.toNat = (s.member mk).queues.get [] q.toNat ++ [s.nextOp]) ∧
    (BlockWordOk s w 32 32 → Issues (.cbld td sp ra f) s td set fun _ x => x.kind = .cbld f.toNat ∧ x.a = w) ∧
    (BlockWordOk s w 64 64 → Issues (.cpbi td sp ra) s td set fun _ x => x.kind = .cpbi ∧ x.a = w) ∧
    (s.tm.copy = true → w.toNat % 16 = 0 →
      Issues (.unseal td sp ra) s td set (fun _ x => x.kind = .unseal ∧ x.a = w) ∧
      Issues (.vref td sp ra) s td set (fun _ x => x.kind = .vref ∧ x.a = w) ∧
      (s.rS rb ≠ 0 → (s.rS rb).toNat < 2 ^ 16 →
        Issues (.seal td sp ra rb) s td set fun _ x => x.kind = .seal ∧ x.a = w ∧ x.b = s.rS rb)) ∧
    (∀ p, s.parts.find? s.tg.part = some p → w.toNat < 2 ^ 14 → p.cfg.slot0 ≤ w.toNat % 2 ^ 12 → w.toNat % 2 ^ 12 ≤ p.cfg.slot1 →
      BlockWordOk s (s.rS rb) 64 64 → Issues (.trig td sp ra rb) s td set fun _ x =>
        x.kind = .trig ∧ x.queue = w.toNat / 2 ^ 12 ∧ x.b = w ∧ x.a = s.rS rb) ∧
    (BlockWordOk s w 64 64 →
      Issues (.xred td sp ra) s td set (fun _ x => x.kind = .xred ∧ x.a = w) ∧
      Issues (.xgat td sp ra) s td set (fun _ x => x.kind = .xgat ∧ x.a = w) ∧
      Issues (.xa2a td sp ra) s td set (fun _ x => x.kind = .xa2a ∧ x.a = w))

/-- spec/08 R156, spec/06 R118: the checks of a block address word, in their order: a reserved bit, a space that is not admitted,
a team that is no copy team, alignment, the partition. Their order is the model's (log entry 31). -/
def Obligations.BlockWordChecks : Prop :=
  ∀ (s : State) (td : BitVec 5) (sp ra : BitVec 6) (q : BitVec 2), Quiet s [sp, ra] →
    let w := s.rS ra
    let a := bits w.toNat 0 54
    let space := bits w.toNat 54 4
    let arg := bits w.toNat 58 6
    let stops (kind : Nat) (r : Reason) (addr : W64) : Prop := exec (.cpy td sp ra q) s = .next (s.scalarFault kind r addr)
    (arg ≠ 0 → stops kIllegal .reserved 0) ∧
    (arg = 0 → 1 < space → stops kIllegal .value 0) ∧
    (arg = 0 → space ≤ 1 → s.tm.copy = false → stops kIllegal .state 0) ∧
    (arg = 0 → space ≤ 1 → s.tm.copy = true → a % 64 ≠ 0 → stops kMisaligned .state (BitVec.ofNat 64 a)) ∧
    (arg = 0 → space = 1 → s.tm.copy = true → a % 64 = 0 → s.padSize (gangOf s.cur) < a + 64 →
      stops kOutOfPart .state (BitVec.ofNat 64 a)) ∧
    (BlockWordOk s w 64 64 → tokenSt s td.toNat ≠ .pending → 16 ≤ ((s.member (s.memberOf s.cur)).queues.get [] q.toNat).length →
      s.tm.wait = none → ∃ t, exec (.cpy td sp ra q) s = .next t ∧ Waits s t (.copyQueue q.toNat) none 0)

/-- spec/12 R221: the phase-barrier words; TEXP leaves its token as it is. -/
def Obligations.PhaseBarrierIssue : Prop :=
  ∀ (s : State) (td : BitVec 5) (sp ra rb : BitVec 6), Quiet s [sp, ra, rb] → BarrierWordOk s (s.rS ra) →
    let w := s.rS ra
    let v := s.rS rb
    let set := s.rS sp
    let scope := bits v.toNat 24 3
    (1 ≤ bits v.toNat 0 24 → bits v.toNat 27 37 = 0 → (pbSpace w = 0 → 1 ≤ scope ∧ scope ≤ 3) → (pbSpace w ≠ 0 → scope = 0) →
      Issues (.pinit td sp ra rb) s td set fun _ x => x.kind = .pinit ∧ x.a = w ∧ x.b = v) ∧
    (v.toNat < 2 ^ 35 → Issues (.pexp td sp ra rb) s td set fun _ x => x.kind = .pexp ∧ x.a = w ∧ x.b = v) ∧
    (Released s → Issues (.parr td sp ra) s td set fun _ x =>
      x.kind = .parr ∧ x.a = w ∧ ∀ o ∈ s.issuedBefore s.cur, o ∈ x.after) ∧
    (tokenSt s td.toNat = .free → exec (.texp td sp ra) s = .next (s.scalarFault kIllegal .value 0)) ∧
    (tokenSt s td.toNat ≠ .free → Released s → ∃ t x, exec (.texp td sp ra) s = .next t ∧ GoesOn s t 0 0 ∧
      t.ops = s.ops.set s.nextOp x ∧ t.tm.tok = s.tm.tok ∧ x.kind = .texp td.toNat ∧ x.a = w ∧
      (x.waiting.getLsbD td.toNat = true ↔ tokenSt s td.toNat = .pending) ∧ ∀ o ∈ s.issuedBefore s.cur, o ∈ x.after)

/-- spec/12 R222, spec/16 R282: PWAIT and PTRY at a barrier of the team's own scratchpad: a phase that is over gives its status at
once, an open one makes PWAIT wait and PTRY wait with the launch's limit, and a barrier that does not suit is a protection fault.
The status that a wait with a limit gives is read as log entry 40 says. -/
def Obligations.PhaseWaits : Prop :=
  ∀ (s : State) (rd ra rb : BitVec 6), Quiet s [ra, rb, rd] → BarrierWordOk s (s.rS ra) → Plain s → s.tm.wait = none →
    pbSpace (s.rS ra) = 1 →
    let m := s.member (s.memberOf s.cur)
    let a := pbAddr (s.rS ra)
    let b := s.pbPad (s.memberOf s.cur) a
    let p : W32 := (s.rS rb).truncate 32
    let d := (b.phase - p).toNat
    let ready := b.init = true ∧ b.scope = 0 ∧ m.lineSt a ≠ 2
    (¬ ready → exec (.pwait rd ra rb) s = .next (s.scalarFault kProtection .state (BitVec.ofNat 64 a)) ∧
      exec (.ptry rd ra rb) s = .next (s.scalarFault kProtection .state (BitVec.ofNat 64 a))) ∧
    (ready → d = 1 → b.pois = false →
      (∃ t, exec (.pwait rd ra rb) s = .next t ∧ GoesOn s t rd (BitVec.ofNat 64 (b.phase.toNat * 2 ^ 32 + 1))) ∧
      (∃ t, exec (.ptry rd ra rb) s = .next t ∧ GoesOn s t rd (BitVec.ofNat 64 (b.phase.toNat * 2 ^ 32 + 1)))) ∧
    (ready → 2 ≤ d → d ≤ 2 ^ 31 →
      ∃ t, exec (.pwait rd ra rb) s = .next t ∧ GoesOn s t rd (BitVec.ofNat 64 (b.phase.toNat * 2 ^ 32 + 5))) ∧
    (ready → d = 1 → b.pois = true → s.takes s.cur .waitPoison = true →
      ∃ t, exec (.pwait rd ra rb) s = .next t ∧ Enters s t 3 0x100) ∧
    (ready → d = 0 ∨ 2 ^ 31 < d →
      (∃ t, exec (.pwait rd ra rb) s = .next t ∧ Waits s t (.phaseBar (s.rS ra)) none (p.toNat + 1)) ∧
      (s.tg.ttryi ≠ 0 → ∃ t, exec (.ptry rd ra rb) s = .next t ∧
        Waits s t (.phaseBar (s.rS ra)) (some s.tg.ttryi) (p.toNat + 1)))

/-- spec/03 R63, spec/01 R12: LRUN and LRUNR put a block into the team's queue with its precondition set and budget; an index
beyond the section, whose end is left open (log entry 16), and a copy team are illegal, and a full queue makes the stream wait. That
the queue holds 8 waiting blocks is the model's choice (log entry 32), as is the order of the checks (log entry 31). -/
def Obligations.LaneBlockDispatch : Prop :=
  ∀ (s : State) (td : BitVec 5) (sp ra : BitVec 6) (l : BitVec 14), Quiet s [sp, ra] →
    let runs (i : Instr) (idx : Nat) : Prop :=
      (s.tm.copy = true ∨ s.tm.lanes ≤ idx → exec i s = .next (s.scalarFault kIllegal .state 0)) ∧
      (s.tm.copy = false → idx < s.tm.lanes → 8 ≤ s.tm.queued → s.tm.wait = none → ∃ t, exec i s = .next t ∧ Waits s t .queue none 0) ∧
      (s.tm.copy = false → idx < s.tm.lanes → s.tm.queued < 8 → tokenSt s td.toNat = .pending →
        exec i s = .next (s.scalarFault kTokenBusy .state 0)) ∧
      (s.tm.copy = false → idx < s.tm.lanes → s.tm.queued < 8 → tokenSt s td.toNat ≠ .pending →
        ∃ t b, exec i s = .next t ∧ GoesOn s t 0 0 ∧ t.tm.getT td.toNat = Tok.pending ∧ t.tm.queue = s.tm.queue ++ [.block b] ∧
          b.idx = idx ∧ b.tok = td.toNat ∧ b.disp = s.tm.disp ∧ t.tm.disp = s.tm.disp + 1 ∧ b.budget = s.tm.budget ∧
          (∀ n < 32, b.waiting.getLsbD n =
            ((s.rS sp).getLsbD n && tokenSt s n != .done && tokenSt s n != .poisoned)) ∧
          (s.tm.dirty = [] → s.tm.loads = [] → b.snap = s.tm.s))
    runs (.lrun td sp l) l.toNat ∧ runs (.lrunr td sp ra) (s.rS ra).toNat

/-- spec/03 R68, R69, spec/06 R133: FMT and the register budget of a lane team with no block under way. That the limit of 32 blocks is tested before the pool is the model's order (log entry 31). -/
def Obligations.FormatAndBudget : Prop :=
  ∀ (s : State) (rd ra : BitVec 6) (v : BitVec 5), Quiet s [ra, rd] →
    let b := (s.rS ra).toNat
    let free := s.freeUnits (gangOf s.cur) s.tm.core
    let mk := s.memberOf s.cur
    (s.tm.copy = true →
      exec (.fmtset ra) s = .next (s.scalarFault kIllegal .state 0) ∧ exec (.fmtseti v) s = .next (s.scalarFault kIllegal .state 0) ∧
      exec (.fmtget rd) s = .next (s.scalarFault kIllegal .state 0) ∧ exec (.vgrow rd ra) s = .next (s.scalarFault kIllegal .value 0) ∧
      exec (.vgrowT rd ra) s = .next (s.scalarFault kIllegal .value 0) ∧
      exec (.vshrink ra) s = .next (s.scalarFault kIllegal .value 0)) ∧
    (s.tm.copy = false → s.tm.lanesIdle = true →
      (∃ t, exec (.fmtset ra) s = .next t ∧ GoesOn s t 0 0 ∧ t.tm.fmt = (s.rS ra).truncate 32 &&& 0x1F) ∧
      (∃ t, exec (.fmtseti v) s = .next t ∧ GoesOn s t 0 0 ∧ t.tm.fmt = v.zeroExtend 32) ∧
      (∃ t, exec (.fmtget rd) s = .next t ∧ GoesOn s t rd (s.tm.fmt.zeroExtend 64)) ∧
      (∃ t, exec (.vshrink ra) s = .next t ∧ GoesOn s t 0 0 ∧ t.tm.budget = s.tm.budget - min b (s.tm.budget - 1))) ∧
    (s.tm.copy = false → s.tm.lanesIdle = false →
      ∃ t, exec (.fmtseti v) s = .next t ∧ GoesOn s t 0 0 ∧ t.tm.fmt = s.tm.fmt ∧ t.tm.queue = s.tm.queue ++ [.fmt (v.zeroExtend 32)]) ∧
    (s.tm.copy = false → s.tm.wait = none →
      let both (p : Instr → Prop) : Prop := p (.vgrow rd ra) ∧ p (.vgrowT rd ra)
      (b = 0 → both fun i => ∃ t, exec i s = .next t ∧ GoesOn s t rd 0 ∧ t.tm.budget = s.tm.budget) ∧
      (32 < s.tm.budget + b → b ≠ 0 → both fun i => ∃ t, exec i s = .next t ∧ GoesOn s t rd 2 ∧ t.tm.budget = s.tm.budget) ∧
      (s.tm.budget + b ≤ 32 → b ≠ 0 → s.hopeless s.cur b = true →
        both fun i => ∃ t, exec i s = .next t ∧ GoesOn s t rd 1 ∧ t.tm.budget = s.tm.budget) ∧
      (s.tm.budget + b ≤ 32 → b ≠ 0 → s.hopeless s.cur b = false → (s.member mk).vq = [] → s.tm.units b ≤ free →
        both fun i => ∃ t, exec i s = .next t ∧ GoesOn s t rd 0 ∧ t.tm.budget = s.tm.budget + b ∧
          ∀ r l, l < 1024 → t.tm.v.get 0 (r * 1024 + l) =
            if 8 * s.tm.budget ≤ r ∧ r < 8 * (s.tm.budget + b) then 0 else s.tm.v.get 0 (r * 1024 + l)) ∧
      (s.tm.budget + b ≤ 32 → b ≠ 0 → s.hopeless s.cur b = false → free < s.tm.units b →
        (∃ t, exec (.vgrow rd ra) s = .next t ∧ Waits s t (.pool b) none 0 ∧ (t.member mk).vq = (s.member mk).vq ++ [s.cur]) ∧
        (∃ t, exec (.vgrowT rd ra) s = .next t ∧ GoesOn s t rd 3 ∧ t.tm.budget = s.tm.budget)))

/-! ## Fences, watch sets and the end of a team -/

/-- spec/12 R224, R225, R227, R228, spec/22 R350: FENCE holds the accesses that it covers before later ones and does not block;
CHK settles a watch set and WCLR discards one. What a FENCE covers is held in the model's own list (log entry 34). -/
def Obligations.FencesAndChecks : Prop :=
  ∀ (s : State) (scope w : BitVec 2) (mask : BitVec 4) (off : BitVec 13),
    let lanes := s.tm.struckLanes w
    let there := s.tm.pc + 4 * BitVec.ofInt 64 off.toInt
    let others (t : State) : Prop := t.tm.watch = s.tm.watch.filter fun e => e.set != w
    (∀ kind : BitVec 2, kind ≠ 3 → kind = 0 ∨ Released s → s.fenceCover kind = [] →
      exec (.fence kind scope) s = .next s.advance) ∧
    (∀ kind : BitVec 2, kind = 0 ∨ Released s → s.fenceCover kind ≠ [] →
      ∃ t, exec (.fence kind scope) s = .next t ∧ GoesOn s t 0 0 ∧
        t.tm.fences = s.tm.fences ++ [{ cover := s.fenceCover kind, cst := kind == 3 }]) ∧
    (Released s → s.fenceCover 3 = [] → ∃ t, exec (.fence 3 scope) s = .next t ∧ GoesOn s t 0 0 ∧
      (t.core (s.teamCore s.cur)).cc = []) ∧
    (∀ kind : BitVec 2, kind ≠ 0 → s.tm.lanesIdle = true → s.tm.watchAny .unresolved = false → s.tm.watchAny .struck = true →
      exec (.fence kind scope) s = .next (s.scalarFault kStrike .state 0)) ∧
    (Plain s → s.tm.lanesIdle = true → (s.tm.watch.any fun e => e.set == w && e.st == .unresolved) = false →
      (lanes = 0 → ∃ t, exec (.chk w mask off) s = .next t ∧ GoesOn s t 0 0 ∧ others t) ∧
      (lanes ≠ 0 → Executable s there → ∃ t, exec (.chk w mask off) s = .next t ∧ t.tm.pc = there ∧ others t ∧
        t.tm.rwc = s.tm.rwc + 1 ∧ (s.tm.copy = false → t.tm.getM mask.toNat = lanes &&& s.tm.allLanes))) ∧
    (s.tm.lanesIdle = true → ∃ t, exec (.wclr w) s = .next t ∧ GoesOn s t 0 0 ∧ others t)

/-- spec/03 R72, R73, spec/24 R372: EXIT of a team with no PENDING token ends it and takes it out of every group; with one it
waits; BRK only retires where no session is attached, and stops the context where one is; NOP only retires. That EXIT does not wait
for operations without a token is the model's reading (log entry 66). -/
def Obligations.EndOfTeam : Prop :=
  ∀ s : State,
    let g := gangOf s.cur
    (Released s → s.tm.pendingSet = 0 →
      (∃ u ∈ s.teamsOf g, u ≠ s.cur ∧ (s.team u).exited = false) ∨ (s.tg.hasSeq = true ∧ s.tg.halted = false) →
      ∃ t, exec .exit s = .next t ∧ (t.team s.cur).exited = true ∧ (t.team s.cur).rwc = s.tm.rwc + 1 ∧
        (t.gang g).bevents = s.tg.bevents ++ [{ mem := teamNum s.cur, kind := .leaveAll, after := [] }]) ∧
    (Released s → s.tm.pendingSet ≠ 0 → s.tm.wait = none →
      ∃ t, exec .exit s = .next t ∧ t.tm.wait.map Wait.obj = some (.tokens s.tm.pendingSet) ∧ t.tm.exited = s.tm.exited ∧
        t.tm.pc = s.tm.pc) ∧
    (s.debugged g = false → exec .brk s = .next s.advance) ∧
    (∀ c, s.debugged g = true → s.replaying g = false → s.ctxs.find? (ctxOf g) = some c → c.st ≠ .ended →
      ∃ t c', exec .brk s = .next t ∧ t.tm.pc = s.tm.pc + 4 ∧ t.tm.rwc = s.tm.rwc + 1 ∧
        t.ctxs.find? (ctxOf g) = some c' ∧ c'.halt = true) ∧
    exec .nop s = .next s.advance

/-! ## Faults and the journal -/

/-- spec/16 R281, R284, R286, R288, spec/02 R45: a fatal fault of a scalar instruction changes no register, leaves the stream at the
instruction, raises the halt line of its context alone, and its record (here one that the full ring holds back) has the kind, in
a handler HANDLER_FAULT with the kind inside, the address of the instruction and its word. spec/16 R285: a record of a partition
goes into its ring; with the ring full, or records held, up to 256 are held in order, and further ones are dropped and counted;
each takes the next ERRSEQ. -/
def Obligations.FatalFaultsAndTheirRecords : Prop :=
  (∀ (s : State) (kind : Nat) (addr : W64) (c : Ctx) (p : Part),
     let g := gangOf s.cur
     let t := s.scalarFault kind .state addr
     0 < kind → kind < 256 → s.replaying (gangKey (ctxOf g) s.tg.idx) = false → s.ctxs.find? (ctxOf g) = some c → c.st ≠ .ended →
     s.parts.find? (partOf (ctxOf g)) = some p → p.heldF ≠ [] → p.heldF.length < 256 →
     t.cur = s.cur ∧ t.tm = { s.tm with stopped := true, stopAt := s.cycleReg (s.teamCore s.cur) } ∧ (∀ u, u ≠ s.cur → t.team u = s.team u) ∧
     (∀ a, t.memByte a = s.memByte a) ∧
     (∃ c', t.ctxs.find? (ctxOf g) = some c' ∧ c'.halt = true ∧ c'.fatal = true) ∧
     (∀ k, k ≠ ctxOf g → t.ctxs.find? k = s.ctxs.find? k) ∧
     ∃ p' ws, t.parts.find? (partOf (ctxOf g)) = some p' ∧ p'.heldF = p.heldF ++ [ws] ∧ p'.errseq = p.errseq + 1 ∧
       (ws.getD 0 0).toNat % 256 = (if s.tm.hm then 0x18 else kind) ∧
       (ws.getD 5 0).toNat / 2 ^ 40 % 256 = (if s.tm.hm then kind else 0) ∧
       ws.getD 3 0 = s.tm.pc ∧ ws.getD 4 0 = s.word ∧ ws.getD 6 0 = if s.tm.hm then 0 else addr) ∧
  (∀ (s : State) (k : Nat) (ctx : Option Nat) (f : FRec) (p : Part), s.parts.find? k = some p →
     let r := s.faultRecord k ctx f
     let ws := f.words p.errseq p.lost ctx s.ns
     r.2 = p.errseq ∧
     (∃ p', r.1.parts.find? k = some p' ∧ p'.errseq = p.errseq + 1 ∧
       (p.heldF = [] → s.ringFree p.cfg.faultq 31 = true → p'.heldF = [] ∧ p'.lost = 0) ∧
       (p.heldF ≠ [] ∨ s.ringFree p.cfg.faultq 31 = false → p.heldF.length < 256 →
         p'.heldF = p.heldF ++ [ws] ∧ p'.lost = 0 ∧ ∀ a, r.1.memByte a = s.memByte a) ∧
       (256 ≤ p.heldF.length → p'.heldF = p.heldF ∧ p'.lost = p.lost + 1 ∧ ∀ a, r.1.memByte a = s.memByte a)) ∧
     ∀ j, j ≠ k → r.1.parts.find? j = s.parts.find? j)


/-- spec/24 R367, R369: what a recording gang's SRD of CYCLE gives is journalled under the stream and its count; a replayed gang's
takes the journalled value. How the journal is kept is the model's (log entry 21). -/
def Obligations.CycleReadsAreJournalled : Prop :=
  ∀ (s : State) (rd : BitVec 6), Quiet s [rd] →
    let g := gangOf s.cur
    (s.recording g = true → ∃ t, exec (.srd rd 0x011) s = .next t ∧ GoesOn s t rd (s.cycleReg (s.teamCore s.cur)) ∧
      t.journals.get [] g = s.journals.get [] g ++
        [{ agent := .scalar s.cur, count := s.tm.rwc, val := [s.cycleReg (s.teamCore s.cur)] }]) ∧
    (∀ (v : W64) (rest : List JEntry), s.replaying g = true →
      s.replayJ.get [] g = { agent := .scalar s.cur, count := s.tm.rwc, val := [v] } :: rest →
      ∃ t, exec (.srd rd 0x011) s = .next t ∧ GoesOn s t rd v ∧ t.replayJ.get [] g = rest)

/-! ## The lane stream: arithmetic -/

/-- spec/04 R80 to R83: the integer lane instructions, element by element of the type in MOD, and the whole-word ones. -/
def Obligations.LaneIntegerResults : Prop :=
  ∀ (s : State) (b : Block) (f : LaneF), isReg f.dst.toNat →
    let ty := f.hi3
    let w := elemWidth ty
    let z := elemInt ty
    let ready (opc : Nat) : Prop := LaneReady s b f (laneRegs opc f)
    let va (l : Nat) := laneVal s b f f.sa l
    let vb (l : Nat) := laneVal s b f f.sb l
    let vc (l : Nat) := laneVal s b f f.sc l
    let lo (l : Nat) : Nat := (vb l).toNat % 32
    let n (l : Nat) : Nat := min ((vc l).toNat % 64) 32
    (ready 0x000 → LaneElems (.vadd f) s b f fun x y _ r => r = (x + y) % 2 ^ w) ∧
    (ready 0x001 → LaneElems (.vsub f) s b f fun x y _ r => (r + y) % 2 ^ w = x) ∧
    (ready 0x002 → LaneElems (.vmul f) s b f fun x y _ r => r = x * y % 2 ^ w) ∧
    (ready 0x003 → LaneElems (.vmulh f) s b f fun x y _ r => (r : Int) = z x * z y / 2 ^ w % 2 ^ w) ∧
    (ready 0x004 → LaneElems (.vmad f) s b f fun x y c r => r = (x * y + c) % 2 ^ w) ∧
    (ready 0x005 → LaneElems (.vmin f) s b f fun x y _ r => r = if z x < z y then x else y) ∧
    (ready 0x006 → LaneElems (.vmax f) s b f fun x y _ r => r = if z x < z y then y else x) ∧
    (ready 0x007 → LaneElems (.vabs f) s b f fun x _ _ r => r = (z x).natAbs % 2 ^ w) ∧
    (ready 0x008 → LaneElems (.vneg f) s b f fun x _ _ r => (r + x) % 2 ^ w = 0) ∧
    (ready 0x009 → LaneGives (.vand f) s b f fun l v => v = va l &&& vb l) ∧
    (ready 0x00A → LaneGives (.vor f) s b f fun l v => v = va l ||| vb l) ∧
    (ready 0x00B → LaneGives (.vxor f) s b f fun l v => v = va l ^^^ vb l) ∧
    (ready 0x00C → LaneGives (.vnot f) s b f fun l v => v = ~~~va l) ∧
    (ready 0x00D → LaneElems (.vshl f) s b f fun x y _ r => r = x * 2 ^ (y % w) % 2 ^ w) ∧
    (ready 0x00E → LaneElems (.vshr f) s b f fun x y _ r => r = x / 2 ^ (y % w)) ∧
    (ready 0x00F → LaneElems (.vsra f) s b f fun x y _ r => (r : Int) = readSigned w x / 2 ^ (y % w) % 2 ^ w) ∧
    (ready 0x010 → LaneElems (.vrot f) s b f fun x y _ r => ∀ j < w, r.testBit j = x.testBit ((j + w - y % w) % w)) ∧
    (ready 0x011 → LaneElems (.vclz f) s b f fun x _ _ r => r ≤ w ∧ x < 2 ^ (w - r) ∧ (r < w → 2 ^ (w - 1 - r) ≤ x)) ∧
    (ready 0x012 → LaneElems (.vpop f) s b f fun x _ _ r => r = (List.range w).countP fun j => x.testBit j) ∧
    (ready 0x013 → LaneGives (.vbfx f) s b f fun l v => ∀ j < 32, v.getLsbD j =
      if j < n l then (va l).getLsbD (lo l + j) else decide (0 < n l) && elemSigned ty && (va l).getLsbD (lo l + n l - 1)) ∧
    (ready 0x014 → LaneGives (.vbfi f) s b f fun l v => ∀ j < 32, v.getLsbD j =
      if lo l ≤ j ∧ j < lo l + n l then (va l).getLsbD (j - lo l) else (laneVal s b f f.dst l).getLsbD j) ∧
    (ready 0x015 → LaneElems (.vsel f) s b f fun x y c r => r = if c = 0 then y else x) ∧
    (ready 0x016 → LaneGives (.vmov f) s b f fun l v => v = va l) ∧
    (ready 0x017 → LaneElems (.vcmp f) s b f fun x y _ r =>
      r = if relHolds f.mid3 (decide (z x < z y)) (decide (x = y)) then 2 ^ w - 1 else 0)

/-- spec/04 R84 to R88: the float lane instructions, each by its function on codes of the format. The last bits of exp2 and log2
rest on the precision of log entry 9, and the results of VFCMP and VFCLS on log entry 46. -/
def Obligations.LaneFloatResults : Prop :=
  ∀ (s : State) (b : Block) (f : LaneF),
    let gives := fun (i : LaneF → Instr) opc g => LaneFloatGives (i f) s b f opc g
    gives .vfadd 0x040 (fun x m a c _ => x.add m (x.value a) (x.value c)) ∧
    gives .vfsub 0x041 (fun x m a c _ => x.add m (x.value a) (x.value c).negate) ∧
    gives .vfmul 0x042 (fun x m a c _ => x.mul m (x.value a) (x.value c)) ∧
    gives .vfma 0x043 (fun x m a c d => x.fused m ((x.value a).times (x.value c)) (x.value d)) ∧
    gives .vfms 0x044 (fun x m a c d => x.fused m ((x.value a).times (x.value c)) (x.value d).negate) ∧
    gives .vfnma 0x045 (fun x m a c d => x.fused m ((x.value a).times (x.value c)).negate (x.value d)) ∧
    gives .vfmin 0x046 (fun x _ a c _ => x.minMax false a c) ∧
    gives .vfmax 0x047 (fun x _ a c _ => x.minMax true a c) ∧
    gives .vfdiv 0x048 (fun x m a c _ => x.div m (x.value a) (x.value c)) ∧
    gives .vfsqrt 0x049 (fun x m a _ _ => x.sqrt m (x.value a)) ∧
    gives .vfrcp 0x04A (fun x m a _ _ => x.div m (.fin false (2 ^ 149)) (x.value a)) ∧
    gives .vfrsq 0x04B (fun x m a _ _ => x.rsqrt m (x.value a)) ∧
    gives .vfabs 0x04C (fun x _ a _ _ => x.absolute a) ∧
    gives .vfneg 0x04D (fun x _ a _ _ => x.negated a) ∧
    gives .vfcmp 0x04E (fun x _ a c _ => if floatRel f.up3 (x.value a) (x.value c) then 2 ^ x.width - 1 else 0) ∧
    gives .vfcls 0x051 (fun x _ a _ _ => 2 ^ x.classBit a) ∧
    gives .vfexp2 0x052 (fun x m a _ _ => x.exp2 m (x.value a)) ∧
    gives .vflog2 0x053 (fun x m a _ _ => x.log2 m (x.value a))

/-- spec/10 R188, R192: rounding an exact value of a format gives its code, in every mode: the sum of a number and the zero of its
sign, and the product of a number with 1, is the number. -/
def Obligations.ExactResultsAreNotRounded : Prop :=
  ∀ (x : FFmt) (m : RMode) (neg : Bool) (c : Nat), x ∈ [f32, f16, b16, e4m3, e5m2] → 0 < c → c ≤ x.big →
    let code := x.signed neg c
    x.add m (x.value code) (.fin neg 0) = code ∧ x.mul m (x.value code) (.fin false (2 ^ 149)) = code ∧
      x.add m (x.value code) (x.value (x.signed (!neg) c)) = x.zero (decide (m = .rdn))

/-- spec/04 R93, R94: the conversions, with the mode and the saturation that they or FMT name. -/
def Obligations.LaneConversionResults : Prop :=
  ∀ (s : State) (b : Block) (f : LaneF), isReg f.dst.toNat →
    let ready (opc : Nat) : Prop := LaneReady s b f (laneRegs opc f)
    let cv (x : W32) : W32 := convertElem (s.cvtMode f) s.saturates f.dfmt f.sfmt x.toNat
    let va (l : Nat) := laneVal s b f f.sa l
    let vb (l : Nat) := laneVal s b f f.sb l
    let n := f.imm.toNat / 8 % 8
    let fifo := (s.member (s.memberOf s.cur)).fifos.get .blank n
    (ready 0x080 → LaneGives (.vcvt f) s b f fun l v => v = cv (va l)) ∧
    (ready 0x081 → LaneGives (.vcvti f) s b f fun l v => v = cv (va l)) ∧
    (ready 0x082 → formatBits f.dfmt = 16 → LaneGives (.vpack f) s b f fun l v =>
      v.truncate 16 = (cv (va l)).truncate 16 ∧ (v >>> 16).truncate 16 = (cv (vb l)).truncate 16) ∧
    (ready 0x082 → formatBits f.dfmt = 8 → LaneGives (.vpack f) s b f fun l v =>
      let high := f.imm.getLsbD 0
      let half : BitVec 16 := (cv (vb l)).truncate 8 ++ (cv (va l)).truncate 8
      let old := laneVal s b f f.dst l
      v = if high then half ++ old.truncate 16 else (old >>> 16).truncate 16 ++ half) ∧
    (ready 0x083 → LaneGives (.vunpk f) s b f fun l v =>
      let w := formatBits f.sfmt
      let i := if w = 16 then f.imm.toNat % 2 else f.imm.toNat % 4
      v = convertElem .rne false f.dfmt f.sfmt ((va l).toNat / 2 ^ (w * i))) ∧
    (ready 0x084 → fifo.declared = true → fifo.cbld = none →
      LaneGives (.vcbd f) s b f fun l v =>
        let e := (listGet 0 fifo.code ((va l).toNat / 2 ^ (4 * (f.imm.toNat % 8)) % 16)).toNat
        v = if f.dfmt = 2 then BitVec.ofNat 32 e else convertElem .rne false 0 2 e) ∧
    (∀ sp, laneSpec 0x084 = some sp → s.tm.running = some b → fifo.declared = false →
      exec (.vcbd f) s = .next (s.fresh.laneFault kIllegal .value 0 0))

/-- spec/04 R98: the mask instructions, a bit in each active lane. -/
def Obligations.LaneMaskResults : Prop :=
  ∀ (s : State) (b : Block) (f : LaneF), isReg f.dst.toNat →
    let ready (opc : Nat) : Prop := LaneReady s b f (laneRegs opc f)
    let p (l : Nat) : Prop := laneVal s b f f.sa l ≠ 0
    let q (l : Nat) : Prop := laneVal s b f f.sb l ≠ 0
    (ready 0x0A7 → LaneGives (.mand f) s b f fun l v => v ≠ 0 ↔ p l ∧ q l) ∧
    (ready 0x0A8 → LaneGives (.mor f) s b f fun l v => v ≠ 0 ↔ p l ∨ q l) ∧
    (ready 0x0A9 → LaneGives (.mxor f) s b f fun l v => v ≠ 0 ↔ ¬(p l ↔ q l)) ∧
    (ready 0x0AA → LaneGives (.mandn f) s b f fun l v => v ≠ 0 ↔ p l ∧ ¬q l) ∧
    (ready 0x0AB → LaneGives (.mnot f) s b f fun l v => v ≠ 0 ↔ ¬p l) ∧
    (ready 0x0AC → LaneGives (.mmov f) s b f fun l v => v ≠ 0 ↔ p l) ∧
    (ready 0x0AD → LaneGives (.mset f) s b f fun l v => v ≠ 0 ↔ f.imm.getLsbD (l % 32) = true)

/-- spec/04 R79, R99, R100: shuffles, broadcasts, scans, reductions and ballots over the active lanes; what one writes to a scalar
register becomes a value that the rest of its block may read as well (log entry 36). -/
def Obligations.CrossLaneResults : Prop :=
  ∀ (s : State) (b : Block) (f : LaneF),
    let ready (opc : Nat) : Prop := LaneReady s b f (laneRegs opc f)
    let va (l : Nat) := laneVal s b f f.sa l
    let vb (l : Nat) := laneVal s b f f.sb l
    let w := s.tm.width
    let fold (lanes : List Nat) : Option W32 := foldLanes s.fmtMode f.hi3 f.mid3 va lanes
    let ballot (j : Nat) : W64 → Prop := fun v => ∀ i < 32,
      v.getLsbD i = (activeLane s f (32 * j + i) && va (32 * j + i) != 0)
    let toScalar (i : Instr) (p : W64 → Prop) : Prop :=
      ∃ t v b', exec i s = .next t ∧ LaneRetired s t f b' ∧ (∀ c, isReg c → SameReg s t c) ∧ p v ∧
        b' = (if f.e = true ∨ f.dst = 288 then b else { b with later := [(f.dst.toNat - 288, v)] }) ∧
        ∀ r : BitVec 6, t.rS r = if r.toNat = f.dst.toNat - 288 ∧ r ≠ 0 then v else s.rS r
    (f.dst.toNat < 256 →
      (ready 0x0C0 → LaneGives (.vshuf f) s b f fun l v => v = va ((vb l).toNat % w)) ∧
      (ready 0x0C1 → LaneGives (.vbcast f) s b f fun _ v => v = va ((vb 0).toNat % w)) ∧
      (ready 0x0C2 → LaneGives (.vscan f) s b f fun l v => some v = fold ((activeLanes s f).filter fun k => decide (k ≤ l))) ∧
      (ready 0x0C3 → LaneGives (.vred f) s b f fun _ v => some v = fold (activeLanes s f))) ∧
    (288 ≤ f.dst.toNat → f.dst.toNat < 352 →
      (ready 0x0C3 → toScalar (.vred f) fun v =>
        let r := (fold (activeLanes s f)).getD (foldIdentity f.hi3 f.mid3)
        v = if f.hi3 = 0 then r.signExtend 64 else r.zeroExtend 64) ∧
      (ready 0x0C4 → toScalar (.vballot f) fun v =>
        ballot (f.imm.toNat % 32) v ∧ ballot (f.imm.toNat % 32 + 1) (v >>> 32)))

/-- spec/04 R100: the folds are left folds in lane order: over no lane there is none, one lane gives its value, and a lane more
combines it with what the lanes before it gave; for 32-bit sums that is addition modulo 2^32. -/
def Obligations.FoldsRunInLaneOrder : Prop :=
  ∀ (m : RMode) (ty op : Nat) (a : Nat → W32) (ls : List Nat) (l : Nat),
    foldLanes m ty op a [] = none ∧ foldLanes m ty op a [l] = some (a l) ∧
    (∀ r, foldLanes m ty op a ls = some r → foldLanes m ty op a (ls ++ [l]) = some (foldOp m ty op r (a l))) ∧
    (ty < 2 → ∀ x y : W32, foldOp m ty 0 x y = x + y) ∧
    (∀ x y : W32, ty < 6 → foldOp m ty 3 x y = x &&& y ∧ foldOp m ty 4 x y = x ||| y ∧ foldOp m ty 5 x y = x ^^^ y) ∧
    (∀ x : W32, op < 6 → ty < 2 → foldOp m ty op (foldIdentity ty op) x = x)

/-- spec/04 R95 to R97, spec/01 R18: the divergence instructions: what becomes of M0, the stack and FMT, where the block goes on,
and which stacks they do not admit. -/
def Obligations.Divergence : Prop :=
  ∀ (s : State) (b : Block) (f : LaneF), LaneReady s b f [] → (f.sa.toNat < 256 → f.sa.toNat < 8 * b.budget) →
    let m0 (t : State) (l : Nat) : Bool := (t.tm.getM 0).getLsbD l
    let hit (l : Nat) : Bool := activeLane s f l && laneVal s b f f.sa l != 0
    let st := s.tm.stack
    let lanes (t : State) (p : Nat → Bool) : Prop := ∀ l < s.tm.width, m0 t l = p l
    let does (i : Instr) (p : State → Prop) : Prop := ∃ t, exec i s = .next t ∧ LaneRetired s t f b ∧ p t
    let stops (i : Instr) (r : Reason) : Prop := exec i s = .next (s.laneFault kIllegal r 0 0)
    let body (k : StackKind) (t : State) : Prop := ∃ e, t.tm.stack = e :: st ∧ e.kind = k ∧ e.mask = s.tm.getM 0 ∧ e.fmt = s.tm.fmt ∧
      e.start = b.idx + 1 ∧ e.block = b.disp ∧ e.cont = 0
    (st.length < s.tm.depth →
      does (.vif f) (fun t => body .ifk t ∧ lanes t fun l => m0 s l && hit l) ∧
      does (.vloop f) (fun t => body .loop t ∧ lanes t (m0 s))) ∧
    (s.tm.depth ≤ st.length → stops (.vif f) .state ∧ stops (.vloop f) .state) ∧
    (∀ e rest, st = e :: rest → e.kind = .ifk →
      does (.velse f) fun t => t.tm.stack = { e with kind := .elsek } :: rest ∧ (f.e = false → t.tm.fmt = e.fmt) ∧
        lanes t fun l => e.mask.getLsbD l && !m0 s l) ∧
    (∀ e rest, st = e :: rest → e.kind = .ifk ∨ e.kind = .elsek →
      does (.vendif f) fun t => t.tm.stack = rest ∧ (f.e = false → t.tm.fmt = e.fmt) ∧ lanes t fun l => e.mask.getLsbD l) ∧
    (∀ e rest, st = e :: rest → e.kind = .loop →
      does (.vbrk f) (fun t => t.tm.stack = st ∧ lanes t fun l => m0 s l && !hit l) ∧
      does (.vcont f) (fun t => (∃ e', t.tm.stack = e' :: rest ∧ e'.kind = .loop ∧
          (∀ l < s.tm.width, e'.cont.getLsbD l = (e.cont.getLsbD l || (m0 s l && hit l)))) ∧
        lanes t fun l => m0 s l && !hit l)) ∧
    ((st = [] ∨ (st.all fun e => e.kind != .loop) = true) →
      stops (.vbrk f) .value ∧ stops (.vcont f) .value ∧ stops (.vendlp f) .value) ∧
    (st = [] → stops (.velse f) .value ∧ stops (.vendif f) .value) ∧
    (∀ e rest, st = e :: rest → e.kind = .loop → e.block = b.disp → s.tm.getM 0 ||| e.cont = 0 →
      does (.vendlp f) fun t => t.tm.stack = rest ∧ (f.e = false → t.tm.fmt = e.fmt) ∧ lanes t fun l => e.mask.getLsbD l) ∧
    (∀ e rest, st = e :: rest → e.kind = .loop → e.block = b.disp → s.tm.getM 0 ||| e.cont ≠ 0 →
      ∃ t, exec (.vendlp f) s = .next t ∧ t.tm.rwc = s.tm.rwc + 1 ∧ t.tm.running = some { b with idx := e.start } ∧
        t.tm.stack = { e with cont := 0 } :: rest ∧ lanes t fun l => m0 s l || e.cont.getLsbD l)

/-- spec/04 R90 to R92, spec/20 R329, R334: VFCMPD of links that are complete gives the relation at once, trimming where it says so
and the relation holds; VTRIM trims a link in the active lanes, and a trimmed link reads as the NaN 0x7FD10000. What a VFCMPD decides
from the header and the digits that have come is the relation of the completed values, and a digit more leaves the value within reach.
That the relation of complete links is there at once is the model's reading (log entry 46). -/
def Obligations.EarlyComparesAndTrims : Prop :=
  (∀ (k : Link) (d : BitVec 3), k.digits.length < 13 → k.InReach → (k.grow d).InReach) ∧
  (∀ (code : Nat) (x y : Link) (v : Bool), code < 6 → x.InReach → y.InReach → decideKnown code x.possible y.possible = some v →
    v = floatRel code (f32.value x.value.toNat) (f32.value y.value.toNat)) ∧
  ∀ (s : State) (b : Block) (f : LaneF), 256 ≤ f.sa.toNat → f.sa.toNat < 264 →
    let link := f.sa.toNat - 256
    let trimmed (t : State) (l : Nat) : Prop := (t.tm.getL link l).st = .trimmed ∧ (t.tm.getL link l).read = 0x7FD10000
    (LaneReady s b f (laneRegs 0x04F f) → s.floatCode f = 0 → f.up3 < 6 → isReg f.dst.toNat →
      ∃ t val, exec (.vfcmpd f) s = .next t ∧ LaneWrote s t f b f.dst.toNat val ∧
        ∀ l, activeLane s f l = true →
          let rel := floatRel f.up3 (f32.value (laneVal s b f f.sa l).toNat) (f32.value (laneVal s b f f.sb l).toNat)
          val l = (if rel then 0xFFFFFFFF else 0) ∧ (f.md.getLsbD 2 = true → rel = true → trimmed t l)) ∧
    (LaneReady s b f [] → ∃ t, exec (.vtrim f) s = .next t ∧ LaneRetired s t f b ∧ (∀ c, isReg c → SameReg s t c) ∧
      ∀ l, activeLane s f l = true → trimmed t l)

/-! ## The lane stream: memory -/

/-- spec/04 R101 to R107, R110, spec/12 R226: the lane memory instructions put one request a lane in flight, at the address that
each active lane forms; the token becomes PENDING, or with no active lane DONE at once. spec/04 R102, R108, spec/02 R45: the
lowest active lane whose address faults stops the lane stream: nothing is in flight for any lane, and the token is as it was. What
a VLDS takes at issue is the model's reading (log entry 37). -/
def Obligations.LaneMemoryIssue : Prop :=
  (∀ (s : State) (b : Block) (f : LaneF), LaneReady s b f [] → LaneGroupsFit b f → f.order < 2 →
     s.tm.recon = [] → s.ops = [] → s.sampleN = 0 →
     let tok := f.sc.toNat % 32
     let lanes := activeLanes s f
     let addr (l : Nat) : Nat := s.tm.laneAddr b f l
     let n := f.accessN
     let fits : Prop := ∀ l ∈ lanes, s.addrFault f (addr l) = none
     let none_ (i : Instr) : Prop := lanes = [] → ∃ t, exec i s = .next t ∧ t.tm.rwc = s.tm.rwc + 1 ∧ BlockGoesOn s t f b ∧
       t.ops = [] ∧ t.tm.getT tok = { st := .done, claimed := false, cause := 0, origin := 0 }
     let some_ (i : Instr) (place : Nat → Nat) (p : State → Op → Prop) : Prop :=
       lanes ≠ [] → ∃ t x, exec i s = .next t ∧ t.tm.rwc = s.tm.rwc + 1 ∧ BlockGoesOn s t f b ∧ t.ops = [(s.nextOp, x)] ∧
         x.team = s.cur ∧ x.tok = tok ∧ x.width = n ∧ (x.reqs.map fun q => (q.id, q.addr)) = lanes.map (fun l => (l, place l)) ∧
         (∀ a, t.memByte a = s.memByte a) ∧ (∀ r, t.rS r = s.rS r) ∧ p t x
     let pending (t : State) : Prop := t.tm.getT tok = Tok.pending
     let place (l : Nat) : Nat := s.placeOf f (addr l)
     (tokenSt s tok ≠ .pending → fits →
       none_ (.vld f) ∧ some_ (.vld f) place (fun t x => pending t ∧ x.kind = .vld ∧ t.tm.loads.map (fun e => (e.reg, e.n)) =
         [(f.dst.toNat, f.dstCodes.length)]) ∧
       none_ (.vst f) ∧ some_ (.vst f) place (fun t x => pending t ∧ x.kind = .vst ∧
         x.reqs.map Req.data = lanes.map fun l => natBytes n (s.tm.groupNat f.dst.toNat f.dstCodes.length l)) ∧
       none_ (.vamo f) ∧ some_ (.vamo f) place (fun t x => pending t ∧ x.kind = .vamo ∧ x.aop = f.aop) ∧
       none_ (.vrmo f) ∧ some_ (.vrmo f) place (fun t x => pending t ∧ x.kind = .vrmo ∧ x.aop = f.aop) ∧
       none_ (.vlds f) ∧ ((s.core (s.teamCore s.cur)).near = [] →
         some_ (.vlds f) addr fun t x => pending t ∧ x.kind = .vlds)) ∧
     (lanes ≠ [] → some_ (.vprf f) addr fun t x => x.kind = .vprf ∧ t.tm.tok = s.tm.tok)) ∧
  (∀ (s : State) (b : Block) (f : LaneF) (l : Nat) (kind : Nat), LaneReady s b f [] → LaneGroupsFit b f →
     let addr (l : Nat) : Nat := s.tm.laneAddr b f l
     activeLane s f l = true → s.addrFault f (addr l) = some kind →
     (∀ k < l, activeLane s f k = true → s.addrFault f (addr k) = none) →
     exec (.vld f) s = .next (s.laneFault kind .state (BitVec.ofNat 64 (addr l)) (BitVec.ofNat 64 (l / 32 * 2 ^ 32))) ∧
     (addr l % f.accessN ≠ 0 → kind = kMisaligned) ∧
     (addr l % f.accessN = 0 → f.hi2 = 1 → kind = kOutOfPart ∧ s.padSize (gangOf s.cur) ≤ addr l))


/-! ## The matrix stream -/

/-- spec/08 R177, R178, R180, R181, spec/10 R198: the words that the sequencer executes itself: masks, counters, branches, the
status flags, token claims and completions, and the end. spec/08 R179, spec/03 R66: BW makes the sequencer wait as BAR.WAIT does
for member 256, and MARR arrives once every earlier matrix instruction has completed. What BW, MHALT, MTOK and MSET of the flags
wait for is the model's reading (log entry 56). -/
def Obligations.MatrixSequencerWords : Prop :=
  (∀ (s : State) (f : MatF),
     let g := s.sg
     let n := f.imm.toNat
     let counter := bits n 13 4
     let next := g.spc + 8
     let sets (i : Instr) (v : W32) : Prop := exec i s = .next (SeqAt s (fun g => { g with n := g.n.set counter v }) next)
     let number := s.sg.nreg (bits n 0 4)
     let flags := BitVec.ofNat 32 (g.underflow.toNat + 2 * g.spois.toNat)
     exec (.mnop f) s = .next (SeqAt s id next) ∧
     exec (.mj f) s = .next (SeqAt s id (BitVec.ofInt 64 (g.spc.toInt + 8 * f.imm.toInt))) ∧
     (g.nreg counter = 0 → exec (.mbnz f) s = .next (SeqAt s id next)) ∧
     (g.nreg counter ≠ 0 → exec (.mbnz f) s = .next (SeqAt s id (BitVec.ofInt 64 (g.spc.toInt + 8 * (BitVec.ofNat 13 n).toInt)))) ∧
     (bits n 12 1 = 0 → sets (.madd f) (BitVec.ofInt 32 ((g.nreg counter).toInt + (BitVec.ofNat 12 n).toInt))) ∧
     (bits n 12 1 = 1 → sets (.madd f) (BitVec.ofInt 32 ((g.nreg counter).toInt + number.toInt))) ∧
     (bits n 11 2 = 0 → sets (.matrixMset f) (BitVec.ofInt 32 (BitVec.ofNat 11 n).toInt)) ∧
     (2 ≤ bits n 11 2 → (∀ i ∈ g.minstrs, i.isOver = true) → exec (.matrixMset f) s =
       .next (SeqAt s (fun x => { x with underflow := false, n := x.n.set counter flags }) next)) ∧
     (bits n 11 2 = 1 → g.consts ≤ 4 * bits n 0 11 →
       exec (.matrixMset f) s = .next (s.seqFault kProtection .state (BitVec.ofNat 64 (4 * bits n 0 11)))) ∧
     (bits n 11 2 = 1 → 4 * bits n 0 11 < g.consts → SeqPlain s →
       ∀ t v, s.constRead (s.coreNum s.curGang 0) g.part (g.constb + BitVec.ofNat 64 (4 * bits n 0 11)).toNat = (t, .value v false) →
         exec (.matrixMset f) s = .next (SeqAt t (fun x => { x with n := x.n.set counter (v.truncate 32) }) (t.sg.spc + 8))) ∧
     (f.k = 0 → exec (.mkset f) s = .next (SeqAt s id next)) ∧
     (f.k ≠ 0 → ∃ v : BitVec 48, exec (.mkset f) s = .next (SeqAt s (fun x => { x with k := x.k.set f.k.toNat v }) next) ∧
       ∀ j < 48, v.getLsbD j =
         if j / 16 ≠ bits n 15 2 then (g.kreg f.k).getLsbD j
         else if bits n 13 2 = 0 then decide (j % 16 < bits n 0 5)
         else if bits n 13 2 = 1 then decide (j % 16 < number.toNat)
         else number.getLsbD (j % 16)) ∧
     (let team := teamKey s.curGang (bits n 0 8)
      let k := bits n 8 5
      let x := (s.team team).getT k
      (g.nteams ≤ bits n 0 8 → exec (.mtok f) s = .next (s.seqFault kIllegal .value 0)) ∧
      (bits n 0 8 < g.nteams → SeqPlain s →
        (bits n 13 1 = 1 → x.st = .free → ∃ t, exec (.mtok f) s = .next t ∧ t.sg.spc = next ∧
          (t.team team).getT k = { Tok.pending with claimed := true } ∧ (∀ j, j ≠ k → (t.team team).getT j = (s.team team).getT j) ∧
          ∀ u, u ≠ team → t.team u = s.team u) ∧
        (bits n 13 1 = 1 → x.st ≠ .free → ∃ t w, exec (.mtok f) s = .next t ∧ t.sg.spc = g.spc ∧ t.sg.swait = some w ∧
          w.obj = .tokens (1 <<< k) ∧ t.teams = s.teams) ∧
        (bits n 13 1 = 0 → (∀ i ∈ g.minstrs, i.isOver = true) → x.st = .pending → x.claimed = true →
          ∃ t, exec (.mtok f) s = .next t ∧ t.sg.spc = next ∧ t.sg.spois = false ∧
            (t.team team).getT k = (if g.spois then { st := .poisoned, claimed := false, cause := cInherited, origin := g.sorigin }
              else { st := .done, claimed := false, cause := 0, origin := 0 })) ∧
        (bits n 13 1 = 0 → (∀ i ∈ g.minstrs, i.isOver = true) → x.st ≠ .pending ∨ x.claimed = false →
          exec (.mtok f) s = .next (s.seqFault kProtection .state 0)))) ∧
     (g.minstrs ≠ [] → ∃ t w, exec (.mhalt f) s = .next t ∧ t.sg.spc = g.spc ∧ t.sg.swait = some w ∧ t.sg.halted = g.halted) ∧
     (g.minstrs = [] → SeqPlain s → (∃ u ∈ s.teamsOf s.curGang, (s.team u).exited = false) → ∃ t, exec (.mhalt f) s = .next t ∧
       t.sg.halted = true ∧ t.sg.bevents = g.bevents ++ [{ mem := 256, kind := .leaveAll, after := [] }])) ∧
  (∀ (s : State) (f : MatF), SeqPlain s →
     let g := s.sg
     let n := f.bw.toNat % 16
     let b := g.bar n
     let waits := f.bw.getLsbD 4 = true ∧ g.swait = none ∧ g.unapplied 256 = false ∧ (∀ i ∈ g.minstrs, i.ba ≠ some (f.bw.truncate 4))
     (f.bw.getLsbD 4 = false → exec (.mwait f) s = .next (SeqAt s id (g.spc + 8))) ∧
     (∀ w v, f.bw.getLsbD 4 = true → g.swait = some w → w.result = some v → ∃ t, exec (.mwait f) s = .next t ∧
       t.sg.spc = g.spc + 8 ∧ t.sg.swait = none ∧ (t.sg.bar n).phase = b.phase) ∧
     (waits → g.belongs n 256 = false →
       exec (.mwait f) s = .next (s.seqFault kProtection .state (BitVec.ofNat 64 n))) ∧
     (waits → g.belongs n 256 = true → b.last.find? 256 = none → ∃ t w, exec (.mwait f) s = .next t ∧ t.sg.spc = g.spc ∧
       t.sg.swait = some w ∧ w.obj = .barrier (f.bw.truncate 4) ∧ w.phase = b.phase.toNat + 2 ∧ w.result = none) ∧
     (∀ p, waits → g.belongs n 256 = true → b.last.find? 256 = some (p, false) → p ≠ b.phase →
       ∃ t, exec (.mwait f) s = .next t ∧ t.sg.spc = g.spc + 8) ∧
     (ArriveOk s f → ∃ t e, exec (.marr f) s = .next t ∧ t.sg.spc = g.spc + 8 ∧ t.sg.minstrs = g.minstrs ++ [e] ∧ e.left = [] ∧
       e.ops = [] ∧ e.ba = (if f.ba.getLsbD 4 then some (f.ba.truncate 4) else none) ∧ t.sg.mseq = g.mseq + 1) ∧
     (¬ ArriveOk s f → exec (.marr f) s = .next (s.seqFault kProtection .state (BitVec.ofNat 64 (f.ba.toNat % 16)))))


/-- spec/08 R156, R169, R171, R173 to R176, spec/18 R309: the matrix words that the engines execute: what is checked as they
issue, and that they reach every member core's queue in order with the mask and counters of their issue. The order of the checks
is the model's (log entry 31). -/
def Obligations.MatrixWordsIssue : Prop :=
  ∀ (s : State) (f : MatF), SeqPlain s → ArriveOk s f →
    let n := f.imm.toNat
    let c := f.c.toNat
    let nv := s.sg.nreg (bits n 0 4)
    let pad := s.padSize s.curGang
    let issues (i : Instr) (opc : Nat) (v : W32) (ok : Prop) : Prop := SeqOpen s f → EnginesHeld s → ok → Queues i s opc f v
    let traps (i : Instr) (p : Prop) (kind : Nat) (r : Reason) (addr : W64) : Prop :=
      f.bw.getLsbD 4 = false → p → exec i s = .next (s.seqFault kind r addr)
    let fed := s.accept.getLsbD 3 = true
    let param (i : Instr) (opc size align : Nat) : Prop :=
      issues i opc nv (nv.toNat % align = 0 ∧ nv.toNat + size ≤ pad) ∧
      traps i (nv.toNat % align ≠ 0) kMisaligned .state (BitVec.ofNat 64 nv.toNat) ∧
      traps i (nv.toNat % align = 0 ∧ pad < nv.toNat + size) kOutOfPart .state (BitVec.ofNat 64 nv.toNat)
    issues (.mma f) 0 0 (FifosSuit s f ∧ TileThere s c) ∧ issues (.mmaz f) 1 0 (FifosSuit s f ∧ TileThere s c) ∧
    issues (.mdist f) 2 0 (fed ∧ FifosSuit s f ∧ TileThere s c) ∧ issues (.mtopk f) 3 0 (fed ∧ TileThere s c) ∧
    issues (.mzero f) 4 0 (TileThere s c) ∧
    issues (.matrixMmov f) 5 0 (TileThere s c ∧ (bits n 15 2 = 0 → TileThere s (bits n 0 8))) ∧
    issues (.mepi f) 6 nv (EpiOk s f) ∧
    param (.mtab f) 7 272 16 ∧ param (.mbias f) 8 64 64 ∧ param (.mscl f) 9 128 64 ∧
    issues (.fskip f) 10 (BitVec.ofNat 32 (n % 2 ^ 16)) (s.fifoOn f.fa.toNat = true) ∧
    (¬ fed → exec (.mdist f) s = .next (s.seqFault kIllegal .opcode 0) ∧ exec (.mtopk f) s = .next (s.seqFault kIllegal .opcode 0)) ∧
    traps (.mma f) (¬ FifosSuit s f) kIllegal .value 0 ∧ traps (.mmaz f) (FifosSuit s f ∧ ¬ TileThere s c) kIllegal .state 0 ∧
    traps (.mzero f) (¬ TileThere s c) kIllegal .state 0 ∧ traps (.mepi f) (¬ TileThere s c) kIllegal .state 0 ∧
    traps (.fskip f) (s.fifoOn f.fa.toNat = false) kIllegal .value 0

/-- spec/08 R171 to R176, R181, spec/10 R195 to R204: what the engine of a gang of one core does to its tiles, FIFOs, parameter
sets and scratchpad. When the engine runs, and the order of equal keys in the top-k set, are the model's (log entries 55, 6). -/
def Obligations.MatrixEngineResults : Prop :=
  ∀ (s : State) (f : MatF), EngineReady s f →
    let mk := memberKey s.curGang 0
    let m := s.member mk
    let n := f.imm.toNat
    let c := f.c.toNat
    let fa := f.fa.toNat
    let fb := f.fb.toNat
    let nv := s.sg.nreg (bits n 0 4)
    let k := s.sg.kreg f.k
    let old := m.tile c
    let after (t : State) : Tile := (t.member mk).tile c
    let is (t : State) (v : Nat → W32) : Prop := ∀ j < 256, (after t).elem j = v j
    let mmas (i : Instr) (dist z : Bool) : Prop := FifosSuit s f → TileThere s c → ∀ a b, (m.fifo fa).head = some a →
      (if f.fa = f.fb ∧ f.hold.getLsbD 1 = false then (m.fifo fa).pop else m.fifo fb).head = some b →
      let av := a.elems.map (operandValue (aClass f.ifmt.toNat) (m.fifo fa).code)
      let bv := b.elems.map (operandValue (bClass f.ifmt.toNat) (m.fifo fb).code)
      let el (j : Nat) : W32 × Bool :=
        floatElem dist (if z then none else some (old.elem j)) (slicePairs (.fin false 0) k av bv (j / 16) (j % 16))
      Executes i s fun t =>
        is t (fun j => if !kElem k j then (if z then 0 else old.elem j)
          else if f.ifmt = 6 then BitVec.ofInt 32 ((if z then 0 else (old.elem j).toInt) + sliceSum dist k a.elems b.elems j)
          else (el j).1) ∧
        (after t).int = (f.ifmt == 6) ∧ (after t).pois = ((!z && old.pois) || a.pois || b.pois) ∧
        (t.sg.underflow = true ↔ s.sg.underflow = true ∨ f.ifmt ≠ 6 ∧ ∃ j < 256, kElem k j = true ∧ (el j).2 = true) ∧
        (f.fa ≠ f.fb → ((t.member mk).fifo fa).popped = (m.fifo fa).popped + (if f.hold.getLsbD 1 then 0 else 1) ∧
          ((t.member mk).fifo fb).popped = (m.fifo fb).popped + (if f.hold.getLsbD 0 then 0 else 1))
    mmas (.mma f) false false ∧ mmas (.mmaz f) false true ∧ (s.accept.getLsbD 3 = true → mmas (.mdist f) true false) ∧
    (TileThere s c → Executes (.mzero f) s fun t => is t (fun j => if kElem k j then 0 else old.elem j) ∧
      (after t).pois = (old.pois && !kFull k)) ∧
    (∀ src, TileThere s c → TileThere s src → bits n 15 2 = 0 → bits n 0 8 = src → Executes (.matrixMmov f) s fun t =>
      is t (fun j => if kElem k j then (m.tile src).elem j else old.elem j) ∧
        (after t).pois = ((m.tile src).pois || (old.pois && !kFull k))) ∧
    (TileThere s c → bits n 15 2 ≠ 0 → Executes (.matrixMmov f) s fun t =>
      is t (fun j => if kElem k j then s.sg.topElem (j / 16) (j % 16) else old.elem j) ∧
        t.sg.topk = if bits n 15 2 = 2 then [] else s.sg.topk) ∧
    (s.accept.getLsbD 3 = true → TileThere s c → Executes (.mtopk f) s fun t => ∀ r < 16,
      t.sg.topk.get [] r =
        if kRow k r then topMerge old.int (bits n 3 1 == 1) (bits n 0 3 + 1) (if bits n 8 1 = 1 then [] else s.sg.topk.get [] r)
          (topRow old.int k old.elems (s.sg.nreg (bits n 4 4)) r)
        else s.sg.topk.get [] r) ∧
    (let fills (i : Instr) (size align : Nat) (set : Member → ParSet) : Prop :=
      nv.toNat % align = 0 → nv.toNat + size ≤ s.padSize s.curGang → (∀ j < size, m.lineSt (nv.toNat + j) ≠ 0) →
        m.spHit nv.toNat size 0 .matrix m.mskip = none → Executes i s fun t =>
          ((set (t.member mk)).pois = true ↔ ∃ j < size, m.lineSt (nv.toNat + j) = 2) ∧
          ∀ j < size, (listGet 0 (set (t.member mk)).words (j / 4)).toNat / 2 ^ (8 * (j % 4)) % 256 = (m.pad.get 0 (nv.toNat + j)).toNat
     fills (.mtab f) 272 16 Member.tab ∧ fills (.mbias f) 64 64 Member.bias ∧ fills (.mscl f) 128 64 Member.scl) ∧
    ((m.fifo fa).declared = true →
      (∀ j < n % 2 ^ 16, ∃ e, (m.fifo fa).entries.find? ((m.fifo fa).popped + BitVec.ofNat 32 j).toNat = some e ∧ e.landed = true) →
      Executes (.fskip f) s fun t => ((t.member mk).fifo fa).popped = (m.fifo fa).popped + BitVec.ofNat 32 (n % 2 ^ 16)) ∧
    (EpiOk s f →
      let st := stagesOf f.epi
      let ofmt := bits n 14 3
      let size := ofmtBytes ofmt
      let place (j : Nat) : Nat := nv.toNat + j / 16 * (s.sg.nreg (bits n 4 4)).toNat + j % 16 * size
      let written (j : Nat) : Prop := j < 256 ∧ (st.maskw = false ∨ kElem k j = true)
      let value (j : Nat) : Nat :=
        epilogue st ofmt ((s.team (teamKey s.curGang 0)).fmt.getLsbD 4) old.int m.bias.words m.tab.words m.scl.words (j % 16) (old.elem j)
      (st.out = false → Executes (.mepi f) s fun t =>
        ∀ j < 256, (written j → (after t).elem j = BitVec.ofNat 32 (value j)) ∧ (¬ written j → (after t).elem j = old.elem j)) ∧
      (st.out = true → bits n 8 2 = 0 → (∀ j, written j → m.spHit (place j) size 1 .matrix m.mskip = none) →
        Executes (.mepi f) s fun t =>
          (∀ j b, written j → b < size → (∀ i, written i → j < i → place j + b < place i ∨ place i + size ≤ place j + b) →
            (t.member mk).pad.get 0 (place j + b) = BitVec.ofNat 8 (value j / 2 ^ (8 * b))) ∧
          (∀ a, (∀ j, written j → a < place j ∨ place j + size ≤ a) → (t.member mk).pad.get 0 a = m.pad.get 0 a) ∧
          (∀ j, written j → (t.member mk).lineSt (place j) ≠ 0) ∧ after t = if st.zero then Tile.blank else old))

/-! ## The host's side -/

/-- spec/18 R307 to R309, R317: the management protocol: a doorbell while a command runs is dropped, one before the negotiation is
refused with status 2, a reserved bit and an unlisted code with status 1; the answer comes with the end of the command; ACCEPT is
fixed by the negotiation; recovery takes LOAD_BUNDLE. Where in the order of checks and at what moment the answer stands is the
model's choice (log entries 20, 62). -/
def Obligations.ManagementProtocol : Prop :=
  ∀ s : State,
    let c := cmdCode s.cmd
    let off := s.arg.x
    (∀ i code, managementCode i = some code → c = code →
      (s.run.isSome = true → exec i s = .next { s with status := s.status ||| 8 }) ∧
      (s.run = none → s.mode ≠ 1 → Refused i s 2) ∧
      (s.run = none → s.mode = 1 → bits (listGet 0 s.cmd 0).toNat 8 56 ≠ 0 → Refused i s 1)) ∧
    (listedCode c = false → Commanded s c → Refused .unlistedCommandCode s 1) ∧
    exec .doorbellWhileBusy s = .next (if s.run.isSome then { s with status := s.status ||| 8 } else s) ∧
    (∀ st resp, let t := s.latchCmd st resp
      t.run = some (s.cmd, st, resp) ∧ t.status.getLsbD 2 = true ∧ t.status.getLsbD 3 = false) ∧
    (∀ cmd st resp, s.run = some (cmd, st, resp) →
      (st = 0 → s.cmdOver cmd = false → exec .managementCommandDone s = .next (s.defer .managementCommandDone)) ∧
      (st ≠ 0 ∨ s.cmdOver cmd = true → ∃ t, exec .managementCommandDone s = .next t ∧ t.run = none ∧ (t.msix.get 0 8).getLsbD 0 = true ∧
        (st = 0 → cmdCode cmd = 3 → t.groupTab = s.groupTab.set (cmdArg cmd 1) (listGet 0 cmd 2, listGet 0 cmd 3)) ∧
        t.status.getLsbD 2 = false ∧ t.resp = (BitVec.ofNat 64 (st + cmdCode cmd * 256) :: resp ++ List.replicate 8 0).take 8)) ∧
    (0x100 ≤ off → off < 0x140 → off % 8 = 0 →
      exec .registerWrite s = .next { s with cmd := listSet s.cmd ((off - 0x100) / 8) s.arg.w }) ∧
    (off = 0x10 → s.power ≠ .recovery → s.mode ≠ 1 → ∃ v, exec .registerWrite s = .next { s with accept := v } ∧
      ∀ j < 128, v.getLsbD j = if j < 64 then s.arg.w.getLsbD j else s.accept.getLsbD j) ∧
    (off = 0x18 → s.power ≠ .recovery → s.mode ≠ 1 → ∃ v, exec .registerWrite s = .next { s with accept := v } ∧
      ∀ j < 128, v.getLsbD j = if j < 64 then s.accept.getLsbD j else s.arg.w.getLsbD (j - 64)) ∧
    (off = 0x10 ∨ off = 0x18 → s.mode = 1 → exec .registerWrite s = .next s) ∧
    (off = 0x28 → s.power ≠ .recovery → s.arg.w.toNat % 2 ^ 36 = 0 → exec .registerWrite s = .next { s with apbase := s.arg.w }) ∧
    (s.mode = 1 ∨ s.mode = 3 → exec .featureNegotiation s = .next s) ∧
    (s.mode = 0 ∨ s.mode = 2 →
      (s.accept.getLsbD 0 = true ∧ (∀ j < 128, s.accept.getLsbD j = true → s.offer.getLsbD j = true) →
        ∃ t, exec .featureNegotiation s = .next t ∧ t.mode = 1 ∧ t.accept = s.accept ∧ t.trip = false ∧ t.status.getLsbD 4 = false) ∧
      (s.accept.getLsbD 0 = false ∨ (∃ j < 128, s.accept.getLsbD j = true ∧ s.offer.getLsbD j = false) →
        ∃ t, exec .featureNegotiation s = .next t ∧ t.mode = 2 ∧ t.accept = 0)) ∧
    (let b := Config.bundleAt s.mem (argOf s 1)
     let good := Config.bundleGood b = true ∧ s.rollback ≤ Config.bundleVersion b
     s.mode = 3 → c = 10 → s.run = none → bits (listGet 0 s.cmd 0).toNat 8 56 = 0 →
      (good → ∃ t, exec .loadBundle s = .next t ∧ t.flash = b ∧ (s.flashCfg = [] → t.power = .running ∧ t.mode = 0)) ∧
      (¬ good → ∃ t, exec .loadBundle s = .next t ∧ t.flash = s.flash ∧ t.power = s.power))

/-- spec/18 R308, R310, R315, R316, R321, spec/12 R233: what the management commands do, and their operand checks. Which operand
check a status names first is the model's order (log entry 20). -/
def Obligations.ManagementCommands : Prop :=
  ∀ s : State,
    let a (i : Nat) : Nat := argOf s i
    let w (i : Nat) : W64 := listGet 0 s.cmd i
    (Commanded s 1 →
      let cfg := readCfg (s.memBytes (a 2) 256)
      let valid := a 1 < 8 ∧ a 2 % 256 = 0 ∧ physOk (a 2) = true ∧ cfgOk (s.memBytes (a 2) 256) (s.accept.getLsbD 1) = true
      (¬ valid → Refused .configurePartition s 1) ∧
      (valid → (s.parts.find? (a 1)).isSome = true ∨ (∃ q ∈ s.parts, q.2.cfg.overlaps cfg = true) → Refused .configurePartition s 2) ∧
      (valid → s.parts.find? (a 1) = none → (∀ q ∈ s.parts, q.2.cfg.overlaps cfg = false) →
        Accepted .configurePartition s [] fun t => (∃ p, t.parts.find? (a 1) = some p ∧ p.cfg = cfg ∧ p.state = 1 ∧ p.errseq = 1) ∧
          (∀ n, n ≠ a 1 → t.parts.find? n = s.parts.find? n) ∧ ∀ n, cfg.ev0 ≤ n → n ≤ cfg.ev1 → t.evt.get 0 n = 0)) ∧
    (Commanded s 2 → a 1 < 8 → ∀ p, s.parts.find? (a 1) = some p → s.ctxsOf (a 1) = [] →
      Accepted .destroyPartition s [] fun t => t = { s with parts := s.parts.set (a 1) { p with state := 2 } }) ∧
    (Commanded s 2 → a 1 < 8 → (s.parts.find? (a 1)).isSome = true → Accepted .destroyPartition s [] fun _ => True) ∧
    (Commanded s 3 → s.pod ≠ none → a 1 < 4096 → bits (a 2) 54 10 = 0 → bits (a 3) 26 38 = 0 → bits (a 3) 0 12 = 0 →
      Accepted .setGroup s [] fun t => t = s) ∧
    (Commanded s 3 → s.pod = none → Refused .setGroup s 2) ∧
    (Commanded s 4 → s.pod ≠ none → a 1 < 4096 → windowOk [w 2, w 3, w 4, w 5] = true →
      Accepted .exportWindow s [] fun t => t = { s with windows := s.windows.set (a 1) ([w 2, w 3, w 4, w 5], false) }) ∧
    (Commanded s 4 → s.pod = none → Refused .exportWindow s 2) ∧
    (Commanded s 5 → s.pod ≠ none → a 1 < 4096 → Accepted .revokeWindow s [] fun t =>
      ∃ e, t = { s with windows := s.windows.set (a 1) (e, true) } ∧ ∀ e', s.windows.find? (a 1) = some e' → e = e'.1) ∧
    (Commanded s 6 → a 1 < 4096 → (s.slots.get .blank (a 1)).st ≠ .latched → Accepted .clearTrigger s [] fun t => t = s) ∧
    (Commanded s 6 → a 1 < 4096 → (s.slots.get .blank (a 1)).st = .latched →
      Accepted .clearTrigger s [] fun t => t = { s with slots := s.slots.set (a 1) Slot.blank }) ∧
    (Commanded s 6 → 4096 ≤ a 1 → Refused .clearTrigger s 1) ∧
    (Commanded s 7 → 1200 ≤ a 1 → a 1 ≤ 3200 → Accepted .setPowerCap s [] fun t => t = { s with cap := a 1 }) ∧
    (Commanded s 7 → a 1 < 1200 ∨ 3200 < a 1 → Refused .setPowerCap s 1) ∧
    (Commanded s 8 → a 1 < 1024 → physOk (a 2) = true → physOk (a 2 + 2047) = true → Accepted .setFabric s [] fun t =>
      t.pod = some (a 1) ∧ t.mem = s.mem ∧ ∀ d < 1024,
        t.leaf.find? d = some ((s.memByte (a 2 + 2 * d)).toNat + 2 ^ 8 * (s.memByte (a 2 + 2 * d + 1)).toNat)) ∧
    (Commanded s 9 → ∀ k, 12 ≤ k → k ≤ 24 → a 2 = 2 ^ k → a 1 % 4096 = 0 → physOk (a 1) = true → physOk (a 1 + a 2 - 1) = true →
      Accepted .setTrace s [] fun t => t = { s with traceB := a 1, traceS := a 2 }) ∧
    (Commanded s 9 → a 1 % 4096 ≠ 0 ∨ a 2 < 4096 ∨ 2 ^ 24 < a 2 → Refused .setTrace s 1)

/-- spec/23 R356, R360, R361, spec/24 R366, R368, R369, R374, R376 to R378: the commands of the Debug core, with one session
attached. The statuses of STEP, RESUME and REPLAY_TO are the model's choice (log entries 20, 21), and a counter starts at a free
value (log entry 22). -/
def Obligations.DebugCommands : Prop :=
  ∀ (s : State) (p : Nat) (x : Session) (pt : Part) (c : Ctx),
    s.sessions = [(p, x)] → s.parts.find? p = some pt → pt.session = some x → s.ctxs.find? x.ctx = some c →
    let a (i : Nat) : Nat := argOf s i
    let w (i : Nat) : W64 := listGet 0 s.cmd i
    let g := gangKey x.ctx (a 1)
    let team := teamKey g (a 2)
    let stopped := c.st = .stopped ∧ c.replayed = false
    let there := a 1 < 2 ^ 20 ∧ (s.gangs.find? g).isSome = true ∧ a 2 < (s.gang g).nteams
    (Commanded s 0x11 → Accepted .detach s [] fun t => (t.parts.find? p).map Part.session = some (some { x with leave := true })) ∧
    (Commanded s 0x12 → c.halt = false → c.st ≠ .ended → Accepted .stop s [] fun t =>
      ∃ y, t.ctxs.find? x.ctx = some y ∧ y.halt = true ∧ y.st = .halting ∧ y.fatal = c.fatal) ∧
    (Commanded s 0x12 → c.halt = true ∨ c.st = .ended → Refused .stop s 2) ∧
    (Commanded s 0x13 → stopped → there → (s.gang g).st = .resident → (s.team team).exited = false → Accepted .step s [] fun t =>
      (t.team team).stopped = false ∧ (t.team team).laneStopped = false ∧ .agent (.scalar team) ∈ t.agenda) ∧
    (Commanded s 0x13 → ¬ stopped → Refused .step s 2) ∧ (Commanded s 0x13 → stopped → ¬ there → Refused .step s 1) ∧
    (Commanded s 0x14 → stopped → Accepted .resume s [] fun _ => True) ∧ (Commanded s 0x14 → ¬ stopped → Refused .resume s 2) ∧
    (Commanded s 0x15 → ∀ k, a 1 < Config.cores → a 2 < 4 → bits (a 3) 24 8 = 0 → bits (a 3) 40 24 = 0 →
      bits (a 3) 0 21 % 2 ^ bits (a 3) 21 3 = 0 → s.heldBy x.ctx (a 1) = some k → Accepted .setSpwatch s [] fun t =>
        (t.member k).spw.get 0 (a 2) = w 3 ∧ (∀ n, n ≠ a 2 → (t.member k).spw.get 0 n = (s.member k).spw.get 0 n) ∧
        ∀ m, m ≠ k → t.member m = s.member m) ∧
    (Commanded s 0x16 → a 1 < 128 → a 2 < 8 → bits (a 3) 52 12 = 0 → bits (a 4) 14 50 = 0 → 3 ≤ bits (a 4) 0 6 → bits (a 4) 0 6 ≤ 40 →
      a 3 % 2 ^ bits (a 4) 0 6 = 0 → homedAt (a 1) (a 3) (bits (a 4) 0 6) = true → Accepted .setL2watch s [] fun t =>
        (t.slice (a 1)).l2w.get (0, 0) (a 2) = (w 3, w 4) ∧ ∀ n, n ≠ a 1 → t.slice n = s.slice n) ∧
    (Commanded s 0x17 → a 2 % 2 ^ 20 = 0 → (a 2 ≠ 0 → pt.cfg.holds (a 1) (a 2) = true) → Accepted .setJournal s [] fun t =>
      ∃ q, t.parts.find? p = some q ∧ q.cfg = { pt.cfg with journB := a 1, journS := a 2 }) ∧
    (Commanded s 0x17 → a 2 % 2 ^ 20 ≠ 0 → Refused .setJournal s 1) ∧
    (Commanded s 0x18 → a 1 < 2 ^ 20 → (s.gangs.find? g).isSome = true → (s.gang g).record = true → Accepted .checkpoint s [] fun t =>
      t.agenda = s.agenda ++ [.event .checkpointDue { Args.none with x := g, ok := true }]) ∧
    (Commanded s 0x19 → c.st = .stopped → there → a 3 < 2 ^ 32 → (s.gang g).st = .resident →
      (∀ i ∈ s.ckpts.get [] g, i.gang.interval.toNat ≠ a 3) → Refused .replayTo s 2) ∧
    (Commanded s 0x19 → c.st = .stopped → c.replayed = false → there → a 3 < 2 ^ 32 → (s.gang g).st = .resident →
      ∀ i order, (s.ckpts.get [] g).find? (fun j => j.gang.interval.toNat == a 3) = some i → (s.ckpts.get [] g).getLast? = some i →
        (s.gang g).suspended = false → untilCount team (a 4) (s.orders.get [] g) = some order → Accepted .replayTo s [] fun _ => True) ∧
    (Commanded s 0x1A → a 1 = 0 → Accepted .setSample s [] fun t => t.sampleN = 0) ∧
    (Commanded s 0x1A → 4 ≤ a 1 → a 1 ≤ 24 → ∀ k, 12 ≤ k → a 3 = 2 ^ k → physOk (a 2) = true → physOk (a 2 + a 3 - 1) = true →
      Accepted .setSample s [] fun t => t.sampleN = a 1 ∧ t.sampleB = a 2 ∧ t.sampleS = a 3 ∧ t.sampleC = 0) ∧
    (Commanded s 0x1B → ∀ h k, a 1 < Config.cores → a 2 < 8 → a 3 < 10 → (s.core (a 1)).issuing = some h →
      s.heldBy (ctxOf h) (a 1) = some k → Accepted .setCounter s [] fun t => ∃ v, (t.member k).ctr.find? (a 2) = some (a 3, v)) ∧
    (Commanded s 0x10 → ∀ q, a 1 < 8 → a 2 < 256 → s.parts.find? (a 1) = some q → q.session = none →
      (s.ctxs.find? (a 1 * 256 + a 2)).isSome = true → Accepted .attach s [] fun t =>
        ∃ y z, t.parts.find? (a 1) = some y ∧ y.session = some z ∧ z.ctx = a 1 * 256 + a 2 ∧ z.replay = none) ∧
    (Commanded s 0x10 → a 1 = p → a 2 < 256 → p < 8 → Refused .attach s 2)

/-- spec/18 R306, R309, R312, R318: the apertures, the attestation report, and the resets of functions. What a register that no
table lists reads as is left open (log entry 20), and the digests and the signature are opaque functions of Config (log entry 11).
-/
def Obligations.HostAccess : Prop :=
  ∀ (s : State) (base size : Nat),
    let a := s.arg
    (s.aperture a.x = some (base, size) → a.y + a.data.length ≤ size →
      (∀ i < a.data.length, physOk (base + a.y + i) = true) →
      (∀ q ∈ s.parts, ∀ r ∈ [q.2.cfg.subq, q.2.cfg.compq + 4, q.2.cfg.faultq + 4, q.2.cfg.prs],
        r + 4 ≤ base + a.y ∨ base + a.y + a.data.length ≤ r) →
      ∃ t, exec .hostWrite s = .next t ∧ t.teams = s.teams ∧ t.parts = s.parts ∧ ∀ b, t.memByte b =
        if base + a.y ≤ b ∧ b < base + a.y + a.data.length then listGet 0 a.data (b - (base + a.y)) else s.memByte b) ∧
    (s.aperture a.x = none → exec .hostWrite s = .next s) ∧
    (a.u = 2 → s.aperture a.x = some (base, size) → (∀ i < a.z, a.y + i < size → physOk (base + a.y + i) = true) →
      ∃ t, exec .hostRead s = .next t ∧ t.mem = s.mem ∧ t.hostData.length = a.z ∧
        ∀ i < a.z, listGet 0 t.hostData i = if a.y + i < size then s.memByte (base + a.y + i) else 0xFF) ∧
    (a.u = 2 → s.aperture a.x = none → ∃ t, exec .hostRead s = .next t ∧ t.hostData = List.replicate a.z 0xFF) ∧
    (a.u = 0 → a.x = 8 → a.z = 8 →
      let reads (off : Nat) (v : W64) : Prop := a.y = off → ∃ t, exec .hostRead s = .next t ∧ t.hostData = natBytes 8 v.toNat
      reads 0 (s.offer.truncate 64) ∧ reads 0x10 (s.accept.truncate 64) ∧ reads 0x20 s.status ∧ reads 0x28 s.apbase ∧
        reads 0x30 s.tracecnt ∧ ∀ i < 8, reads (0x100 + 8 * i) (listGet 0 s.cmd i) ∧ reads (0x140 + 8 * i) (listGet 0 s.resp i)) ∧
    (a.u = 0 → a.x < 8 → (s.parts.find? a.x).isSome = false ∨ s.vfs = false →
      ∃ t, exec .hostRead s = .next t ∧ t.hostData = List.replicate a.z 0xFF) ∧
    (∃ r, exec .getMeasurements s = .next { s with hostData := r ++ Config.signReport r } ∧
      r.take 384 = (List.range 8).flatMap (fun i => digestBytes (s.measure.get 0 i)) ∧
      (r.drop 384).take a.data.length = a.data) ∧
    (∀ q, s.parts.find? a.x = some q → q.state = 1 → ∃ t, exec .functionLevelReset s = .next t ∧
      (s.ctxsOf a.x = [] → (t.parts.find? a.x).map Part.state = some 3) ∧
      (∀ n, q.cfg.slot0 ≤ n → n ≤ q.cfg.slot1 → t.slots.get .blank n = Slot.blank) ∧
      ∀ e ∈ t.windows, bits (listGet 0 e.2.1 3).toNat 8 3 = a.x → e.2.2 = true) ∧
    (∀ q, s.parts.find? a.x = some q → q.state = 3 →
      (s.ctxsOf a.x ≠ [] ∨ (∃ n ∈ s.exports a.x, s.windowQuiet n = false) → exec .flrComplete s = .next (s.defer .flrComplete)) ∧
      (s.ctxsOf a.x = [] → (∀ n ∈ s.exports a.x, s.windowQuiet n = true) → s.tfaults = [] → ∃ t r, exec .flrComplete s = .next t ∧ t.parts.find? a.x = some r ∧ r.state = 1 ∧
        r.errseq = 1 ∧ r.heldF = [] ∧ r.heldC = [] ∧ ∀ n, q.cfg.ev0 ≤ n → n ≤ q.cfg.ev1 → t.evt.get 0 n = 0)) ∧
    (∃ t, exec .pfFunctionLevelReset s = .next t ∧ t.mode = 0)

/-- spec/18 R317, R319 to R322: boot, the resets, throttling and the thermal stop. Whether a bundle is good is an opaque function
of Config (log entry 11). -/
def Obligations.PowerAndBoot : Prop :=
  ∀ s : State,
    let a := s.arg
    let good := Config.bundleGood s.flash = true ∧ s.rollback ≤ Config.bundleVersion s.flash
    let boots (i : Instr) : Prop :=
      (good → s.flashCfg = [] → ∃ t, exec i s = .next t ∧ t.power = .running ∧ t.mode = 0 ∧ t.cap = 3200 ∧ t.flash = s.flash) ∧
      (¬ good → ∃ t, exec i s = .next t ∧ t.power = .recovery ∧ t.mode = 3)
    let waits (i : Instr) : Prop := ∃ t, exec i s = .next t ∧ t.power = .heldReset
    let empty (t : State) : Prop := t.teams = [] ∧ t.gangs = [] ∧ t.ops = [] ∧ t.mem = [] ∧ t.parts = [] ∧ t.flash = s.flash
    let d := s.die a.x
    let limits (i : Instr) (cause : Nat) : Prop :=
      a.x < 2 → settingsOk a.y a.z a.u = true → a.y ≤ d.mhz → a.u ≤ d.limit → ∃ t, exec i s = .next t ∧ t.teams = s.teams ∧
        (t.die a.x).mhz = a.y ∧ (t.die a.x).mv = a.z ∧ (t.die a.x).limit = a.u ∧ cause ∈ (t.die a.x).causes ∧
        (s.traceS = 0 → t.tracecnt = s.tracecnt ∧ t.mem = s.mem) ∧
        (s.traceS ≠ 0 → t.tracecnt = if d.mhz = a.y ∧ d.mv = a.z ∧ d.limit = a.u then s.tracecnt else s.tracecnt + 1)
    (s.power = .boot → a.ok = false → boots .powerGood) ∧ (s.power = .boot → a.ok = true → waits .powerGood) ∧
    (s.power = .off → a.ok = false → boots .powerGood) ∧ (s.power = .running → exec .powerGood s = .next s) ∧
    (s.power ≠ .off → a.ok = false → boots .fundamentalReset ∧ ∃ t, exec .fundamentalReset s = .next t ∧ empty t) ∧
    (s.power ≠ .off → a.ok = true → waits .fundamentalReset) ∧ (s.power = .off → exec .fundamentalReset s = .next s) ∧
    (s.power = .heldReset → boots .junctionBelow85c) ∧ (s.power ≠ .heldReset → exec .junctionBelow85c s = .next s) ∧
    (∃ t, exec .modulePowerRemoval s = .next t ∧ t.power = .off ∧ empty t) ∧
    limits .thermal 1 ∧ limits .current 2 ∧ limits .droop 3 ∧ limits .budget 4 ∧
    (a.x < 2 → a.y ∈ d.causes → settingsOk a.z a.u a.v = true → d.mhz ≤ a.z → d.limit ≤ a.v → ∃ t, exec .throttleRestore s = .next t ∧
      (t.die a.x).mhz = a.z ∧ (t.die a.x).mv = a.u ∧ (t.die a.x).limit = a.v ∧
      (a.y ∈ (t.die a.x).causes ↔ ¬ (a.z = 3000 ∧ a.v = 100))) ∧
    (∃ t, exec .thermalStop s = .next t ∧ t.power = .stopped ∧ t.trip = true ∧ empty t)

/-! ## The fabric -/

/-- spec/12 R220, R229 to R234, spec/18 R313 to R316: what arrives over the fabric. spec/12 R232, R233: when every segment of an
incoming command that names a trigger slot is over, an IDLE slot latches, an ARMED one fires its command, and a LATCHED one
answers TRIGGER_OVERRUN. The order of the window checks and the codes of the answers are the model's (log entries 17, 19), as is the order in which
answers to a command's segments are taken (log entry 71). -/
def Obligations.FabricEvents : Prop :=
  (∀ s : State, s.incoming = [] →
     let a := s.arg
     let w := s.peerW none false
     let n := a.data.length
     let len := listGet 0 a.list 0
     (∀ dev part win off k wr,
       (s.windows.find? win = none → s.windowCheck dev part win off k wr = 2) ∧
       (∀ e revoked, s.windows.find? win = some (e, revoked) →
         let d2 := listGet 0 e 2
         let d3 := listGet 0 e 3
         (s.windowCheck dev part win off k wr = 0 ↔ revoked = false ∧ d3.getLsbD 0 = true ∧
           (bits d2.toNat 0 16 = 0xFFFF ∨ bits d2.toNat 0 16 = dev) ∧ (d2.getLsbD 19 = true ∨ bits d2.toNat 16 3 = part) ∧
           d3.getLsbD (if wr then 2 else 1) = true ∧ off + k ≤ (listGet 0 e 1).toNat))) ∧
     PeerWrites .peerWriteSegment s w (fun t => t.incoming = []) ∧
     (0 < n → a.u % 128 + n ≤ 128 → a.marks.length ≤ n → s.windowCheck a.x a.y a.z a.u n true ≠ 0 →
       ∃ t, exec .peerWriteSegment s = .next t ∧ t.outbox = s.outbox ++ [w.answer (s.windowCheck a.x a.y a.z a.u n true)] ∧ t.mem = s.mem) ∧
     (∀ k, a.slot = some k → k < 4096 → PeerWrites .trigSeg s (s.peerW (some k) false) fun t =>
       ∃ c, t.incoming = [c] ∧ c.slot = some k ∧ c.dev = a.x ∧ c.last = a.ok) ∧
     (a.slot = none → exec .trigSeg s = .next s) ∧
     (∀ d, s.pod = some d → d ∈ a.list → PeerWrites .mcastSeg s (s.peerW a.slot true) fun t => ∃ c, t.incoming = [c] ∧ c.mcast = true) ∧
     (∀ d, s.pod = some d → d ∉ a.list → exec .mcastSeg s = .next s) ∧
     (∀ l pa, 0 < len → a.u % 128 + len ≤ 128 → a.list.length = 1 → s.ecc = [] → PeerPage s len false l pa →
       ∃ t m, exec .peerReadSegment s = .next t ∧ t.outbox = s.outbox ++ [m] ∧ m.dev = a.x ∧ m.arg = 5 ∧ m.req = a.v ∧
         m.data = s.memBytes pa len ∧ t.mem = s.mem) ∧
     (∀ l pa v, 0 < len → a.u % 128 + len ≤ 128 → a.list[1]? = some v → (l.isSealed = false ∨ l.version ≠ v) → PeerPage s len false l pa →
       ∃ t, exec .peerReadSegment s = .next t ∧ t.outbox = s.outbox ++ [w.answer 8]) ∧
     (len ≠ 0 → s.windowCheck a.x a.y a.z a.u len false ≠ 0 →
       ∃ t, exec .sealQuery s = .next t ∧ t.outbox = s.outbox ++ [w.answer (s.windowCheck a.x a.y a.z a.u len false)]) ∧
     (len ≠ 0 → s.windowCheck a.x a.y a.z a.u len false = 0 → ∀ e,
       s.pagesOf (s.windowVa a.z a.u).1 (len / 4096 + 2) (s.windowVa a.z a.u).2 ((s.windowVa a.z a.u).2 + len) = some [e] →
       ∃ t m, exec .sealQuery s = .next t ∧ t.outbox = s.outbox ++ [m] ∧ m.code = 9 ∧ m.last = e.2.isSealed ∧
         m.arg = if e.2.isSealed then e.2.version else 0) ∧
     (∀ x m, s.ops.find? a.x = some x → x.kind = .vref → x.started = true → x.reqs = [] → s.sent a.x a.y = some m →
       (a.u ≠ 1 → 1 ≤ a.z → a.z ≤ 8 → ∃ t, exec .segNack s = .next t ∧ Completes t a.x x cFabric) ∧
       (∃ t, exec .staleNack s = .next t ∧ Completes t a.x x cFabric) ∧
       (a.u ≠ 1 → ∃ t, exec .linkTimeout s = .next t ∧ Completes t a.x x cFabric)) ∧
     (a.z = 0 ∨ 9 < a.z → exec .segNack s = .next s) ∧
     (∀ x b k l, s.ops.find? a.x = some x → x.kind = .vref → x.started = true → x.cause = 0 →
       x.reqs = [{ oneReq b k [] with id := a.z, st := .port }] →
       s.pagesOf (s.gang x.gang).part (k / 4096 + 1) b (b + k) = some l →
       ∃ t, exec .sealReply s = .next t ∧ Completes t a.x x 0) ∧
     (∀ x q, s.req a.x a.y = some (x, q) → q.st = .port →
       (x.isPb = true → ∃ t y q', exec .peerWriteAck s = .next t ∧ t.req a.x a.y = some (y, q') ∧ q'.st = .done) ∧
       (x.isPb = false → q.stage = 3 → s.answerEarly a.x a.y = true → exec .peerWriteAck s = .next (s.defer .peerWriteAck)) ∧
       (x.isPb = false → q.stage = 3 → s.answerEarly a.x a.y = false → ∃ t y q', exec .peerWriteAck s = .next t ∧ t.req a.x a.y = some (y, q') ∧ q'.st = .performed)) ∧
     (∀ x, s.ops.find? a.x = some x → x.kind = .copy → x.started = true → x.snap ≠ [] → x.blk.dspace = 5 → x.answered = false →
       (a.y ∈ x.list → (∀ e ∈ x.neg, e.1 ≠ a.y) → x.commit.contains (2 ^ 43 + a.y) = false →
         (a.z = 0 → ∃ t y, exec .memberAck s = .next t ∧ t.ops.find? a.x = some y ∧ y.pos2 = x.pos2 + 1) ∧
         (a.z ≠ 0 → ∃ t y, exec .memberAck s = .next t ∧ t.ops.find? a.x = some y ∧ y.neg = x.neg ++ [(a.y, a.z)])) ∧
       (a.y ∈ x.list → (∃ e ∈ x.neg, e.1 = a.y) ∨ x.commit.contains (2 ^ 43 + a.y) = true → exec .memberAck s = .next s) ∧
       (a.u ≠ 1 → a.z ∈ x.list → (∀ e ∈ x.neg, e.1 ≠ a.z) → x.commit.contains (2 ^ 43 + a.z) = false → ∃ t y, exec .linkTimeout s = .next t ∧ t.ops.find? a.x = some y ∧
         y.neg = x.neg ++ [(a.z, 6)])) ∧
     (∀ l pa, len = 0 → a.list[1]? = some 1 → a.ok = false → a.u % 16 = 0 → s.ecc = [] →
       PeerPage s 16 true l pa → l.type = 0 →
       let b := s.pbMem pa
       b.init = true → scopeSuits false b.scope = true → s.marked (pa / 64) = false → b.held = [] → b.pending ≠ 0 →
       ∃ t, exec .pbarEvent s = .next t ∧
         (1 < b.pending → (t.pbMem pa).pending = b.pending - 1 ∧ (t.pbMem pa).phase = b.phase) ∧
         (b.pending = 1 → b.balance = 0 → (t.pbMem pa).pending = b.expect ∧ (t.pbMem pa).phase = b.phase + 1)) ∧
     (∀ u x k p, x.obj = .phaseBar k → (s.team u).wait = some x → s.teams.find? u = some (s.team u) → 1 ≤ x.phase → x.asked = false → x.result = none →
       s.pbLook u k (BitVec.ofNat 32 (x.phase - 1)) = .remote a.x a.z a.u → p = BitVec.ofNat 32 (x.phase - 1) + 1 →
       a.w = p.zeroExtend 64 → a.ok = false → ∃ t, exec .pbarRelease s = .next t ∧
         (t.team u).wait = some { x with result := some (BitVec.ofNat 64 (p.toNat * 2 ^ 32 + 1)) }) ∧
     (a.x = 0 ∨ 10 ≤ a.x → exec .reservedMessage s = .next { s with dropped := s.dropped + 1 }) ∧
     (a.x < Config.ports →
       let old := s.ports.get .blank a.x
       let permitted := s.stdRate = true ∨ (a.ok = true ∧ s.penuraRate = true)
       (∃ t, exec .linkTrain s = .next t ∧
         (permitted → (t.ports.get .blank a.x).lanes = (if old.failed = 0 then 4 else if old.failed = 1 then 2 else 0) ∧
           ((t.ports.get .blank a.x).up = true ↔ old.failed ≤ 1) ∧
           ((t.ports.get .blank a.x).penura = true ↔ a.ok = true ∧ s.penuraRate = true)) ∧
         (¬ permitted → (t.ports.get .blank a.x).up = false)) ∧
       (old.up = true → old.failed < 4 → ∃ t, exec .laneFailure s = .next t ∧ (t.ports.get .blank a.x).failed = old.failed + 1 ∧
         ((t.ports.get .blank a.x).up = true ↔ old.failed = 0)))) ∧
  (∀ (s : State) (c : Inc) (m : Msg),
     let a := s.arg
     let slot := s.slots.get .blank a.x
     let now (t : State) : Slot := t.slots.get .blank a.x
     (a.u ≠ 1 → s.incoming = [c] → c.dev = a.y → c.tag = a.z → c.slot = some a.x → c.held = some m → c.mcast = false →
       (slot.st = .idle → ∃ t, exec .triggerFire s = .next t ∧ now t = { st := .latched, op := 0, refused := c.cause != 0 } ∧
         t.outbox = s.outbox ++ [m] ∧ t.incoming = []) ∧
       (slot.st = .latched → ∃ t, exec .triggerFire s = .next t ∧ now t = slot ∧ t.outbox = s.outbox ++ [{ m with code := 8, arg := 7 }]) ∧
       (∀ x, slot.st = .armed → s.ops.find? slot.op = some x → ∃ t y, exec .triggerFire s = .next t ∧ now t = Slot.blank ∧
         t.outbox = s.outbox ++ [m] ∧ t.ops.find? slot.op = some y ∧ y.failed = true ∧
         t.agenda = s.agenda ++ [.event .triggerFire { Args.none with y := slot.op, u := 1, ok := c.cause != 0 }])) ∧
     (∀ x, a.u = 1 → s.ops.find? a.y = some x → x.kind = .trig → x.failed = true → s.opLive x = true →
       (a.ok = true → ∃ t, exec .triggerFire s = .next t ∧ Completes t a.y x cFabric) ∧
       (a.ok = false → ((s.member x.member).queues.get [] x.queue).length < 16 → ∃ t y, exec .triggerFire s = .next t ∧
         t.ops.find? a.y = some y ∧ y.kind = .copy ∧ y.started = false ∧
         (t.member x.member).queues.get [] x.queue = (s.member x.member).queues.get [] x.queue ++ [a.y])))


/-! ## Launches, gangs and the Scheduler -/

/-- spec/07 R136, R138, R145 to R150, R153, spec/16 R295, R298: signals and waits, the rings, placement, pre-emption, deadlines
and the wait-for walk. An event that cannot take place yet is put back at the end of the model's agenda (log entry 4); the
wait-for walk is read as log entry 18 says. -/
def Obligations.SchedulerEvents : Prop :=
  ∀ s : State,
    let a := s.arg
    let count (t : State) (n : Nat) : W32 := t.evt.get 0 n
    (s.allOver a.list = false → exec .eventSignal s = .next (s.defer .eventSignal)) ∧
    (s.allOver a.list = true → a.y = 0 → a.z = 0 → a.slot = none →
      ((∀ c ∈ s.ctxs, ∀ w ∈ c.2.waits, w.name = a.x → waitMet (count s a.x + 1) w.target = false) →
        ∃ t, exec .eventSignal s = .next t ∧ count t a.x = count s a.x + 1 ∧ (∀ n, n ≠ a.x → count t n = count s n) ∧
          t.teams = s.teams ∧ t.mem = s.mem) ∧
      (∀ c x w, s.ctxs = [(c, x)] → x.waits = [w] → w.name = a.x → waitMet (count s a.x + 1) w.target = true → x.st = .waiting →
        x.batch = false → x.signalOnly = false → ∃ t y, exec .eventSignal s = .next t ∧ t.ctxs.find? c = some y ∧
          y.st = .eligible ∧ y.since = s.ns ∧ y.waits = [])) ∧
    (∀ c x, s.allOver a.list = true → a.y = c + 1 → a.z = 0 → a.slot = none → s.ctxs.find? c = some x → x.halt = true →
      exec .eventSignal s = .next s) ∧
    (∀ pt, s.parts.find? a.x = some pt → pt.puts = [] → pt.cfg.subq + 8 ≤ pt.cfg.compq →
      let put : W32 := a.w.truncate 32
      let cq := pt.cfg.compq
      let slot := cq + 0x80 + (s.mem32 cq).toNat % 62 * 64
      (pt.state ≠ 1 → ∃ t q, exec .submissionBatch s = .next t ∧ t.mem32 pt.cfg.subq = put ∧ t.parts.find? a.x = some q ∧
        q.puts = [put]) ∧
      (pt.state = 1 → s.power = .running → s.ctxs = [] → pt.heldC = [] → 31 < (put - s.mem32 (pt.cfg.subq + 4)).toNat →
        (s.mem32 cq - s.mem32 (cq + 4)).toNat < 62 →
        ∃ t q, exec .submissionBatch s = .next t ∧ t.mem32 pt.cfg.subq = put ∧ t.mem32 (pt.cfg.subq + 4) = put ∧
          t.mem32 cq = s.mem32 cq + 1 ∧ t.mem64 slot = BitVec.ofNat 64 (a.x * 2 ^ 24 + 12 * 2 ^ 8 + 2) ∧
          t.parts.find? a.x = some q ∧ q.puts = []) ∧
      exec .submissionResume s = .next s) ∧
    (∀ pt put, s.parts.find? a.x = some pt → pt.puts = [put] → pt.cfg.subq + 8 ≤ pt.cfg.compq → pt.state = 1 → s.power = .running →
      s.ctxs = [] → pt.heldC = [] → (s.mem32 pt.cfg.compq - s.mem32 (pt.cfg.compq + 4)).toNat < 62 →
      let cq := pt.cfg.compq
      let slot := cq + 0x80 + (s.mem32 cq).toNat % 62 * 64
      let get := s.mem32 (pt.cfg.subq + 4)
      let resumes (p : State → Prop) : Prop := ∃ t q, exec .submissionResume s = .next t ∧ t.mem32 (pt.cfg.subq + 4) = put ∧
        t.parts.find? a.x = some q ∧ q.puts = [] ∧ p t
      let rejected (cause : Nat) (t : State) : Prop := t.mem32 cq = s.mem32 cq + 1 ∧
        t.mem64 slot = BitVec.ofNat 64 (a.x * 2 ^ 24 + cause * 2 ^ 8 + 2)
      (31 < (put - get).toNat → resumes (rejected 12)) ∧
      ((put - get).toNat ≤ 31 → pt.taken = put → resumes fun t => t.mem32 cq = s.mem32 cq) ∧
      (put = get + 1 → pt.taken = get →
        let r := s.subRecord pt.cfg.subq get
        ∀ cause off, s.verify a.x pt r (if r.signalOnly then none else some (s.readImage a.x r.image)) = some (cause, off) →
          cause < 2 ^ 8 → resumes (rejected cause))) ∧
    (∀ pt ws, s.parts.find? a.x = some pt → pt.heldC = [ws] → ws.length = 8 → (ws.headD 0).toNat % 256 = 2 →
      let cq := pt.cfg.compq
      (s.mem32 cq - (a.w.truncate 32 : W32)).toNat < 62 → ∃ t q, exec .heldCompletionRelease s = .next t ∧
        t.parts.find? a.x = some q ∧ q.heldC = [] ∧ t.mem32 cq = s.mem32 cq + 1 ∧ t.mem32 (cq + 4) = a.w.truncate 32 ∧
        ∀ i < 8, t.mem64 (cq + 0x80 + (s.mem32 cq).toNat % 62 * 64 + 8 * i) = listGet 0 ws i) ∧
    (∀ c pt x i, Placeable s a.x c pt x i →
      let g := gangKey c 0
      (s.gangs = [] → ∀ l, s.freeSet pt i.size = some l → ∃ t, exec .gangPlacement s = .next t ∧ (t.gang g).st = .resident ∧
        (t.gang g).cores = l ∧ ∀ k ∈ l, (t.core k).issuing = some g) ∧
      (s.freeSet pt i.size = none → (∀ q ∈ s.gangs, q.2.part = a.x → q.2.st = .resident → s.gangDone q.1 = false) → exec .gangPlacement s = .next (s.postOnce .preEmption a.x)) ∧
      (s.ns - x.since ≤ pt.cfg.preempt * 1000 → exec .preEmption s = .next (s.postOnce .preEmption a.x))) ∧
    (∀ c pt x i l v, s.parts.find? a.x = some pt → (s.placeOrder a.x).head? = some (c, false) → s.ctxs.find? c = some x → x.places = true → x.placed = 0 →
      0 < x.gangs → x.coresAll = false → s.awayGangs c = [] → pt.cfg.preempt * 1000 < s.ns - x.since →
      s.images.find? (blankKey c) = some i → i.kind = 0 → i.ops = [] → i.gang.bevents = [] → i.gang.swait = none → i.gang.awaits = 0 →
      s.chooseVictims pt x.prio i.size = some (l, [v]) → v ≠ gangKey c 0 →
      ∃ t, exec .preEmption s = .next t ∧ (t.gang v).st = .spilling ∧ (t.gang (gangKey c 0)).st = .resident ∧
        (t.gang (gangKey c 0)).cores = l) ∧
    ((s.gang a.x).st = .spilling → ∃ t, exec .spillComplete s = .next t ∧ (t.gang a.x).st = .spilled ∧
      ∀ k ∈ (s.gang a.x).cores, (t.core k).shadow ≠ some a.x) ∧
    ((s.gang a.x).st ≠ .spilling → exec .spillComplete s = .next s) ∧
    ((s.gang a.x).st ≠ .spilled ∨ (s.gang a.x).image = 0 →
      (∀ x q, a.ok = false → s.req a.y a.z = some (x, q) → x.kind = .vst → ∃ t y q', exec .replyPatch s = .next t ∧
        (t.gang a.x).awaits = (s.gang a.x).awaits - 1 ∧ t.req a.y a.z = some (y, q') ∧ q'.st = .done) ∧
      (a.ok = true → ∃ t, exec .replyPatch s = .next t ∧ (t.gang a.x).awaits = (s.gang a.x).awaits - 1 ∧ t.ops = s.ops ∧
        ((s.gang a.x).awaits ≤ 1 → turnOf .gangPlacement (partOf (ctxOf a.x)) 0 ∈ t.agenda))) ∧
    (∀ x, s.ctxs.find? a.x = some x → x.st ≠ .ended → x.fatal = false → x.missed = false →
      (s.ns < x.since + x.deadline * 1000 → exec .deadlineExpiry s = .next (s.defer .deadlineExpiry)) ∧
      (x.since + x.deadline * 1000 ≤ s.ns → ∃ t y, exec .deadlineExpiry s = .next t ∧ t.ctxs.find? a.x = some y ∧ y.missed = true)) ∧
    (∀ x, s.ctxs.find? a.x = some x → x.missed = true → exec .deadlineExpiry s = .next s) ∧
    (∀ pt, s.parts.find? a.x = some pt →
      (s.ns < a.z → exec .waitForWalk s = .next (s.defer .waitForWalk)) ∧
      (a.z ≤ s.ns → (∀ c ∈ s.ctxs, c.2.st ≠ .eligible) → exec .waitForWalk s =
        .next (s.push [.event .waitForWalk { Args.none with x := a.x, z := s.ns + pt.cfg.walk * 1000 }])) ∧
      (∀ c x g, a.z ≤ s.ns → s.ctxs = [(c, x)] → partOf c = a.x → x.st = .eligible → x.halt = false → x.fatal = false →
        s.gangsOf c = [g] → (s.gang g).st = .resident → (∀ h, s.replaying h = false) →
        (∀ e ∈ s.waitEntries g, e.agent ≠ 4 ∧ e.agent ≠ 6) → deadlocked (s.waitEntries g) ≠ [] →
        ∃ t y, exec .waitForWalk s = .next t ∧ t.ctxs.find? c = some y ∧ y.halt = true ∧ y.fatal = true ∧ y.st = .halting))

/-! ## Operations in flight -/

/-- spec/01 R12, spec/03 R61, R62, R65, spec/04 R105, spec/06 R133, spec/08 R154, R160, R163, R168, R169, R179, spec/11 R208,
R211, R212, spec/20 R330: how operations, lane blocks, links and waits go on. An event that cannot take place yet is put back at
the end of the model's agenda (log entry 4), the digits of a stream come one at a time (log entry 7), and a command's segments are credited in
order (log entry 71). -/
def Obligations.OperationEvents : Prop :=
  ∀ (s : State) (x : Op),
    let a := s.arg
    (s.ops.find? a.x = some x →
      let now (t : State) (p : Op → Prop) : Prop := ∃ y, t.ops.find? a.x = some y ∧ p y
      (x.started = false → x.isLane = false → x.kind ≠ .copy → x.kind ≠ .mepi → x.kind ≠ .credit → (∀ q ∈ x.reqs, q.id ≠ snapId) →
        (x.waiting ≠ 0 → exec .preconditionsMet s = .next (s.defer .preconditionsMet)) ∧
        (∀ c o, x.waiting = 0 → s.allOver x.after = true → s.opFresh x = true → x.pois = some (c, o) → x.kind.runsPoisoned = false →
          ∃ t, exec .preconditionsMet s = .next t ∧ Completes t a.x x cInherited) ∧
        (x.waiting = 0 → s.allOver x.after = true → s.opFresh x = true → x.pois = none → x.isPb = true →
          ∃ t, exec .preconditionsMet s = .next t ∧ now t (fun y => y.started = true) ∧
            t.agenda = s.agenda ++ [turnOf .phaseBarrierEvent a.x 0])) ∧
      (x.isLane = true → x.allDone = true → x.kind ≠ .vprf →
        ∃ t, exec .laneMemoryComplete s = .next t ∧ Completes t a.x x x.cause) ∧
      (∀ q, x.reqs = [q] → x.isScalar = true → q.st = .done → ∃ t, exec .scalarGlobalComplete s = .next t ∧ Completes t a.x x x.cause ∧
        (t.team x.team).s = (s.team x.team).s) ∧
      (∀ q l word, x.reqs = [q] → x.kind = .sldg word → q.st = .ready → s.opLive x = true → s.clear a.x x q = true →
        s.replaying (gangOf x.team) = false → q.addr < 2 ^ 54 → s.lookup (s.opCore x) (s.gang x.gang).part q.addr = some l →
        l.loads = true → s.ecc = [] → s.markedRange (l.pa q.addr) q.n = false → 0 < x.reg → x.reg < 64 →
        ((s.team x.team).loads.any fun e => e.op == a.x && e.clob) = false → ∃ t, exec .scalarGlobalComplete s = .next t ∧
          Completes t a.x x x.cause ∧ (t.team x.team).getS (BitVec.ofNat 6 x.reg) =
            BitVec.ofNat 64 (bytesNat (s.memBytes (l.pa q.addr) q.n))) ∧
      (x.kind = .copy → x.started = false → s.queueHead a.x x = true → (∀ q ∈ x.reqs, q.id ≠ snapId) → s.opFresh x = true →
        (x.waiting ≠ 0 → exec .copyStart s = .next (s.defer .copyStart)) ∧
        (∀ l s', x.waiting = 0 → s.allOver x.after = true → x.pois = none → s.snapBlock a.x x x.a = .words l s' → s'.ops = s.ops →
          s'.checkBlk { x with snap := l } { x with snap := l }.blk = none → { x with snap := l }.blk.dspace ≠ 5 →
          ∃ t, exec .copyStart s = .next t ∧ now t (fun y => y.started = true ∧ y.snap = l ∧ y.pos = 0 ∧ y.attempt = 1) ∧
            turnOf .copySegment a.x (2 ^ 48) ∈ t.agenda)) ∧
      (∀ zero, x.kind = .copy → x.started = true → x.finished = false → x.failed = false → a.z = 0 → a.y = x.segId x.pos →
        (∀ q ∈ x.reqs, q.id ≠ a.y ∧ q.open_ = false ∧ q.st ≠ .port) → x.outstanding < 32 → s.opFresh x = true → x.pois = none → x.pos < x.blk.total → x.pos < 2 ^ 48 →
        x.commit.contains x.pos = false → x.blk.elem x.pos = .const zero → x.blk.dspace = 1 → x.blk.rop = 0 → s.sampleN = 0 →
        let n := x.blk.run 127 x.pos * x.blk.esize
        let dst := x.blk.dst x.pos
        (s.member x.member).spHit dst n 1 .copy none = none → ∃ t, exec .copySegment s = .next t ∧
          now t (fun y => y.pos = x.pos + x.blk.run 127 x.pos) ∧
          (∀ b, (t.member x.member).pad.get 0 b = if dst ≤ b ∧ b < dst + n then
            listGet 0 (if zero then List.replicate n 0 else x.blk.fill n) (b - dst) else (s.member x.member).pad.get 0 b)) ∧
      (∀ q, a.x < s.nextOp → s.req a.x a.y = some (x, q) → q.st = .performed → q.id < snapId → ∃ t y q', exec .copySegmentAck s = .next t ∧
        t.req a.x a.y = some (y, q') ∧ q'.st = .done ∧
        ((∀ r ∈ x.reqs, r.id < snapId → r.id ≠ q.id → r.st = .done ∧ segPos r.id ∈ x.applied) → segPos q.id ∈ y.applied ∧
          y.credited = if segPos q.id ∈ x.applied then x.credited else x.credited + q.n) ∧
        (∀ r, (x.reqs.filter fun r => decide (r.id < snapId)).head? = some r → r.id ≠ q.id → r.st ≠ .done →
          y.applied = x.applied ∧ y.credited = x.credited)) ∧
      (x.failed = true → x.attempt < 3 → x.started = true → s.opLive x = true → (∀ q ∈ x.reqs, q.st = .done ∨ q.open_ = true) →
        ∃ t, exec .copyAttemptFail s = .next t ∧ now t (fun y => y.attempt = x.attempt + 1 ∧ y.pos = 0 ∧ y.failed = false)) ∧
      (x.kind = .copy → x.finished = true → ∃ t, exec .copyComplete s = .next t ∧ Completes t a.x x x.cause ∧
        a.x ∉ (t.member x.member).queues.get [] x.queue) ∧
      (x.kind = .xred ∨ x.kind = .xgat ∨ x.kind = .xa2a → x.started = true → x.finished = false →
        (x.pos < x.steps → s.opFresh x = true → s.replaying (x.member / 4) = false → s.replaying x.gang = false → a.z = 1 →
          a.data.length = (x.stepAt x.pos a.u).2 * x.desc.size →
          x.kind ≠ .xa2a ∨ (a.u < x.desc.n ∧ a.u ≠ x.desc.rank ∧ a.u ∉ x.list) →
          ∃ t, exec .collectiveStep s = .next t ∧ now t (fun y => y.pos = x.pos + 1 ∧ y.list = a.u :: x.list)) ∧
        (x.steps ≤ x.pos → (∀ q ∈ x.reqs, q.st = .done) → a.x < s.nextOp → ∃ t y, exec .collectiveComplete s = .next t ∧ now t (fun z => z.finished = true) ∧
          t.ops.find? s.nextOp = some y ∧ y.kind = .credit ∧ y.a = x.desc.pbar ∧ y.aop = 1)) ∧
      (∀ e, let f := (s.member x.member).fifo x.blk.darg
        (s.member x.member).mq = [] → f.entries.find? a.y = some e → ∃ t e', exec .fifoEntryLand s = .next t ∧
          ((t.member x.member).fifo x.blk.darg).entries.find? a.y = some e' ∧ e' = { e with landed := true })) ∧
    (∀ i, (∀ k ∈ s.membersOf a.x, (s.member k).mq = []) → (s.gang a.x).minstrs = [i] → i.isOver = true →
      (i.ba = none → ∃ t, exec .matrixComplete s = .next t ∧ (t.gang a.x).minstrs = [] ∧ (t.gang a.x).bevents = (s.gang a.x).bevents) ∧
      (∀ n, i.ba = some n → (s.gang a.x).bevents = [] → (s.gang a.x).belongs n.toNat 256 = true →
        ((s.gang a.x).bar n.toNat).arrivals.getLsbD 256 = false → ∃ t, exec .matrixComplete s = .next t ∧ (t.gang a.x).minstrs = [] ∧
          (t.gang a.x).bevents = [{ mem := 256, kind := .arrive n (s.gang a.x).spois, after := [] }] ∧ (t.gang a.x).spois = false)) ∧
    (let tm := s.team a.x
     let k := tm.stream a.y a.z
     let now (t : State) : Link := (t.team a.x).stream a.y a.z
     let ends (t : State) : Prop := if a.y < 16 then (now t).st = .complete ∧ (now t).value = k.value
       else (t.team a.x).vs.find? ((a.y - 16) * 1024 + a.z) = none ∧ (t.team a.x).v = tm.v
     (s.gang (gangOf a.x)).st = .resident → tm.laneStopped = false → k.st = .streaming → k.pend = false → tm.sourcesReady k a.z = true →
      tm.cmpd = [] →
      (k.hdr = false → k.digits = [] → streamsDigits k.value = true → ∃ t, exec .digitArrival s = .next t ∧ (now t).hdr = true ∧
        (now t).digits = [] ∧ (now t).st = .streaming) ∧
      (k.hdr = false → streamsDigits k.value = false → ∃ t, exec .digitArrival s = .next t ∧ ends t) ∧
      (k.hdr = true → streamsDigits k.value = true → k.digits.length < 12 → ∃ t, exec .digitArrival s = .next t ∧
        (now t).digits.length = k.digits.length + 1 ∧ (now t).st = .streaming) ∧
      (k.hdr = true → streamsDigits k.value = true → k.digits.length = 12 → ∃ t, exec .digitArrival s = .next t ∧ ends t)) ∧
    (∀ b rest, let t0 := s.team a.x
      t0.laneStopped = false → (s.gang (gangOf a.x)).st = .resident → t0.running = none → t0.queue = .block b :: rest →
      (b.waiting ≠ 0 → exec .laneBlockIssue s = .next (s.defer .laneBlockIssue)) ∧
      (b.waiting = 0 → s.allOver b.after = true →
        (b.pois = none → ∃ t, exec .laneBlockIssue s = .next t ∧ (t.team a.x).running = some b ∧ (t.team a.x).queue = rest) ∧
        (∀ c o, b.pois = some (c, o) → ∃ t, exec .laneBlockIssue s = .next t ∧ (t.team a.x).running = none ∧
          (t.team a.x).getT b.tok = { st := .poisoned, claimed := false, cause := cInherited, origin := o }))) ∧
    (∀ b rest, (s.team a.x).ended = b :: rest → (s.team a.x).streamsOver b.disp = true → ∃ t, exec .laneBlockComplete s = .next t ∧
      (t.team a.x).ended = rest ∧ (t.team a.x).getT b.tok = { st := .done, claimed := false, cause := 0, origin := 0 }) ∧
    (∀ u rest w b, (s.member a.x).vq = u :: rest → (s.team u).wait = some w → w.obj = .pool b →
      ((s.team u).units b ≤ s.freeUnits (a.x / 4) (a.x % 4) → ∃ t, exec .vgrowGrant s = .next t ∧ (t.member a.x).vq = rest ∧
        (t.team u).budget = (s.team u).budget + b ∧ (t.team u).wait = some { w with result := some 0 }) ∧
      (s.freeUnits (a.x / 4) (a.x % 4) < (s.team u).units b → exec .vgrowGrant s = .next (s.defer .vgrowGrant))) ∧
    (∀ w n, (s.team a.x).wait = some w → w.limit = some n → w.result = none → (s.team a.x).met w = false → (s.team a.x).stopped = false →
      (w.since + n < s.cycleOf (s.teamCore a.x) → ∃ t, exec .waitLimitExpiry s = .next t ∧
        (t.team a.x).wait = some { w with result := some 0 }) ∧
      (s.cycleOf (s.teamCore a.x) ≤ w.since + n → exec .waitLimitExpiry s = .next (s.defer .waitLimitExpiry))) ∧
    (∀ w k v, (s.team a.x).wait = some w → w.obj = .phaseBar k → w.result = none → w.phase ≠ 0 →
      s.pbLook a.x k (BitVec.ofNat 32 (w.phase - 1)) = .status v →
      (phaseDone v = true → ∃ t, exec .phaseRelease s = .next t ∧ (t.team a.x).wait = some { w with result := some v }) ∧
      (phaseDone v = false → exec .phaseRelease s = .next (s.defer .phaseRelease)))

/-! ## Memory: homes, copies, translation and scratchpads -/

/-- spec/04 R105, R107, spec/06 R124, R127, spec/12 R219, spec/14 R242, R244, R246 to R251, R257, R258, spec/15 R273, spec/18
R311, spec/22 R345, R347: how requests are performed, and the steps of homes, near caches, translations and watch entries. An
event that cannot take place yet is put back at the end of the model's agenda (log entry 4). -/
def Obligations.MemoryEvents : Prop :=
  ∀ s : State,
    let a := s.arg
    (∀ x q, RequestReady s x q →
      (∀ l, AtHome s x q l Leaf.stores →
        ∃ t, exec .homeWrite s = .next t ∧ Stored s t (l.pa q.addr) q.data ∧ AwaitsHome s t ∧ t.teams = s.teams ∧
          (x.covers q (q.addr / 64) = false → t.marks = s.marks)) ∧
      (∀ l, AtHome s x q l Leaf.atomics → s.ecc = [] → s.markedRange (l.pa q.addr) q.n = false → q.data.length = q.n → 0 < q.n →
        let old := bytesNat (s.memBytes (l.pa q.addr) q.n)
        ∃ t new, exec .homeAtomic s = .next t ∧ AtomicLeaves x.aop q.n old (bytesNat q.data) (bytesNat q.cmp) new ∧
          Stored s t (l.pa q.addr) (natBytes q.n new) ∧ AwaitsHome s t ∧ NowReq s t fun _ r => r.cmp = natBytes q.n old) ∧
      (∀ l, AtHome s x q l Leaf.loads → LoadsOne s x q → q.passing x = false → s.ownStore x (s.opCore x) (l.pa q.addr) q.n = false →
        (∀ c, s.nearHit (s.opCore x) (l.pa q.addr / 128) l = some c → c.markedIn (l.pa q.addr) q.n = false →
          ∃ t, exec .nearCacheFill s = .next t ∧ LaneTook s t x q (c.at_ (l.pa q.addr) q.n)) ∧
        (s.nearHit (s.opCore x) (l.pa q.addr / 128) l = none → l.isSealed = true → s.ecc = [] →
          s.markedRange (l.pa q.addr) q.n = false → ∃ t c, exec .nearCacheFill s = .next t ∧
            LaneTook s t x q (s.memBytes (l.pa q.addr) q.n) ∧ (t.core (s.opCore x)).near.find? (l.pa q.addr / 128) = some c ∧
            c.st = .sealedc ∧ c.bytes = s.memBytes (l.pa q.addr / 128 * 128) 128)) ∧
      (∀ y r, s.req a.z a.u = some (y, r) → a.x ≠ a.z → s.mergePair x y q r = true → s.ripe a.z y r = true →
        ∃ t y' r', exec .routerMerge s = .next t ∧ t.mem = s.mem ∧ t.req a.z a.u = some (y', r') ∧ r'.st = .merged a.x a.y ∧
          r'.cmp = q.data ∧ NowReq s t fun _ q' =>
            q'.data = natBytes q.n (atomicNew x.aop q.n (bytesNat q.data) (bytesNat r.data) 0)) ∧
      (let mk := memberKey x.gang (q.addr / 2 ^ 21)
       let at_ := q.addr % 2 ^ 21
       let cls := (s.laneClass x (q.addr / 2 ^ 21)).1
       q.count = 0 → s.quarterAhead x.gang (x.member % 4) (s.team x.team).quarter (q.addr / 2 ^ 21) a.x (q.id / 32) = false →
        (x.kind = .vst → (s.member mk).spHit at_ q.n 1 cls none = none →
          ∃ t, exec .scratchpadAccess s = .next t ∧ PadHolds s t mk at_ q.data ∧ t.mem = s.mem ∧ NowReq s t fun _ r => r.st = .done) ∧
        (x.kind ≠ .vst → x.md.getLsbD 0 = false → (s.member mk).lineSt at_ = 0 →
          ∃ t, exec .scratchpadAccess s = .next t ∧ turnOf .emptyLineWake a.x a.y ∈ t.agenda ∧ NowReq s t fun _ r => r.st = .line) ∧
        (LoadsOne s x q → (s.member mk).spHit at_ q.n 0 cls none = none → (s.member mk).lineSt at_ = 1 →
          ∃ t, exec .scratchpadAccess s = .next t ∧ LaneTook s t x q ((s.member mk).bytes at_ q.n)) ∧
        (x.kind = .vamo ∨ x.kind = .vrmo → (s.member mk).spHit at_ q.n 2 cls none = none → (s.member mk).lineSt at_ = 1 →
          q.data.length = q.n → 0 < q.n → ∃ t new, exec .scratchpadAccess s = .next t ∧
            AtomicLeaves x.aop q.n (bytesNat ((s.member mk).bytes at_ q.n)) (bytesNat q.data) (bytesNat q.cmp) new ∧
            PadHolds s t mk at_ (natBytes q.n new)))) ∧
    (∀ x q, s.req a.x a.y = some (x, q) →
      let p := (s.gang x.gang).part
      (q.st = .line → s.opLive x = true →
        (s.lineWaits x q = false → ∃ t, exec .emptyLineWake s = .next t ∧ turnOf x.access a.x a.y ∈ t.agenda ∧
          NowReq s t fun _ r => r.st = .ready) ∧
        (s.lineWaits x q = true → exec .emptyLineWake s = .next (s.defer .emptyLineWake))) ∧
      (q.st = .ready →
        (∀ l, s.walk p q.addr = .leaf l → ∃ t, exec .pageWalkComplete s = .next t ∧ t.lookup (s.opCore x) p q.addr = some l ∧
          turnOf x.access a.x a.y ∈ t.agenda ∧ t.ops = s.ops) ∧
        (s.walk p q.addr = .absent → ∃ t, exec .pageWalkComplete s = .next t ∧ turnOf .translationFault a.x a.y ∈ t.agenda ∧
          t.ops = s.ops) ∧
        (∀ pt, s.tfaults = [] → s.parts.find? p = some pt → s.ringFree pt.cfg.prq 124 = true →
          ∃ t f, exec .translationFault s = .next t ∧ t.tfaults = [f] ∧ f.tag = pt.prTag ∧ f.va = q.addr ∧ f.op = some (a.x, a.y) ∧
            f.answer = none ∧ f.since = s.ns ∧ t.mem32 pt.cfg.prq = s.mem32 pt.cfg.prq + 1 ∧
            NowReq s t fun _ r => r.st = .parked f.tag))) ∧
    (∀ o x q line, a.slot = some o → s.req o a.z = some (x, q) → q.st = .ready → s.opLive x = true → s.allOver x.after = true →
      s.replaying x.gang = false → LoadsOne { s with arg := { a with x := o } } x q →
      let va := (s.gang x.gang).constb.toNat + q.addr
      (s.core (s.opCore x)).cc.find? (va / 128) = some line → va / 128 = (va + q.n - 1) / 128 → listGet false line.2 (va % 128 / 64) = false →
      ∃ t, exec .constantFill s = .next t ∧ (t.team x.team).reg x.reg q.id =
        BitVec.ofNat 32 (bytesNat (((List.range q.n).map fun i => listGet 0 line.1 ((va + i) % 128)).take 4))) ∧
    (a.slot = none → exec .constantFill s = .next s) ∧
    (∀ b x, s.ops.find? a.x = some x → x.kind = .parr → x.pois = none → s.req a.x 0 = some (x, b) → b.st = .ready → s.opLive x = true →
      s.allOver x.after = true → s.pbBefore a.x x = false → pbSpace x.a ≠ 0 →
      let mk := s.pbMember x.gang (x.member % 4) x.a
      let o := s.pbPad mk (pbAddr x.a)
      let now (t : State) : PbObj := t.pbPad mk (pbAddr x.a)
      o.init = true → o.scope = 0 → (s.member mk).lineSt (pbAddr x.a) ≠ 2 → o.held = [] → o.pending ≠ 0 →
      ∃ t, exec .phaseBarrierEvent s = .next t ∧ Completes t a.x x x.cause ∧
        (1 < o.pending → (now t).pending = o.pending - 1 ∧ (now t).phase = o.phase) ∧
        (o.pending = 1 → o.balance = 0 → (now t).pending = o.expect ∧ (now t).phase = o.phase + 1)) ∧
    (∀ h, s.hw.find? a.y = some h → a.x ∈ h.await →
      (s.earlierUpdate a.x a.y h.line = true → exec .sharerUpdate s = .next (s.defer .sharerUpdate)) ∧
      (∀ c, s.earlierUpdate a.x a.y h.line = false → (s.core a.x).near.find? h.line = some c → c.st = .valid → c.filled ≤ a.y →
        h.off + h.data.length ≤ c.bytes.length → ∃ t e, exec .sharerUpdate s = .next t ∧
          t.hw.find? a.y = some { h with await := h.await.erase a.x } ∧ (t.core a.x).near.find? h.line = some e ∧ e.version = h.version ∧
          ∀ i < c.bytes.length, listGet 0 e.bytes i =
            if h.off ≤ i ∧ i < h.off + h.data.length then listGet 0 h.data (i - h.off) else listGet 0 c.bytes i)) ∧
    (∀ h, s.hw.find? a.x = some h →
      (h.await ≠ [] → exec .updateAck s = .next s) ∧
      (h.await = [] →
        (h.op = none → ∃ t, exec .updateAck s = .next t ∧ t.hw.find? a.x = none ∧ turnOf .settleNotice h.line 0 ∈ t.agenda) ∧
        (∀ o r x q, h.op = some (o, r) → s.req o r = some (x, q) → x.kind = .vst → (s.gang x.gang).st = .resident →
          ∃ t y q', exec .updateAck s = .next t ∧ t.hw.find? a.x = none ∧ t.req o r = some (y, q') ∧ q'.st = .done))) ∧
    (∃ t, exec .settleNotice s = .next t ∧
      ∀ u w, w ∈ (t.team u).unsettled ↔ w ∈ (s.team u).unsettled ∧ (s.hw.find? w).isSome = true) ∧
    (∀ d, s.dir a.x a.y = some d →
      (d.evict = none → ∃ t, exec .directoryEviction s = .next t ∧ t.dir a.x a.y = some { d with evict := some d.targets } ∧
        ∀ c ∈ d.targets, Turn.event .lapseNotice { Args.none with x := c, y := a.y, z := a.x } ∈ t.agenda) ∧
      (d.evict ≠ none → exec .directoryEviction s = .next s) ∧
      (d.evict = some [] → (s.slice a.x).epoch ≠ 0xFFFF → ∃ t, exec .evictionComplete s = .next t ∧ t.dir a.x a.y = none ∧
        (t.slice a.x).epoch = (s.slice a.x).epoch + 1) ∧
      (d.evict = some [] → (s.slice a.x).epoch = 0xFFFF → a.z = 0 → ∃ t, exec .evictionComplete s = .next t ∧ t.slices = s.slices ∧
        ∀ c < Config.cores, turnOf .epochWrapNotice c a.x ∈ t.agenda)) ∧
    (∀ c d l, (s.core a.x).near.find? a.y = some c → c.st = .valid → s.dir a.z a.y = some d → d.evict = some l →
      ∃ t, exec .lapseNotice s = .next t ∧ (t.core a.x).near.find? a.y = some { c with st := .lapsed } ∧
        t.dir a.z a.y = some { d with evict := some (l.erase a.x) }) ∧
    (∃ t, exec .epochWrapNotice s = .next t ∧
      ∀ p, p ∈ (t.core a.x).near ↔ p ∈ (s.core a.x).near ∧ ¬ (p.2.st = .lapsed ∧ p.2.slice = a.y)) ∧
    ((s.ecc.find? a.x = none → ∃ t, exec .patrolScrub s = .next t ∧ t.marks = s.marks ∧ t.mem = s.mem) ∧
      ((s.ecc.find? a.x).isSome = true → s.parts = [] → ∃ t, exec .patrolScrub s = .next t ∧ t.marked a.x = true ∧
        (∀ g, g ≠ a.x → t.marked g = s.marked g) ∧ t.mem = s.mem ∧ t.mgmtErrseq = s.mgmtErrseq + 1)) ∧
    (∀ pt, s.parts.find? a.x = some pt →
      (s.tfault a.x a.w.toNat = none → ∃ t, exec .pageResponse s = .next t ∧ t.ops = s.ops ∧ t.tfaults = s.tfaults ∧
        t.mem32 pt.cfg.prs = s.mem32 pt.cfg.prs + 1 ∧ t.mem32 (pt.cfg.prs + 4) = s.mem32 (pt.cfg.prs + 4) + 1) ∧
      (s.tfault a.x a.w.toNat = none → exec .translationTimeout s = .next s) ∧
      (∀ f, s.tfault a.x a.w.toNat = some f → f.answer = none →
        (f.op = none → a.ok = true → ∃ t, exec .pageResponse s = .next t ∧ t.tfault a.x a.w.toNat = none) ∧
        (f.op = none → a.ok = false → ∃ t, exec .pageResponse s = .next t ∧
          t.tfault a.x a.w.toNat = some { f with answer := some 1 }) ∧
        (∀ o r x q, f.op = some (o, r) → a.ok = true → s.ops.find? o = some x → x.isScalar = true → x.reqs = [q] → q.st = .parked f.tag →
          ∃ t y q', exec .pageResponse s = .next t ∧ t.req o q.id = some (y, q') ∧ q'.st = .ready ∧
            turnOf x.access o q.id ∈ t.agenda ∧ t.tfault a.x a.w.toNat = none) ∧
        (s.ns < f.since + 1000 * pt.cfg.ftimeout → exec .translationTimeout s = .next (s.defer .translationTimeout)) ∧
        (f.since + 1000 * pt.cfg.ftimeout ≤ s.ns → f.op = none → ∃ t, exec .translationTimeout s = .next t ∧
          t.tfault a.x a.w.toNat = some { f with answer := some 2 }))) ∧
    (∀ e, (s.team a.x).entry a.y = some e →
      let now (t : State) (p : WatchE → Prop) : Prop := ∃ e', (t.team a.x).entry a.y = some e' ∧ p e'
      (s.replaying (gangOf a.x) = false → s.storeBefore a.x e = false → s.passesLeft e = false →
        (∀ d, s.dir e.home e.line = some d → ∃ t, exec .watchRequest s = .next t ∧ turnOf .watchAnswer a.x a.y ∈ t.agenda ∧
          now t fun e' => e'.answer = some (decide (e.epoch = d.epoch ∧ e.version = d.version ∧ d.wrap = false))) ∧
        (s.dir e.home e.line = none → ∃ t, exec .watchRequest s = .next t ∧
          (t.dir e.home e.line).isSome = true ∧ now t fun e' => e'.answer = some false)) ∧
      (∀ good, e.answer = some good → ∃ t, exec .watchAnswer s = .next t ∧
        now t fun e' => e'.st = (if good then .confirmed else .struck) ∧ e'.answer = none) ∧
      (s.replaying (gangOf a.x) = false → (s.gang (gangOf a.x)).st = .resident →
        (e.born + 64 ≤ s.cycleOf (s.teamCore a.x) → s.passesLeft e = false → ∃ t, exec .sealedWatchExpiry s = .next t ∧
          now t fun e' => e'.st = if e.struckSeal then .struck else .confirmed) ∧
        (s.cycleOf (s.teamCore a.x) < e.born + 64 → exec .sealedWatchExpiry s = .next (s.defer .sealedWatchExpiry))))

/-! ## Halting, dumps and the Debug core's steps -/

/-- spec/16 R285, R289, R293, spec/23 R359, R360, spec/24 R366, R368, R370, R375, R377, R381: how agents stop, dumps and records
are written, steps and replays end, and checkpoints are taken. The order that a replay keeps is the model's (log entry 21), as is
the agenda's (log entry 4). -/
def Obligations.DebugEvents : Prop :=
  ∀ s : State,
    let a := s.arg
    let c := ctxOf (gangOf a.x)
    (∀ u, a.agent = some (.scalar u) → s.halting (gangOf u) = true →
      ((s.team u).stopped = true ∨ (s.team u).exited = true → exec .haltLineArrival s = .next s) ∧
      ((s.team u).stopped = false → (s.team u).exited = false →
        ((s.team u).reached = true ∨ (s.team u).wait ≠ none → ∃ t, exec .haltLineArrival s = .next t ∧
          t.team u = { s.team u with stopped := true, stopAt := s.cycleReg (s.teamCore u) }) ∧
        ((s.team u).reached = false → (s.team u).wait = none → ∃ t, exec .haltLineArrival s = .next t ∧ t.team u = { s.team u with reached := true, skid := 0 } ∧
          .event .haltLineArrival a ∈ t.agenda))) ∧
    (∀ u, a.agent = some (.lane u) → s.halting (gangOf u) = true →
      ((s.team u).laneStopped = true → exec .haltLineArrival s = .next s) ∧
      ((s.team u).laneStopped = false → ∃ t n, exec .haltLineArrival s = .next t ∧ n < max 1 ((s.team u).width / 32) ∧
        ((s.team u).running = none → n = 0) ∧
        t.team u = { (s.team u).saveStreams with laneStopped := true, laneStopAt := s.cycleReg (s.teamCore u), laneSkid := n })) ∧
    (∀ g, a.agent = some (.seq g) → s.halting g = true →
      ∃ t, exec .haltLineArrival s = .next t ∧ t.gang g =
        if (s.gang g).sstopped then s.gang g else { s.gang g with sstopped := true, sstopAt := s.cycleReg (s.coreNum g 0) }) ∧
    (∀ k, a.agent = some (.engines k) → s.halting (k / 4) = true →
      ((s.member k).stopped = true → exec .haltLineArrival s = .next s) ∧
      ((s.member k).stopped = false → ∃ t n, exec .haltLineArrival s = .next t ∧ n ≤ 24 ∧ ((s.member k).mq = [] → n = 0) ∧
        t.member k = { s.member k with stopped := true, stopAt := s.cycleReg (s.coreNum (k / 4) (k % 4)), skid := n })) ∧
    (∀ g, a.agent = some (.seq g) → s.halting g = false → exec .haltLineArrival s = .next s) ∧
    (∀ x pt, s.ctxs.find? a.x = some x → x.st = .halting → s.parts.find? (partOf a.x) = some pt →
      (∀ g ∈ s.dumpGangs a.x, (s.gang g).st = .resident → s.gangStopped g = false → exec .dump s = .next (s.defer .dump)) ∧
      ((∀ g ∈ s.dumpGangs a.x, (s.gang g).st = .resident ∧ s.gangStopped g = true ∧ s.awaited g = false) → s.dumpBefore a.x x = false →
        let head : W64 := BitVec.ofNat 64 (0xE70BD0A1 + 1 * 2 ^ 32 + x.faults.length * 2 ^ 48)
        (x.fatal = false → ∃ t y, exec .dump s = .next t ∧ t.ctxs.find? a.x = some y ∧ y.st = .stopped ∧ t.teams = s.teams ∧
          t.mem64 pt.cfg.dumpB = head) ∧
        (x.fatal = true → pt.heldC ≠ [] → pt.state ≠ 3 → ∃ t y, exec .dump s = .next t ∧ t.ctxs.find? a.x = some y ∧ y.st = .ended ∧
          (∀ g ∈ s.gangsOf a.x, (t.gang g).st = .stopped) ∧ t.mem64 pt.cfg.dumpB = head))) ∧
    (a.ok = true → s.mgmtHeld = [] → ∃ t, exec .faultRecordDrain s = .next t ∧ t.mgmt32 4 = a.w.truncate 32 ∧
      t.mgmt32 0 = s.mgmt32 0 ∧ t.mem = s.mem) ∧
    (∀ pt ws, a.ok = false → s.parts.find? a.x = some pt → pt.heldF = [ws] → ws.length = 16 →
      let q := pt.cfg.faultq
      (s.mem32 q - (a.w.truncate 32 : W32)).toNat < 31 → ∃ t p, exec .faultRecordDrain s = .next t ∧ t.parts.find? a.x = some p ∧
        p.heldF = [] ∧ t.mem32 q = s.mem32 q + 1 ∧ t.mem32 (q + 4) = a.w.truncate 32 ∧
        ∀ i < 16, t.mem64 (q + 0x80 + (s.mem32 q).toNat % 31 * 128 + 8 * i) = listGet 0 ws i) ∧
    (∀ h, s.l2hits = [h] → h.1 = a.x →
      (s.sessions = [] → ∃ t, exec .l2WatchReport s = .next t ∧ t.l2hits = [] ∧ t.ctxs = s.ctxs) ∧
      (∀ p x k, s.sessions = [(p, x)] → s.ctxs.find? x.ctx = some k → k.halt = false → k.st ≠ .ended → k.st ≠ .stopped →
        ∃ t y, exec .l2WatchReport s = .next t ∧ t.l2hits = [] ∧ t.ctxs.find? x.ctx = some y ∧ y.halt = true ∧ y.st = .halting ∧
          y.fatal = k.fatal)) ∧
    (s.l2hits = [] → exec .l2WatchReport s = .next s) ∧
    (s.stepRun a.x = none → exec .stepEnd s = .next s) ∧
    (∀ y x pt, s.stepRun a.x = some y → s.ctxs.find? c = some x → s.parts.find? (partOf c) = some pt → y.hit = false →
      (x.st = .stopped → (s.team a.x).rwc ≠ y.from_ → ∃ t, exec .stepEnd s = .next t ∧ t.stepRun a.x = none ∧
        (t.team a.x).stopped = true ∧ (t.team a.x).laneStopped = true ∧
        ((s.team a.x).stopped = false → (s.team a.x).laneStopped = false →
          let now := s.cycleReg (s.teamCore a.x)
          t.team a.x = { (s.team a.x).saveStreams with stopped := true, laneStopped := true, stopAt := now, laneStopAt := now }) ∧
        t.mem = s.mem ∧
        t.run = s.run.map fun r => (r.1, r.2.1, [BitVec.ofNat 64 (4 * 2 ^ 60), (s.team a.x).rwc])) ∧
      ((s.team a.x).rwc = y.from_ → (s.team a.x).exited = false → s.stepBlocked a.x = false →
        exec .stepEnd s = .next (s.defer .stepEnd))) ∧
    (∀ k, s.ctxs.find? (ctxOf a.x) = some k → (s.gang a.x).record = true → (s.gang a.x).st = .resident → k.fatal = false → k.st ≠ .ended →
      k.replayed = false → 2 ^ 20 ≤ (s.gang a.x).ckCount ∨ a.ok = true →
      (k.halt = true → exec .checkpointDue s = .next (s.defer .checkpointDue)) ∧
      (k.halt = false → ∃ t i, exec .checkpointDue s = .next t ∧ (t.ckpts.get [] a.x).getLast? = some i ∧ i.kind = 3 ∧
        i.gang = { s.gang a.x with interval := (s.gang a.x).interval + 1, ckCount := 0, suspended := false } ∧
        t.gang a.x = { i.gang with sstopAt := s.cycleReg (s.coreNum a.x 0) } ∧
        t.journals.get [] a.x = [] ∧ (∀ u ∈ s.teamsOf a.x, (t.team u).rwc = 0) ∧
        (∀ pt, s.parts.find? (partOf (ctxOf a.x)) = some pt → pt.cfg.journS = 0 → t.mem = s.mem))) ∧
    ((s.gang a.x).record = false → exec .checkpointDue s = .next s) ∧
    (s.recording a.x = true → (s.gang a.x).st = .resident → ∃ t, exec .journalSuspend s = .next t ∧
      t.gang a.x = { s.gang a.x with suspended := true } ∧ t.teams = s.teams ∧ t.ctxs = s.ctxs) ∧
    (s.recording a.x = false → exec .journalSuspend s = .next s) ∧
    (s.replaying a.x = false → exec .replayStop s = .next s) ∧
    (∀ pt, s.replaying a.x = true → s.parts.find? (partOf (ctxOf a.x)) = some pt → ∃ t p, exec .replayStop s = .next t ∧
      t.replaying a.x = false ∧ (∀ u ∈ s.teamsOf a.x, (t.team u).stopped = true ∧ (t.team u).laneStopped = true) ∧
      (∀ k ∈ s.membersOf a.x, (t.member k).stopped = true) ∧ (t.gang a.x).sstopped = true ∧
      t.parts.find? (partOf (ctxOf a.x)) = some p ∧ p.errseq = pt.errseq + 1) ∧
    ((∀ x q, s.req a.x a.y = some (x, q) → q.st ≠ .done → exec .sampleRecord s = .next (s.defer .sampleRecord)) ∧
      (s.req a.x a.y = none → s.sampleN = 0 → exec .sampleRecord s = .next s) ∧
      (s.req a.x a.y = none → s.sampleN ≠ 0 → s.sampleS ≠ 0 → ∃ t, exec .sampleRecord s = .next t ∧ t.sampleC = s.sampleC + 1 ∧
        ∀ i < 4, t.mem64 (s.sampleB + s.sampleC * 64 % s.sampleS + 8 * i) =
          BitVec.ofNat 64 (bytesNat ((a.data.drop (8 * i)).take 8))))

/-! ## Encodings, steps and the whole machine -/

/-- The words that spec/01 R25, R26, R27, R30 and spec/02 R42, R44, R46 work out, decoded to the instructions they stand for. -/
def Obligations.DecodeWords : Prop :=
  decodeScalar 0x0228C380 0 = .ok (.sadd 5 6 7) ∧
  decodeScalar 0x06187FFC 0 = .ok (.saddi 3 3 0x1FFC) ∧
  decodeScalar 0x1891A2B4 0x0628B890 = .ok (.simm 0x091A2B4 0x0628B890) ∧
  decodeScalar 0 0 = .error .opcode ∧ decodeScalar 0x02188290 0 = .error .reserved ∧ decodeScalar 0x94000004 0 = .error .value ∧
  decodeLane 0x10C50020_04040300_00000000 = .ok (.vfma { LaneF.plain with ch := true, stall := 2, dst := 4, sa := 1, sb := 2, sc := 3 }) ∧
  decodeLane 0x38020040_0800051A_40000100 = .ok (.vld { LaneF.plain with stall := 1, dst := 8, sa := 2, sc := 5, md := 0x1A, imm := 0x40000100 }) ∧
  decodeMatrix 0x00050400_00000000 = .ok (.mma { MatF.plain with c := 5, fb := 1 }) ∧
  decodeMatrix 0x00074C90_052A0000 = .ok (.mma { MatF.plain with c := 7, fa := 2, fb := 3, k := 1, ifmt := 2, bw := 0b10100, ba := 0b10101 })

/-- spec/01 R25, R27, R30, spec/02 R37, R39, R44: what a well-formed instruction is encoded as is decoded to the same instruction. -/
def Obligations.EncodingRoundTrip : Prop :=
  ∀ (i : Instr) (c : Code), WellFormed i = true → encode i = some c → decodeCode c = .ok i

/-- spec/01 R25, R27, R30, spec/02 R45, R46: a word that decodes is the encoding of the one instruction it decodes to, which is well
formed: no bit is ignored. -/
def Obligations.WordsHaveOneMeaning : Prop :=
  (∀ w next i, decodeScalar w next = .ok i → WellFormed i = true ∧ (encode i = some (.scalar w) ∨ encode i = some (.pair w next))) ∧
  (∀ w i, decodeLane w = .ok i → WellFormed i = true ∧ encode i = some (.lane w)) ∧
  (∀ w i, decodeMatrix w = .ok i → WellFormed i = true ∧ encode i = some (.matrix w))

/-- spec/01 R10, R11, R20, R25, R26, spec/02 R45, R46: a step in which a stream has its turn executes the instruction that the bytes
at its place decode to, with the translation of its bytes in the TLBs, and its next turn stands at the end of the agenda; a word that decodes to none raises the
illegal-instruction fault. A step of the machine's own is executed as it stands on the agenda. The bytes are memory's where nothing
has been stored there since the gang's image was restored; else they are what stood there at that moment or at one since, in an
order of stores that the state keeps (log entry 8). Which turn comes next is the model's schedule (log entry 4). -/
def Obligations.StepRunsDecodedInstruction : Prop :=
  ∀ (s s1 : State) (i : Instr), s.power = .running →
    let goes (a : Agent) (o : Out) : Prop := ∀ t, o = .next t → t.ahead = false → step s = .next (t.push [.agent a])
    let kept (g pa n : Nat) : Bool := (s.codeOld g pa n).isEmpty
    (∀ x, s.takeTurn = some (.event i x, s1) → step s = exec i { s1 with arg := x }) ∧
    (∀ x rest, s.schedule = [] → s.agenda = x :: rest → s.takeTurn = some (x, { s with agenda := rest })) ∧
    (∀ x rest, s.schedule = .input x :: rest → s.takeTurn = some (x, { s with schedule := rest })) ∧
    (∀ n rest x, s.schedule = .item n :: rest → s.agenda[n]? = some x →
      s.takeTurn = some (x, { s with agenda := s.agenda.eraseIdx n, schedule := rest })) ∧
    (∀ g pa n, (kept g pa n = true → s.codeBytes g pa n = s.memBytes pa n) ∧
      (kept g pa n = false → ∃ t, (s.gang g).codeFrom ≤ t ∧ t ≤ max (s.gang g).codeFrom s.stored ∧ ∀ k < n,
        listGet 0 (s.codeBytes g pa n) k = s.byteBefore (s.codeOld g pa n) t (pa + k))) ∧
    (∀ t l l2,
      let tm := s.team t
      let g := gangOf t
      let pc := tm.pc.toNat
      let w : W32 := BitVec.ofNat 32 (bytesNat (s.codeBytes g (l.pa pc) 4))
      let w2 : W32 := BitVec.ofNat 32 (bytesNat (s.memBytes (l2.pa (tm.pc + 4).toNat) 4))
      let s0 : State := { s1.fetched (s.teamCore t) (s.gang g).part pc 4 (!kept g (l.pa pc) 4) with
        ahead := false, cur := t, curGang := g, word := w.zeroExtend 64, wordh := 0 }
      let there (va : Nat) (l : Leaf) : Prop := s.translate (s.teamCore t) (s.gang g).part va = .leaf l ∧ l.x = true ∧ l.type = 0
      s.takeTurn = some (.agent (.scalar t), s1) → s.runs g = true → tm.exited = false → tm.stopped = false → s.stepOver t = false →
      tm.reached = false → tm.deadlineDue = false → pc % 4 = 0 → pc < 2 ^ 54 → there pc l →
      (bits w.toNat 25 7 ≠ 0x0C → decodeScalar w 0 = .ok i → goes (.scalar t) (exec i s0)) ∧
      (∀ r, bits w.toNat 25 7 ≠ 0x0C → decodeScalar w 0 = .error r → goes (.scalar t) (.next (s0.scalarFault kIllegal r 0))) ∧
      (bits w.toNat 25 7 = 0x0C → (tm.pc + 4).toNat < 2 ^ 54 →
        s0.translate (s.teamCore t) (s.gang g).part (tm.pc + 4).toNat = .leaf l2 → l2.x = true → l2.type = 0 →
        kept g (l2.pa (tm.pc + 4).toNat) 4 = true →
        decodeScalar w w2 = .ok i → goes (.scalar t) (exec i (s0.fetched (s.teamCore t) (s.gang g).part (tm.pc + 4).toNat 4 false)))) ∧
    (∀ t l b,
      let tm := s.team t
      let g := gangOf t
      let va := tm.lcb.toNat + 12 * b.idx
      let n := bytesNat (s.codeBytes g (l.pa va) 12)
      let s0 : State := { s1.fetched (s.teamCore t) (s.gang g).part va 12 (!kept g (l.pa va) 12) with
        ahead := false, cur := t, curGang := g, word := BitVec.ofNat 64 n, wordh := BitVec.ofNat 32 (n / 2 ^ 64) }
      s.takeTurn = some (.agent (.lane t), s1) → s.runs g = true → tm.laneStopped = false → s.stepOver t = false → tm.running = some b →
      b.idx < tm.lanes → va % 4096 ≤ 4084 → va < 2 ^ 54 →
      s.translate (s.teamCore t) (s.gang g).part va = .leaf l → l.x = true → l.type = 0 →
      (decodeLane (BitVec.ofNat 96 n) = .ok i → goes (.lane t) (exec i s0)) ∧
      (∀ r, decodeLane (BitVec.ofNat 96 n) = .error r → goes (.lane t) (.next (s0.laneFault kIllegal r 0 0)))) ∧
    (∀ g l,
      let x := s.gang g
      let n := bytesNat (s.codeBytes g (l.pa x.spc.toNat) 8)
      let s0 : State := { s1.fetched (s.coreNum g 0) x.part x.spc.toNat 8 (!kept g (l.pa x.spc.toNat) 8) with
        ahead := false, cur := teamKey g 256, curGang := g, word := BitVec.ofNat 64 n, wordh := 0 }
      s.takeTurn = some (.agent (.seq g), s1) → s.runs g = true → x.hasSeq = true → x.halted = false → x.sstopped = false →
      x.spc.toNat % 8 = 0 → x.spc.toNat < 2 ^ 54 → s.translate (s.coreNum g 0) x.part x.spc.toNat = .leaf l → l.x = true → l.type = 0 →
      (decodeMatrix (BitVec.ofNat 64 n) = .ok i → goes (.seq g) (exec i s0)) ∧
      (∀ r, decodeMatrix (BitVec.ofNat 64 n) = .error r → goes (.seq g) (.next (s0.seqFault kIllegal r 0))))

/-- The form of the memory that the model keeps, which makes equal memories equal data: addresses strictly rising, no entry equal to what
an unlisted byte or granule reads as (log entry 1). Every step keeps it, from every state. -/
def Obligations.StepKeepsMemoryCanonical : Prop :=
  ∀ s t : State, CanonicalMemory s → step s = .next t → CanonicalMemory t

/-- spec/18 R317, R318: right after reset no partition, context or gang is there, no core holds a gang, and memory is in its
canonical form, with no byte and no marker written (log entries 1, 2); the device is to boot. -/
def Obligations.ResetState : Prop :=
  CanonicalMemory State.reset ∧ State.reset.power = .boot ∧ (∀ a, State.reset.memByte a = 0) ∧ (∀ g, State.reset.marked g = false) ∧
    State.reset.parts = [] ∧ State.reset.ctxs = [] ∧ State.reset.gangs = [] ∧ (∀ c, (State.reset.core c).issuing = none) ∧
    (∀ n, State.reset.evt.get 0 n = 0) ∧ (∀ n, (State.reset.slots.get .blank n).st = .idle) ∧ State.reset.ops = [] ∧
    State.reset.agenda = [] ∧ step State.reset = exec .powerGood State.reset
end

