-- ==== Sys2Proof/Laws/Sparse.lean ====
section
/-! SUPPORT. What reading a finite map gives after a change of it, and that the changes keep the canonical form. -/

namespace Sys2Proof

variable {α : Type}

theorem Sparse.get_set (d : α) (m : Sparse α) (k k' : Nat) (v : α) :
    Sparse.get d (Sparse.set m k v) k' = if k' = k then v else Sparse.get d m k' := by
  induction m with
  | nil => simp [Sparse.set, Sparse.get]
  | cons p m ih =>
    obtain ⟨a, b⟩ := p
    simp only [Sparse.set]
    split
    · subst_vars; simp only [Sparse.get]; split <;> rfl
    · split
      · simp only [Sparse.get]
      · simp only [Sparse.get, ih]
        by_cases h1 : k' = a <;> by_cases h2 : k' = k <;> simp_all

@[simp] theorem Sparse.get_set_self (d : α) (m : Sparse α) (k : Nat) (v : α) : Sparse.get d (Sparse.set m k v) k = v := by
  simp [Sparse.get_set]

theorem Sparse.get_set_ne (d : α) (m : Sparse α) {k k' : Nat} (v : α) (h : k' ≠ k) :
    Sparse.get d (Sparse.set m k v) k' = Sparse.get d m k' := by
  simp [Sparse.get_set, h]

theorem Sparse.find?_set (m : Sparse α) (k k' : Nat) (v : α) :
    Sparse.find? (Sparse.set m k v) k' = if k' = k then some v else Sparse.find? m k' := by
  induction m with
  | nil => simp [Sparse.set, Sparse.find?]
  | cons p m ih =>
    obtain ⟨a, b⟩ := p
    simp only [Sparse.set]
    split
    · subst_vars; simp only [Sparse.find?]; split <;> rfl
    · split
      · simp only [Sparse.find?]
      · simp only [Sparse.find?, ih]
        by_cases h1 : k' = a <;> by_cases h2 : k' = k <;> simp_all

@[simp] theorem Sparse.find?_set_self (m : Sparse α) (k : Nat) (v : α) : Sparse.find? (Sparse.set m k v) k = some v := by
  simp [Sparse.find?_set]

theorem Sparse.get_eq_find? (d : α) (m : Sparse α) (k : Nat) : Sparse.get d m k = (Sparse.find? m k).getD d := by
  induction m with
  | nil => rfl
  | cons p m ih => obtain ⟨a, b⟩ := p; simp only [Sparse.get, Sparse.find?, ih]; split <;> rfl

theorem Sparse.find?_del (m : Sparse α) (k k' : Nat) :
    Sparse.find? (Sparse.del m k) k' = if k' = k then none else Sparse.find? m k' := by
  induction m with
  | nil => simp [Sparse.del, Sparse.find?]
  | cons p m ih =>
    obtain ⟨a, b⟩ := p
    simp only [Sparse.del]
    split
    · subst_vars; rw [ih]; simp only [Sparse.find?]; split <;> rfl
    · simp only [Sparse.find?, ih]
      by_cases h1 : k' = a <;> by_cases h2 : k' = k <;> simp_all

theorem Sparse.get_del (d : α) (m : Sparse α) (k k' : Nat) :
    Sparse.get d (Sparse.del m k) k' = if k' = k then d else Sparse.get d m k' := by
  simp only [Sparse.get_eq_find?, Sparse.find?_del]; split <;> rfl

theorem Sparse.get_put [DecidableEq α] (d : α) (m : Sparse α) (k k' : Nat) (v : α) :
    Sparse.get d (Sparse.put d m k v) k' = if k' = k then v else Sparse.get d m k' := by
  unfold Sparse.put
  split
  · subst_vars; exact Sparse.get_del v m k k'
  · exact Sparse.get_set d m k k' v

/-- The canonical form as a pairwise order of the keys and a condition on each entry. -/
theorem Sparse.canonical_iff [DecidableEq α] (d : α) (m : Sparse α) :
    Sparse.canonical d m = true ↔ m.Pairwise (fun a b => a.1 < b.1) ∧ ∀ p ∈ m, p.2 ≠ d := by
  induction m with
  | nil => simp [Sparse.canonical]
  | cons p m ih =>
    obtain ⟨a, b⟩ := p
    cases m with
    | nil => simp [Sparse.canonical]
    | cons q m =>
      obtain ⟨a', b'⟩ := q
      simp only [Sparse.canonical, Bool.and_eq_true, ih, List.pairwise_cons, List.mem_cons, bne_iff_ne, decide_eq_true_eq,
        forall_eq_or_imp]
      constructor
      · rintro ⟨⟨h1, h2⟩, ⟨h3, h4⟩, h5, h6⟩
        exact ⟨⟨⟨h2, fun x hx => Nat.lt_trans h2 (h3 x hx)⟩, h3, h4⟩, h1, h5, h6⟩
      · rintro ⟨⟨⟨h2, -⟩, h3, h4⟩, h1, h5, h6⟩
        exact ⟨⟨h1, h2⟩, ⟨h3, h4⟩, h5, h6⟩

theorem Sparse.mem_set {m : Sparse α} {k : Nat} {v : α} {p : Nat × α} (h : p ∈ Sparse.set m k v) : p = (k, v) ∨ p ∈ m := by
  induction m with
  | nil => simpa [Sparse.set] using h
  | cons q m ih =>
    obtain ⟨a, b⟩ := q
    simp only [Sparse.set] at h
    split at h
    · simp only [List.mem_cons] at h ⊢; grind
    · split at h
      · simp only [List.mem_cons] at h ⊢; grind
      · simp only [List.mem_cons] at h ⊢
        rcases h with h | h
        · grind
        · rcases ih h with h | h <;> grind

theorem Sparse.mem_del {m : Sparse α} {k : Nat} {p : Nat × α} (h : p ∈ Sparse.del m k) : p ∈ m := by
  induction m with
  | nil => simp [Sparse.del] at h
  | cons q m ih =>
    obtain ⟨a, b⟩ := q
    simp only [Sparse.del] at h
    split at h
    · exact List.mem_cons_of_mem _ (ih h)
    · rcases List.mem_cons.1 h with h | h
      · simp [h]
      · exact List.mem_cons_of_mem _ (ih h)

theorem Sparse.pairwise_set {m : Sparse α} (k : Nat) (v : α) (h : m.Pairwise (fun a b => a.1 < b.1)) :
    (Sparse.set m k v).Pairwise (fun a b => a.1 < b.1) := by
  induction m with
  | nil => simp [Sparse.set]
  | cons p m ih =>
    obtain ⟨a, b⟩ := p
    rw [List.pairwise_cons] at h
    simp only [Sparse.set]
    split
    · subst_vars; exact List.pairwise_cons.2 h
    · split
      · rename_i h1 h2
        refine List.pairwise_cons.2 ⟨?_, List.pairwise_cons.2 h⟩
        intro x hx
        rcases List.mem_cons.1 hx with rfl | hx
        · exact h2
        · exact Nat.lt_trans h2 (h.1 x hx)
      · rename_i h1 h2
        refine List.pairwise_cons.2 ⟨?_, ih h.2⟩
        intro x hx
        rcases Sparse.mem_set hx with rfl | hx
        · show a < k
          omega
        · exact h.1 x hx

theorem Sparse.pairwise_del {m : Sparse α} (k : Nat) (h : m.Pairwise (fun a b => a.1 < b.1)) :
    (Sparse.del m k).Pairwise (fun a b => a.1 < b.1) := by
  induction m with
  | nil => simp [Sparse.del]
  | cons p m ih =>
    obtain ⟨a, b⟩ := p
    rw [List.pairwise_cons] at h
    simp only [Sparse.del]
    split
    · exact ih h.2
    · exact List.pairwise_cons.2 ⟨fun x hx => h.1 x (Sparse.mem_del hx), ih h.2⟩

/-- A write keeps the canonical form. -/
theorem Sparse.canonical_put [DecidableEq α] (d : α) (m : Sparse α) (k : Nat) (v : α) (h : Sparse.canonical d m = true) :
    Sparse.canonical d (Sparse.put d m k v) = true := by
  rw [Sparse.canonical_iff] at h ⊢
  unfold Sparse.put
  split
  · exact ⟨Sparse.pairwise_del k h.1, fun p hp => h.2 p (Sparse.mem_del hp)⟩
  · rename_i hv
    refine ⟨Sparse.pairwise_set k v h.1, fun p hp => ?_⟩
    rcases Sparse.mem_set hp with rfl | hp
    · exact hv
    · exact h.2 p hp

theorem listGet_eq (d : α) (l : List α) (n : Nat) : listGet d l n = l.getD n d := by
  induction l generalizing n with
  | nil => simp [listGet]
  | cons a l ih => cases n <;> simp [listGet, ih]

end Sys2Proof
end

