-- ==== Sys2Proof/Laws/Memory.lean ====
section
/-! SUPPORT. Physical memory: reading after writing, and the canonical form that every write keeps. -/

namespace Sys2Proof.Machine

@[simp] theorem Memory.wf_reset : Memory.wf State.reset.mem = true := rfl

theorem Memory.wf_setByte (s : State) (pa : Nat) (b : Byte) (h : Memory.wf s.mem = true) :
    Memory.wf (s.setByte pa b).mem = true := Sparse.canonical_put 0 s.mem pa b h

theorem Memory.wf_setBytes (l : List Byte) (s : State) (pa : Nat) (h : Memory.wf s.mem = true) :
    Memory.wf (s.setBytes pa l).mem = true := by
  induction l generalizing s pa with
  | nil => exact h
  | cons b l ih => exact ih _ _ (Memory.wf_setByte s pa b h)

theorem memByte_setByte (s : State) (pa a : Nat) (b : Byte) :
    (s.setByte pa b).memByte a = if a = pa then b else s.memByte a := Sparse.get_put 0 s.mem pa a b

/-- Bytes outside the range written are as they were. -/
theorem memByte_setBytes_outside (l : List Byte) (s : State) (pa a : Nat) (h : a < pa ∨ pa + l.length ≤ a) :
    (s.setBytes pa l).memByte a = s.memByte a := by
  induction l generalizing s pa with
  | nil => rfl
  | cons b l ih =>
    simp only [List.length_cons] at h
    rw [State.setBytes, ih _ _ (by omega), memByte_setByte, if_neg (by omega)]

/-- The bytes written read back. -/
theorem memByte_setBytes_inside (l : List Byte) (s : State) (pa i : Nat) (h : i < l.length) :
    (s.setBytes pa l).memByte (pa + i) = l[i] := by
  induction l generalizing s pa i with
  | nil => simp at h
  | cons b l ih =>
    rw [State.setBytes]
    cases i with
    | zero => rw [memByte_setBytes_outside _ _ _ _ (by omega), memByte_setByte, if_pos (by omega)]; rfl
    | succ i =>
      simp only [List.length_cons] at h
      rw [show pa + (i + 1) = pa + 1 + i by omega, ih _ _ _ (by omega)]
      rfl

/-- A write of bytes changes nothing but memory. -/
theorem setBytes_eq (l : List Byte) (s : State) (pa : Nat) : s.setBytes pa l = { s with mem := (s.setBytes pa l).mem } := by
  induction l generalizing s pa with
  | nil => rfl
  | cons b l ih => rw [State.setBytes, ih]; rfl

end Sys2Proof.Machine
end

