-- ==== Sys2Proof/Laws/State.lean ====
section
/-! SUPPORT. The fields of the state after each update of a part of it, and what the tables give then. -/

namespace Sys2Proof.Machine

variable (s : State)

/-! ## What the tables give -/

theorem State.team_setTeam (k k' : Nat) (x : Team) : (s.setTeam k x).team k' = if k' = k then x else s.team k' :=
  Sparse.get_set _ _ _ _ _
@[simp] theorem State.team_setTeam_self (k : Nat) (x : Team) : (s.setTeam k x).team k = x := Sparse.get_set_self _ _ _ _
theorem State.team_modTeam (k k' : Nat) (f : Team → Team) :
    (s.modTeam k f).team k' = if k' = k then f (s.team k) else s.team k' := Sparse.get_set _ _ _ _ _
@[simp] theorem State.team_modTeam_self (k : Nat) (f : Team → Team) : (s.modTeam k f).team k = f (s.team k) :=
  Sparse.get_set_self _ _ _ _

theorem State.gang_setGang (k k' : Nat) (x : Gang) : (s.setGang k x).gang k' = if k' = k then x else s.gang k' :=
  Sparse.get_set _ _ _ _ _
@[simp] theorem State.gang_setGang_self (k : Nat) (x : Gang) : (s.setGang k x).gang k = x := Sparse.get_set_self _ _ _ _
theorem State.gang_modGang (k k' : Nat) (f : Gang → Gang) :
    (s.modGang k f).gang k' = if k' = k then f (s.gang k) else s.gang k' := Sparse.get_set _ _ _ _ _
@[simp] theorem State.gang_modGang_self (k : Nat) (f : Gang → Gang) : (s.modGang k f).gang k = f (s.gang k) :=
  Sparse.get_set_self _ _ _ _

theorem State.member_setMember (k k' : Nat) (x : Member) : (s.setMember k x).member k' = if k' = k then x else s.member k' :=
  Sparse.get_set _ _ _ _ _
@[simp] theorem State.member_setMember_self (k : Nat) (x : Member) : (s.setMember k x).member k = x := Sparse.get_set_self _ _ _ _
theorem State.member_modMember (k k' : Nat) (f : Member → Member) :
    (s.modMember k f).member k' = if k' = k then f (s.member k) else s.member k' := Sparse.get_set _ _ _ _ _
@[simp] theorem State.member_modMember_self (k : Nat) (f : Member → Member) : (s.modMember k f).member k = f (s.member k) :=
  Sparse.get_set_self _ _ _ _

@[simp] theorem State.tm_modTm (f : Team → Team) : (s.modTm f).tm = f s.tm := Sparse.get_set_self _ _ _ _

@[simp] theorem State.tm_wS (r : BitVec 6) (v : W64) : (s.wS r v).tm = s.tm.setS r v := Sparse.get_set_self _ _ _ _

theorem State.team_modTm (f : Team → Team) (k : Nat) : (s.modTm f).team k = if k = s.cur then f s.tm else s.team k :=
  Sparse.get_set _ _ _ _ _

/-! ## The fields that an update leaves -/

@[simp] theorem State.cur_setTeam (t : Nat) (x : Team) : (s.setTeam t x).cur = s.cur := rfl
@[simp] theorem State.curGang_setTeam (t : Nat) (x : Team) : (s.setTeam t x).curGang = s.curGang := rfl
@[simp] theorem State.arg_setTeam (t : Nat) (x : Team) : (s.setTeam t x).arg = s.arg := rfl
@[simp] theorem State.word_setTeam (t : Nat) (x : Team) : (s.setTeam t x).word = s.word := rfl
@[simp] theorem State.wordh_setTeam (t : Nat) (x : Team) : (s.setTeam t x).wordh = s.wordh := rfl
@[simp] theorem State.agenda_setTeam (t : Nat) (x : Team) : (s.setTeam t x).agenda = s.agenda := rfl
@[simp] theorem State.cyc0_setTeam (t : Nat) (x : Team) : (s.setTeam t x).cyc0 = s.cyc0 := rfl
@[simp] theorem State.cyc1_setTeam (t : Nat) (x : Team) : (s.setTeam t x).cyc1 = s.cyc1 := rfl
@[simp] theorem State.ns_setTeam (t : Nat) (x : Team) : (s.setTeam t x).ns = s.ns := rfl
@[simp] theorem State.free_setTeam (t : Nat) (x : Team) : (s.setTeam t x).free = s.free := rfl
@[simp] theorem State.nextOp_setTeam (t : Nat) (x : Team) : (s.setTeam t x).nextOp = s.nextOp := rfl
@[simp] theorem State.gangs_setTeam (t : Nat) (x : Team) : (s.setTeam t x).gangs = s.gangs := rfl
@[simp] theorem State.members_setTeam (t : Nat) (x : Team) : (s.setTeam t x).members = s.members := rfl
@[simp] theorem State.cores_setTeam (t : Nat) (x : Team) : (s.setTeam t x).cores = s.cores := rfl
@[simp] theorem State.slices_setTeam (t : Nat) (x : Team) : (s.setTeam t x).slices = s.slices := rfl
@[simp] theorem State.ops_setTeam (t : Nat) (x : Team) : (s.setTeam t x).ops = s.ops := rfl
@[simp] theorem State.mem_setTeam (t : Nat) (x : Team) : (s.setTeam t x).mem = s.mem := rfl
@[simp] theorem State.marks_setTeam (t : Nat) (x : Team) : (s.setTeam t x).marks = s.marks := rfl
@[simp] theorem State.stored_setTeam (t : Nat) (x : Team) : (s.setTeam t x).stored = s.stored := rfl
@[simp] theorem State.overwrites_setTeam (t : Nat) (x : Team) : (s.setTeam t x).overwrites = s.overwrites := rfl
@[simp] theorem State.schedule_setTeam (t : Nat) (x : Team) : (s.setTeam t x).schedule = s.schedule := rfl
@[simp] theorem State.slots_setTeam (t : Nat) (x : Team) : (s.setTeam t x).slots = s.slots := rfl
@[simp] theorem State.parts_setTeam (t : Nat) (x : Team) : (s.setTeam t x).parts = s.parts := rfl
@[simp] theorem State.ctxs_setTeam (t : Nat) (x : Team) : (s.setTeam t x).ctxs = s.ctxs := rfl
@[simp] theorem State.evt_setTeam (t : Nat) (x : Team) : (s.setTeam t x).evt = s.evt := rfl
@[simp] theorem State.images_setTeam (t : Nat) (x : Team) : (s.setTeam t x).images = s.images := rfl
@[simp] theorem State.journals_setTeam (t : Nat) (x : Team) : (s.setTeam t x).journals = s.journals := rfl
@[simp] theorem State.orders_setTeam (t : Nat) (x : Team) : (s.setTeam t x).orders = s.orders := rfl
@[simp] theorem State.replayJ_setTeam (t : Nat) (x : Team) : (s.setTeam t x).replayJ = s.replayJ := rfl
@[simp] theorem State.replayO_setTeam (t : Nat) (x : Team) : (s.setTeam t x).replayO = s.replayO := rfl
@[simp] theorem State.ahead_setTeam (t : Nat) (x : Team) : (s.setTeam t x).ahead = s.ahead := rfl
@[simp] theorem State.outbox_setTeam (t : Nat) (x : Team) : (s.setTeam t x).outbox = s.outbox := rfl
@[simp] theorem State.power_setTeam (t : Nat) (x : Team) : (s.setTeam t x).power = s.power := rfl
@[simp] theorem State.ecc_setTeam (t : Nat) (x : Team) : (s.setTeam t x).ecc = s.ecc := rfl
@[simp] theorem State.corrected_setTeam (t : Nat) (x : Team) : (s.setTeam t x).corrected = s.corrected := rfl
@[simp] theorem State.hw_setTeam (t : Nat) (x : Team) : (s.setTeam t x).hw = s.hw := rfl
@[simp] theorem State.tfaults_setTeam (t : Nat) (x : Team) : (s.setTeam t x).tfaults = s.tfaults := rfl
@[simp] theorem State.incoming_setTeam (t : Nat) (x : Team) : (s.setTeam t x).incoming = s.incoming := rfl
@[simp] theorem State.arriving_setTeam (t : Nat) (x : Team) : (s.setTeam t x).arriving = s.arriving := rfl
@[simp] theorem State.l2hits_setTeam (t : Nat) (x : Team) : (s.setTeam t x).l2hits = s.l2hits := rfl
@[simp] theorem State.ckpts_setTeam (t : Nat) (x : Team) : (s.setTeam t x).ckpts = s.ckpts := rfl
@[simp] theorem State.run_setTeam (t : Nat) (x : Team) : (s.setTeam t x).run = s.run := rfl
@[simp] theorem State.msix_setTeam (t : Nat) (x : Team) : (s.setTeam t x).msix = s.msix := rfl
@[simp] theorem State.windows_setTeam (t : Nat) (x : Team) : (s.setTeam t x).windows = s.windows := rfl
@[simp] theorem State.sealedPeer_setTeam (t : Nat) (x : Team) : (s.setTeam t x).sealedPeer = s.sealedPeer := rfl
@[simp] theorem State.groupTab_setTeam (t : Nat) (x : Team) : (s.setTeam t x).groupTab = s.groupTab := rfl
@[simp] theorem State.ports_setTeam (t : Nat) (x : Team) : (s.setTeam t x).ports = s.ports := rfl
@[simp] theorem State.sampleN_setTeam (t : Nat) (x : Team) : (s.setTeam t x).sampleN = s.sampleN := rfl
@[simp] theorem State.gang_of_setTeam (t : Nat) (x : Team) (k : Nat) : (s.setTeam t x).gang k = s.gang k := rfl
@[simp] theorem State.member_of_setTeam (t : Nat) (x : Team) (k : Nat) : (s.setTeam t x).member k = s.member k := rfl
@[simp] theorem State.core_of_setTeam (t : Nat) (x : Team) (k : Nat) : (s.setTeam t x).core k = s.core k := rfl
@[simp] theorem State.slice_of_setTeam (t : Nat) (x : Team) (k : Nat) : (s.setTeam t x).slice k = s.slice k := rfl
@[simp] theorem State.memByte_setTeam (t : Nat) (x : Team) (a : Nat) : (s.setTeam t x).memByte a = s.memByte a := rfl

@[simp] theorem State.cur_modTeam (t : Nat) (f : Team → Team) : (s.modTeam t f).cur = s.cur := rfl
@[simp] theorem State.curGang_modTeam (t : Nat) (f : Team → Team) : (s.modTeam t f).curGang = s.curGang := rfl
@[simp] theorem State.arg_modTeam (t : Nat) (f : Team → Team) : (s.modTeam t f).arg = s.arg := rfl
@[simp] theorem State.word_modTeam (t : Nat) (f : Team → Team) : (s.modTeam t f).word = s.word := rfl
@[simp] theorem State.wordh_modTeam (t : Nat) (f : Team → Team) : (s.modTeam t f).wordh = s.wordh := rfl
@[simp] theorem State.agenda_modTeam (t : Nat) (f : Team → Team) : (s.modTeam t f).agenda = s.agenda := rfl
@[simp] theorem State.cyc0_modTeam (t : Nat) (f : Team → Team) : (s.modTeam t f).cyc0 = s.cyc0 := rfl
@[simp] theorem State.cyc1_modTeam (t : Nat) (f : Team → Team) : (s.modTeam t f).cyc1 = s.cyc1 := rfl
@[simp] theorem State.ns_modTeam (t : Nat) (f : Team → Team) : (s.modTeam t f).ns = s.ns := rfl
@[simp] theorem State.free_modTeam (t : Nat) (f : Team → Team) : (s.modTeam t f).free = s.free := rfl
@[simp] theorem State.nextOp_modTeam (t : Nat) (f : Team → Team) : (s.modTeam t f).nextOp = s.nextOp := rfl
@[simp] theorem State.gangs_modTeam (t : Nat) (f : Team → Team) : (s.modTeam t f).gangs = s.gangs := rfl
@[simp] theorem State.members_modTeam (t : Nat) (f : Team → Team) : (s.modTeam t f).members = s.members := rfl
@[simp] theorem State.cores_modTeam (t : Nat) (f : Team → Team) : (s.modTeam t f).cores = s.cores := rfl
@[simp] theorem State.slices_modTeam (t : Nat) (f : Team → Team) : (s.modTeam t f).slices = s.slices := rfl
@[simp] theorem State.ops_modTeam (t : Nat) (f : Team → Team) : (s.modTeam t f).ops = s.ops := rfl
@[simp] theorem State.mem_modTeam (t : Nat) (f : Team → Team) : (s.modTeam t f).mem = s.mem := rfl
@[simp] theorem State.marks_modTeam (t : Nat) (f : Team → Team) : (s.modTeam t f).marks = s.marks := rfl
@[simp] theorem State.stored_modTeam (t : Nat) (f : Team → Team) : (s.modTeam t f).stored = s.stored := rfl
@[simp] theorem State.overwrites_modTeam (t : Nat) (f : Team → Team) : (s.modTeam t f).overwrites = s.overwrites := rfl
@[simp] theorem State.schedule_modTeam (t : Nat) (f : Team → Team) : (s.modTeam t f).schedule = s.schedule := rfl
@[simp] theorem State.slots_modTeam (t : Nat) (f : Team → Team) : (s.modTeam t f).slots = s.slots := rfl
@[simp] theorem State.parts_modTeam (t : Nat) (f : Team → Team) : (s.modTeam t f).parts = s.parts := rfl
@[simp] theorem State.ctxs_modTeam (t : Nat) (f : Team → Team) : (s.modTeam t f).ctxs = s.ctxs := rfl
@[simp] theorem State.evt_modTeam (t : Nat) (f : Team → Team) : (s.modTeam t f).evt = s.evt := rfl
@[simp] theorem State.images_modTeam (t : Nat) (f : Team → Team) : (s.modTeam t f).images = s.images := rfl
@[simp] theorem State.journals_modTeam (t : Nat) (f : Team → Team) : (s.modTeam t f).journals = s.journals := rfl
@[simp] theorem State.orders_modTeam (t : Nat) (f : Team → Team) : (s.modTeam t f).orders = s.orders := rfl
@[simp] theorem State.replayJ_modTeam (t : Nat) (f : Team → Team) : (s.modTeam t f).replayJ = s.replayJ := rfl
@[simp] theorem State.replayO_modTeam (t : Nat) (f : Team → Team) : (s.modTeam t f).replayO = s.replayO := rfl
@[simp] theorem State.ahead_modTeam (t : Nat) (f : Team → Team) : (s.modTeam t f).ahead = s.ahead := rfl
@[simp] theorem State.outbox_modTeam (t : Nat) (f : Team → Team) : (s.modTeam t f).outbox = s.outbox := rfl
@[simp] theorem State.power_modTeam (t : Nat) (f : Team → Team) : (s.modTeam t f).power = s.power := rfl
@[simp] theorem State.ecc_modTeam (t : Nat) (f : Team → Team) : (s.modTeam t f).ecc = s.ecc := rfl
@[simp] theorem State.corrected_modTeam (t : Nat) (f : Team → Team) : (s.modTeam t f).corrected = s.corrected := rfl
@[simp] theorem State.hw_modTeam (t : Nat) (f : Team → Team) : (s.modTeam t f).hw = s.hw := rfl
@[simp] theorem State.tfaults_modTeam (t : Nat) (f : Team → Team) : (s.modTeam t f).tfaults = s.tfaults := rfl
@[simp] theorem State.incoming_modTeam (t : Nat) (f : Team → Team) : (s.modTeam t f).incoming = s.incoming := rfl
@[simp] theorem State.arriving_modTeam (t : Nat) (f : Team → Team) : (s.modTeam t f).arriving = s.arriving := rfl
@[simp] theorem State.l2hits_modTeam (t : Nat) (f : Team → Team) : (s.modTeam t f).l2hits = s.l2hits := rfl
@[simp] theorem State.ckpts_modTeam (t : Nat) (f : Team → Team) : (s.modTeam t f).ckpts = s.ckpts := rfl
@[simp] theorem State.run_modTeam (t : Nat) (f : Team → Team) : (s.modTeam t f).run = s.run := rfl
@[simp] theorem State.msix_modTeam (t : Nat) (f : Team → Team) : (s.modTeam t f).msix = s.msix := rfl
@[simp] theorem State.windows_modTeam (t : Nat) (f : Team → Team) : (s.modTeam t f).windows = s.windows := rfl
@[simp] theorem State.sealedPeer_modTeam (t : Nat) (f : Team → Team) : (s.modTeam t f).sealedPeer = s.sealedPeer := rfl
@[simp] theorem State.groupTab_modTeam (t : Nat) (f : Team → Team) : (s.modTeam t f).groupTab = s.groupTab := rfl
@[simp] theorem State.ports_modTeam (t : Nat) (f : Team → Team) : (s.modTeam t f).ports = s.ports := rfl
@[simp] theorem State.sampleN_modTeam (t : Nat) (f : Team → Team) : (s.modTeam t f).sampleN = s.sampleN := rfl
@[simp] theorem State.gang_of_modTeam (t : Nat) (f : Team → Team) (k : Nat) : (s.modTeam t f).gang k = s.gang k := rfl
@[simp] theorem State.member_of_modTeam (t : Nat) (f : Team → Team) (k : Nat) : (s.modTeam t f).member k = s.member k := rfl
@[simp] theorem State.core_of_modTeam (t : Nat) (f : Team → Team) (k : Nat) : (s.modTeam t f).core k = s.core k := rfl
@[simp] theorem State.slice_of_modTeam (t : Nat) (f : Team → Team) (k : Nat) : (s.modTeam t f).slice k = s.slice k := rfl
@[simp] theorem State.memByte_modTeam (t : Nat) (f : Team → Team) (a : Nat) : (s.modTeam t f).memByte a = s.memByte a := rfl

@[simp] theorem State.cur_modTm (f : Team → Team) : (s.modTm f).cur = s.cur := rfl
@[simp] theorem State.curGang_modTm (f : Team → Team) : (s.modTm f).curGang = s.curGang := rfl
@[simp] theorem State.arg_modTm (f : Team → Team) : (s.modTm f).arg = s.arg := rfl
@[simp] theorem State.word_modTm (f : Team → Team) : (s.modTm f).word = s.word := rfl
@[simp] theorem State.wordh_modTm (f : Team → Team) : (s.modTm f).wordh = s.wordh := rfl
@[simp] theorem State.agenda_modTm (f : Team → Team) : (s.modTm f).agenda = s.agenda := rfl
@[simp] theorem State.cyc0_modTm (f : Team → Team) : (s.modTm f).cyc0 = s.cyc0 := rfl
@[simp] theorem State.cyc1_modTm (f : Team → Team) : (s.modTm f).cyc1 = s.cyc1 := rfl
@[simp] theorem State.ns_modTm (f : Team → Team) : (s.modTm f).ns = s.ns := rfl
@[simp] theorem State.free_modTm (f : Team → Team) : (s.modTm f).free = s.free := rfl
@[simp] theorem State.nextOp_modTm (f : Team → Team) : (s.modTm f).nextOp = s.nextOp := rfl
@[simp] theorem State.gangs_modTm (f : Team → Team) : (s.modTm f).gangs = s.gangs := rfl
@[simp] theorem State.members_modTm (f : Team → Team) : (s.modTm f).members = s.members := rfl
@[simp] theorem State.cores_modTm (f : Team → Team) : (s.modTm f).cores = s.cores := rfl
@[simp] theorem State.slices_modTm (f : Team → Team) : (s.modTm f).slices = s.slices := rfl
@[simp] theorem State.ops_modTm (f : Team → Team) : (s.modTm f).ops = s.ops := rfl
@[simp] theorem State.mem_modTm (f : Team → Team) : (s.modTm f).mem = s.mem := rfl
@[simp] theorem State.marks_modTm (f : Team → Team) : (s.modTm f).marks = s.marks := rfl
@[simp] theorem State.stored_modTm (f : Team → Team) : (s.modTm f).stored = s.stored := rfl
@[simp] theorem State.overwrites_modTm (f : Team → Team) : (s.modTm f).overwrites = s.overwrites := rfl
@[simp] theorem State.schedule_modTm (f : Team → Team) : (s.modTm f).schedule = s.schedule := rfl
@[simp] theorem State.slots_modTm (f : Team → Team) : (s.modTm f).slots = s.slots := rfl
@[simp] theorem State.parts_modTm (f : Team → Team) : (s.modTm f).parts = s.parts := rfl
@[simp] theorem State.ctxs_modTm (f : Team → Team) : (s.modTm f).ctxs = s.ctxs := rfl
@[simp] theorem State.evt_modTm (f : Team → Team) : (s.modTm f).evt = s.evt := rfl
@[simp] theorem State.images_modTm (f : Team → Team) : (s.modTm f).images = s.images := rfl
@[simp] theorem State.journals_modTm (f : Team → Team) : (s.modTm f).journals = s.journals := rfl
@[simp] theorem State.orders_modTm (f : Team → Team) : (s.modTm f).orders = s.orders := rfl
@[simp] theorem State.replayJ_modTm (f : Team → Team) : (s.modTm f).replayJ = s.replayJ := rfl
@[simp] theorem State.replayO_modTm (f : Team → Team) : (s.modTm f).replayO = s.replayO := rfl
@[simp] theorem State.ahead_modTm (f : Team → Team) : (s.modTm f).ahead = s.ahead := rfl
@[simp] theorem State.outbox_modTm (f : Team → Team) : (s.modTm f).outbox = s.outbox := rfl
@[simp] theorem State.power_modTm (f : Team → Team) : (s.modTm f).power = s.power := rfl
@[simp] theorem State.ecc_modTm (f : Team → Team) : (s.modTm f).ecc = s.ecc := rfl
@[simp] theorem State.corrected_modTm (f : Team → Team) : (s.modTm f).corrected = s.corrected := rfl
@[simp] theorem State.hw_modTm (f : Team → Team) : (s.modTm f).hw = s.hw := rfl
@[simp] theorem State.tfaults_modTm (f : Team → Team) : (s.modTm f).tfaults = s.tfaults := rfl
@[simp] theorem State.incoming_modTm (f : Team → Team) : (s.modTm f).incoming = s.incoming := rfl
@[simp] theorem State.arriving_modTm (f : Team → Team) : (s.modTm f).arriving = s.arriving := rfl
@[simp] theorem State.l2hits_modTm (f : Team → Team) : (s.modTm f).l2hits = s.l2hits := rfl
@[simp] theorem State.ckpts_modTm (f : Team → Team) : (s.modTm f).ckpts = s.ckpts := rfl
@[simp] theorem State.run_modTm (f : Team → Team) : (s.modTm f).run = s.run := rfl
@[simp] theorem State.msix_modTm (f : Team → Team) : (s.modTm f).msix = s.msix := rfl
@[simp] theorem State.windows_modTm (f : Team → Team) : (s.modTm f).windows = s.windows := rfl
@[simp] theorem State.sealedPeer_modTm (f : Team → Team) : (s.modTm f).sealedPeer = s.sealedPeer := rfl
@[simp] theorem State.groupTab_modTm (f : Team → Team) : (s.modTm f).groupTab = s.groupTab := rfl
@[simp] theorem State.ports_modTm (f : Team → Team) : (s.modTm f).ports = s.ports := rfl
@[simp] theorem State.sampleN_modTm (f : Team → Team) : (s.modTm f).sampleN = s.sampleN := rfl
@[simp] theorem State.gang_of_modTm (f : Team → Team) (k : Nat) : (s.modTm f).gang k = s.gang k := rfl
@[simp] theorem State.member_of_modTm (f : Team → Team) (k : Nat) : (s.modTm f).member k = s.member k := rfl
@[simp] theorem State.core_of_modTm (f : Team → Team) (k : Nat) : (s.modTm f).core k = s.core k := rfl
@[simp] theorem State.slice_of_modTm (f : Team → Team) (k : Nat) : (s.modTm f).slice k = s.slice k := rfl
@[simp] theorem State.memByte_modTm (f : Team → Team) (a : Nat) : (s.modTm f).memByte a = s.memByte a := rfl

@[simp] theorem State.cur_wS (r : BitVec 6) (v : W64) : (s.wS r v).cur = s.cur := rfl
@[simp] theorem State.curGang_wS (r : BitVec 6) (v : W64) : (s.wS r v).curGang = s.curGang := rfl
@[simp] theorem State.arg_wS (r : BitVec 6) (v : W64) : (s.wS r v).arg = s.arg := rfl
@[simp] theorem State.word_wS (r : BitVec 6) (v : W64) : (s.wS r v).word = s.word := rfl
@[simp] theorem State.wordh_wS (r : BitVec 6) (v : W64) : (s.wS r v).wordh = s.wordh := rfl
@[simp] theorem State.agenda_wS (r : BitVec 6) (v : W64) : (s.wS r v).agenda = s.agenda := rfl
@[simp] theorem State.cyc0_wS (r : BitVec 6) (v : W64) : (s.wS r v).cyc0 = s.cyc0 := rfl
@[simp] theorem State.cyc1_wS (r : BitVec 6) (v : W64) : (s.wS r v).cyc1 = s.cyc1 := rfl
@[simp] theorem State.ns_wS (r : BitVec 6) (v : W64) : (s.wS r v).ns = s.ns := rfl
@[simp] theorem State.free_wS (r : BitVec 6) (v : W64) : (s.wS r v).free = s.free := rfl
@[simp] theorem State.nextOp_wS (r : BitVec 6) (v : W64) : (s.wS r v).nextOp = s.nextOp := rfl
@[simp] theorem State.gangs_wS (r : BitVec 6) (v : W64) : (s.wS r v).gangs = s.gangs := rfl
@[simp] theorem State.members_wS (r : BitVec 6) (v : W64) : (s.wS r v).members = s.members := rfl
@[simp] theorem State.cores_wS (r : BitVec 6) (v : W64) : (s.wS r v).cores = s.cores := rfl
@[simp] theorem State.slices_wS (r : BitVec 6) (v : W64) : (s.wS r v).slices = s.slices := rfl
@[simp] theorem State.ops_wS (r : BitVec 6) (v : W64) : (s.wS r v).ops = s.ops := rfl
@[simp] theorem State.mem_wS (r : BitVec 6) (v : W64) : (s.wS r v).mem = s.mem := rfl
@[simp] theorem State.marks_wS (r : BitVec 6) (v : W64) : (s.wS r v).marks = s.marks := rfl
@[simp] theorem State.stored_wS (r : BitVec 6) (v : W64) : (s.wS r v).stored = s.stored := rfl
@[simp] theorem State.overwrites_wS (r : BitVec 6) (v : W64) : (s.wS r v).overwrites = s.overwrites := rfl
@[simp] theorem State.schedule_wS (r : BitVec 6) (v : W64) : (s.wS r v).schedule = s.schedule := rfl
@[simp] theorem State.slots_wS (r : BitVec 6) (v : W64) : (s.wS r v).slots = s.slots := rfl
@[simp] theorem State.parts_wS (r : BitVec 6) (v : W64) : (s.wS r v).parts = s.parts := rfl
@[simp] theorem State.ctxs_wS (r : BitVec 6) (v : W64) : (s.wS r v).ctxs = s.ctxs := rfl
@[simp] theorem State.evt_wS (r : BitVec 6) (v : W64) : (s.wS r v).evt = s.evt := rfl
@[simp] theorem State.images_wS (r : BitVec 6) (v : W64) : (s.wS r v).images = s.images := rfl
@[simp] theorem State.journals_wS (r : BitVec 6) (v : W64) : (s.wS r v).journals = s.journals := rfl
@[simp] theorem State.orders_wS (r : BitVec 6) (v : W64) : (s.wS r v).orders = s.orders := rfl
@[simp] theorem State.replayJ_wS (r : BitVec 6) (v : W64) : (s.wS r v).replayJ = s.replayJ := rfl
@[simp] theorem State.replayO_wS (r : BitVec 6) (v : W64) : (s.wS r v).replayO = s.replayO := rfl
@[simp] theorem State.ahead_wS (r : BitVec 6) (v : W64) : (s.wS r v).ahead = s.ahead := rfl
@[simp] theorem State.outbox_wS (r : BitVec 6) (v : W64) : (s.wS r v).outbox = s.outbox := rfl
@[simp] theorem State.power_wS (r : BitVec 6) (v : W64) : (s.wS r v).power = s.power := rfl
@[simp] theorem State.ecc_wS (r : BitVec 6) (v : W64) : (s.wS r v).ecc = s.ecc := rfl
@[simp] theorem State.corrected_wS (r : BitVec 6) (v : W64) : (s.wS r v).corrected = s.corrected := rfl
@[simp] theorem State.hw_wS (r : BitVec 6) (v : W64) : (s.wS r v).hw = s.hw := rfl
@[simp] theorem State.tfaults_wS (r : BitVec 6) (v : W64) : (s.wS r v).tfaults = s.tfaults := rfl
@[simp] theorem State.incoming_wS (r : BitVec 6) (v : W64) : (s.wS r v).incoming = s.incoming := rfl
@[simp] theorem State.arriving_wS (r : BitVec 6) (v : W64) : (s.wS r v).arriving = s.arriving := rfl
@[simp] theorem State.l2hits_wS (r : BitVec 6) (v : W64) : (s.wS r v).l2hits = s.l2hits := rfl
@[simp] theorem State.ckpts_wS (r : BitVec 6) (v : W64) : (s.wS r v).ckpts = s.ckpts := rfl
@[simp] theorem State.run_wS (r : BitVec 6) (v : W64) : (s.wS r v).run = s.run := rfl
@[simp] theorem State.msix_wS (r : BitVec 6) (v : W64) : (s.wS r v).msix = s.msix := rfl
@[simp] theorem State.windows_wS (r : BitVec 6) (v : W64) : (s.wS r v).windows = s.windows := rfl
@[simp] theorem State.sealedPeer_wS (r : BitVec 6) (v : W64) : (s.wS r v).sealedPeer = s.sealedPeer := rfl
@[simp] theorem State.groupTab_wS (r : BitVec 6) (v : W64) : (s.wS r v).groupTab = s.groupTab := rfl
@[simp] theorem State.ports_wS (r : BitVec 6) (v : W64) : (s.wS r v).ports = s.ports := rfl
@[simp] theorem State.sampleN_wS (r : BitVec 6) (v : W64) : (s.wS r v).sampleN = s.sampleN := rfl
@[simp] theorem State.gang_of_wS (r : BitVec 6) (v : W64) (k : Nat) : (s.wS r v).gang k = s.gang k := rfl
@[simp] theorem State.member_of_wS (r : BitVec 6) (v : W64) (k : Nat) : (s.wS r v).member k = s.member k := rfl
@[simp] theorem State.core_of_wS (r : BitVec 6) (v : W64) (k : Nat) : (s.wS r v).core k = s.core k := rfl
@[simp] theorem State.slice_of_wS (r : BitVec 6) (v : W64) (k : Nat) : (s.wS r v).slice k = s.slice k := rfl
@[simp] theorem State.memByte_wS (r : BitVec 6) (v : W64) (a : Nat) : (s.wS r v).memByte a = s.memByte a := rfl

@[simp] theorem State.cur_setGang (g : Nat) (x : Gang) : (s.setGang g x).cur = s.cur := rfl
@[simp] theorem State.curGang_setGang (g : Nat) (x : Gang) : (s.setGang g x).curGang = s.curGang := rfl
@[simp] theorem State.arg_setGang (g : Nat) (x : Gang) : (s.setGang g x).arg = s.arg := rfl
@[simp] theorem State.word_setGang (g : Nat) (x : Gang) : (s.setGang g x).word = s.word := rfl
@[simp] theorem State.wordh_setGang (g : Nat) (x : Gang) : (s.setGang g x).wordh = s.wordh := rfl
@[simp] theorem State.agenda_setGang (g : Nat) (x : Gang) : (s.setGang g x).agenda = s.agenda := rfl
@[simp] theorem State.cyc0_setGang (g : Nat) (x : Gang) : (s.setGang g x).cyc0 = s.cyc0 := rfl
@[simp] theorem State.cyc1_setGang (g : Nat) (x : Gang) : (s.setGang g x).cyc1 = s.cyc1 := rfl
@[simp] theorem State.ns_setGang (g : Nat) (x : Gang) : (s.setGang g x).ns = s.ns := rfl
@[simp] theorem State.free_setGang (g : Nat) (x : Gang) : (s.setGang g x).free = s.free := rfl
@[simp] theorem State.nextOp_setGang (g : Nat) (x : Gang) : (s.setGang g x).nextOp = s.nextOp := rfl
@[simp] theorem State.teams_setGang (g : Nat) (x : Gang) : (s.setGang g x).teams = s.teams := rfl
@[simp] theorem State.members_setGang (g : Nat) (x : Gang) : (s.setGang g x).members = s.members := rfl
@[simp] theorem State.cores_setGang (g : Nat) (x : Gang) : (s.setGang g x).cores = s.cores := rfl
@[simp] theorem State.slices_setGang (g : Nat) (x : Gang) : (s.setGang g x).slices = s.slices := rfl
@[simp] theorem State.ops_setGang (g : Nat) (x : Gang) : (s.setGang g x).ops = s.ops := rfl
@[simp] theorem State.mem_setGang (g : Nat) (x : Gang) : (s.setGang g x).mem = s.mem := rfl
@[simp] theorem State.marks_setGang (g : Nat) (x : Gang) : (s.setGang g x).marks = s.marks := rfl
@[simp] theorem State.stored_setGang (g : Nat) (x : Gang) : (s.setGang g x).stored = s.stored := rfl
@[simp] theorem State.overwrites_setGang (g : Nat) (x : Gang) : (s.setGang g x).overwrites = s.overwrites := rfl
@[simp] theorem State.schedule_setGang (g : Nat) (x : Gang) : (s.setGang g x).schedule = s.schedule := rfl
@[simp] theorem State.slots_setGang (g : Nat) (x : Gang) : (s.setGang g x).slots = s.slots := rfl
@[simp] theorem State.parts_setGang (g : Nat) (x : Gang) : (s.setGang g x).parts = s.parts := rfl
@[simp] theorem State.ctxs_setGang (g : Nat) (x : Gang) : (s.setGang g x).ctxs = s.ctxs := rfl
@[simp] theorem State.evt_setGang (g : Nat) (x : Gang) : (s.setGang g x).evt = s.evt := rfl
@[simp] theorem State.images_setGang (g : Nat) (x : Gang) : (s.setGang g x).images = s.images := rfl
@[simp] theorem State.journals_setGang (g : Nat) (x : Gang) : (s.setGang g x).journals = s.journals := rfl
@[simp] theorem State.orders_setGang (g : Nat) (x : Gang) : (s.setGang g x).orders = s.orders := rfl
@[simp] theorem State.replayJ_setGang (g : Nat) (x : Gang) : (s.setGang g x).replayJ = s.replayJ := rfl
@[simp] theorem State.replayO_setGang (g : Nat) (x : Gang) : (s.setGang g x).replayO = s.replayO := rfl
@[simp] theorem State.ahead_setGang (g : Nat) (x : Gang) : (s.setGang g x).ahead = s.ahead := rfl
@[simp] theorem State.outbox_setGang (g : Nat) (x : Gang) : (s.setGang g x).outbox = s.outbox := rfl
@[simp] theorem State.power_setGang (g : Nat) (x : Gang) : (s.setGang g x).power = s.power := rfl
@[simp] theorem State.ecc_setGang (g : Nat) (x : Gang) : (s.setGang g x).ecc = s.ecc := rfl
@[simp] theorem State.corrected_setGang (g : Nat) (x : Gang) : (s.setGang g x).corrected = s.corrected := rfl
@[simp] theorem State.hw_setGang (g : Nat) (x : Gang) : (s.setGang g x).hw = s.hw := rfl
@[simp] theorem State.tfaults_setGang (g : Nat) (x : Gang) : (s.setGang g x).tfaults = s.tfaults := rfl
@[simp] theorem State.incoming_setGang (g : Nat) (x : Gang) : (s.setGang g x).incoming = s.incoming := rfl
@[simp] theorem State.arriving_setGang (g : Nat) (x : Gang) : (s.setGang g x).arriving = s.arriving := rfl
@[simp] theorem State.l2hits_setGang (g : Nat) (x : Gang) : (s.setGang g x).l2hits = s.l2hits := rfl
@[simp] theorem State.ckpts_setGang (g : Nat) (x : Gang) : (s.setGang g x).ckpts = s.ckpts := rfl
@[simp] theorem State.run_setGang (g : Nat) (x : Gang) : (s.setGang g x).run = s.run := rfl
@[simp] theorem State.msix_setGang (g : Nat) (x : Gang) : (s.setGang g x).msix = s.msix := rfl
@[simp] theorem State.windows_setGang (g : Nat) (x : Gang) : (s.setGang g x).windows = s.windows := rfl
@[simp] theorem State.sealedPeer_setGang (g : Nat) (x : Gang) : (s.setGang g x).sealedPeer = s.sealedPeer := rfl
@[simp] theorem State.groupTab_setGang (g : Nat) (x : Gang) : (s.setGang g x).groupTab = s.groupTab := rfl
@[simp] theorem State.ports_setGang (g : Nat) (x : Gang) : (s.setGang g x).ports = s.ports := rfl
@[simp] theorem State.sampleN_setGang (g : Nat) (x : Gang) : (s.setGang g x).sampleN = s.sampleN := rfl
@[simp] theorem State.team_of_setGang (g : Nat) (x : Gang) (k : Nat) : (s.setGang g x).team k = s.team k := rfl
@[simp] theorem State.member_of_setGang (g : Nat) (x : Gang) (k : Nat) : (s.setGang g x).member k = s.member k := rfl
@[simp] theorem State.core_of_setGang (g : Nat) (x : Gang) (k : Nat) : (s.setGang g x).core k = s.core k := rfl
@[simp] theorem State.slice_of_setGang (g : Nat) (x : Gang) (k : Nat) : (s.setGang g x).slice k = s.slice k := rfl
@[simp] theorem State.memByte_setGang (g : Nat) (x : Gang) (a : Nat) : (s.setGang g x).memByte a = s.memByte a := rfl

@[simp] theorem State.cur_modGang (g : Nat) (f : Gang → Gang) : (s.modGang g f).cur = s.cur := rfl
@[simp] theorem State.curGang_modGang (g : Nat) (f : Gang → Gang) : (s.modGang g f).curGang = s.curGang := rfl
@[simp] theorem State.arg_modGang (g : Nat) (f : Gang → Gang) : (s.modGang g f).arg = s.arg := rfl
@[simp] theorem State.word_modGang (g : Nat) (f : Gang → Gang) : (s.modGang g f).word = s.word := rfl
@[simp] theorem State.wordh_modGang (g : Nat) (f : Gang → Gang) : (s.modGang g f).wordh = s.wordh := rfl
@[simp] theorem State.agenda_modGang (g : Nat) (f : Gang → Gang) : (s.modGang g f).agenda = s.agenda := rfl
@[simp] theorem State.cyc0_modGang (g : Nat) (f : Gang → Gang) : (s.modGang g f).cyc0 = s.cyc0 := rfl
@[simp] theorem State.cyc1_modGang (g : Nat) (f : Gang → Gang) : (s.modGang g f).cyc1 = s.cyc1 := rfl
@[simp] theorem State.ns_modGang (g : Nat) (f : Gang → Gang) : (s.modGang g f).ns = s.ns := rfl
@[simp] theorem State.free_modGang (g : Nat) (f : Gang → Gang) : (s.modGang g f).free = s.free := rfl
@[simp] theorem State.nextOp_modGang (g : Nat) (f : Gang → Gang) : (s.modGang g f).nextOp = s.nextOp := rfl
@[simp] theorem State.teams_modGang (g : Nat) (f : Gang → Gang) : (s.modGang g f).teams = s.teams := rfl
@[simp] theorem State.members_modGang (g : Nat) (f : Gang → Gang) : (s.modGang g f).members = s.members := rfl
@[simp] theorem State.cores_modGang (g : Nat) (f : Gang → Gang) : (s.modGang g f).cores = s.cores := rfl
@[simp] theorem State.slices_modGang (g : Nat) (f : Gang → Gang) : (s.modGang g f).slices = s.slices := rfl
@[simp] theorem State.ops_modGang (g : Nat) (f : Gang → Gang) : (s.modGang g f).ops = s.ops := rfl
@[simp] theorem State.mem_modGang (g : Nat) (f : Gang → Gang) : (s.modGang g f).mem = s.mem := rfl
@[simp] theorem State.marks_modGang (g : Nat) (f : Gang → Gang) : (s.modGang g f).marks = s.marks := rfl
@[simp] theorem State.stored_modGang (g : Nat) (f : Gang → Gang) : (s.modGang g f).stored = s.stored := rfl
@[simp] theorem State.overwrites_modGang (g : Nat) (f : Gang → Gang) : (s.modGang g f).overwrites = s.overwrites := rfl
@[simp] theorem State.schedule_modGang (g : Nat) (f : Gang → Gang) : (s.modGang g f).schedule = s.schedule := rfl
@[simp] theorem State.slots_modGang (g : Nat) (f : Gang → Gang) : (s.modGang g f).slots = s.slots := rfl
@[simp] theorem State.parts_modGang (g : Nat) (f : Gang → Gang) : (s.modGang g f).parts = s.parts := rfl
@[simp] theorem State.ctxs_modGang (g : Nat) (f : Gang → Gang) : (s.modGang g f).ctxs = s.ctxs := rfl
@[simp] theorem State.evt_modGang (g : Nat) (f : Gang → Gang) : (s.modGang g f).evt = s.evt := rfl
@[simp] theorem State.images_modGang (g : Nat) (f : Gang → Gang) : (s.modGang g f).images = s.images := rfl
@[simp] theorem State.journals_modGang (g : Nat) (f : Gang → Gang) : (s.modGang g f).journals = s.journals := rfl
@[simp] theorem State.orders_modGang (g : Nat) (f : Gang → Gang) : (s.modGang g f).orders = s.orders := rfl
@[simp] theorem State.replayJ_modGang (g : Nat) (f : Gang → Gang) : (s.modGang g f).replayJ = s.replayJ := rfl
@[simp] theorem State.replayO_modGang (g : Nat) (f : Gang → Gang) : (s.modGang g f).replayO = s.replayO := rfl
@[simp] theorem State.ahead_modGang (g : Nat) (f : Gang → Gang) : (s.modGang g f).ahead = s.ahead := rfl
@[simp] theorem State.outbox_modGang (g : Nat) (f : Gang → Gang) : (s.modGang g f).outbox = s.outbox := rfl
@[simp] theorem State.power_modGang (g : Nat) (f : Gang → Gang) : (s.modGang g f).power = s.power := rfl
@[simp] theorem State.ecc_modGang (g : Nat) (f : Gang → Gang) : (s.modGang g f).ecc = s.ecc := rfl
@[simp] theorem State.corrected_modGang (g : Nat) (f : Gang → Gang) : (s.modGang g f).corrected = s.corrected := rfl
@[simp] theorem State.hw_modGang (g : Nat) (f : Gang → Gang) : (s.modGang g f).hw = s.hw := rfl
@[simp] theorem State.tfaults_modGang (g : Nat) (f : Gang → Gang) : (s.modGang g f).tfaults = s.tfaults := rfl
@[simp] theorem State.incoming_modGang (g : Nat) (f : Gang → Gang) : (s.modGang g f).incoming = s.incoming := rfl
@[simp] theorem State.arriving_modGang (g : Nat) (f : Gang → Gang) : (s.modGang g f).arriving = s.arriving := rfl
@[simp] theorem State.l2hits_modGang (g : Nat) (f : Gang → Gang) : (s.modGang g f).l2hits = s.l2hits := rfl
@[simp] theorem State.ckpts_modGang (g : Nat) (f : Gang → Gang) : (s.modGang g f).ckpts = s.ckpts := rfl
@[simp] theorem State.run_modGang (g : Nat) (f : Gang → Gang) : (s.modGang g f).run = s.run := rfl
@[simp] theorem State.msix_modGang (g : Nat) (f : Gang → Gang) : (s.modGang g f).msix = s.msix := rfl
@[simp] theorem State.windows_modGang (g : Nat) (f : Gang → Gang) : (s.modGang g f).windows = s.windows := rfl
@[simp] theorem State.sealedPeer_modGang (g : Nat) (f : Gang → Gang) : (s.modGang g f).sealedPeer = s.sealedPeer := rfl
@[simp] theorem State.groupTab_modGang (g : Nat) (f : Gang → Gang) : (s.modGang g f).groupTab = s.groupTab := rfl
@[simp] theorem State.ports_modGang (g : Nat) (f : Gang → Gang) : (s.modGang g f).ports = s.ports := rfl
@[simp] theorem State.sampleN_modGang (g : Nat) (f : Gang → Gang) : (s.modGang g f).sampleN = s.sampleN := rfl
@[simp] theorem State.team_of_modGang (g : Nat) (f : Gang → Gang) (k : Nat) : (s.modGang g f).team k = s.team k := rfl
@[simp] theorem State.member_of_modGang (g : Nat) (f : Gang → Gang) (k : Nat) : (s.modGang g f).member k = s.member k := rfl
@[simp] theorem State.core_of_modGang (g : Nat) (f : Gang → Gang) (k : Nat) : (s.modGang g f).core k = s.core k := rfl
@[simp] theorem State.slice_of_modGang (g : Nat) (f : Gang → Gang) (k : Nat) : (s.modGang g f).slice k = s.slice k := rfl
@[simp] theorem State.memByte_modGang (g : Nat) (f : Gang → Gang) (a : Nat) : (s.modGang g f).memByte a = s.memByte a := rfl

@[simp] theorem State.cur_setMember (m : Nat) (x : Member) : (s.setMember m x).cur = s.cur := rfl
@[simp] theorem State.curGang_setMember (m : Nat) (x : Member) : (s.setMember m x).curGang = s.curGang := rfl
@[simp] theorem State.arg_setMember (m : Nat) (x : Member) : (s.setMember m x).arg = s.arg := rfl
@[simp] theorem State.word_setMember (m : Nat) (x : Member) : (s.setMember m x).word = s.word := rfl
@[simp] theorem State.wordh_setMember (m : Nat) (x : Member) : (s.setMember m x).wordh = s.wordh := rfl
@[simp] theorem State.agenda_setMember (m : Nat) (x : Member) : (s.setMember m x).agenda = s.agenda := rfl
@[simp] theorem State.cyc0_setMember (m : Nat) (x : Member) : (s.setMember m x).cyc0 = s.cyc0 := rfl
@[simp] theorem State.cyc1_setMember (m : Nat) (x : Member) : (s.setMember m x).cyc1 = s.cyc1 := rfl
@[simp] theorem State.ns_setMember (m : Nat) (x : Member) : (s.setMember m x).ns = s.ns := rfl
@[simp] theorem State.free_setMember (m : Nat) (x : Member) : (s.setMember m x).free = s.free := rfl
@[simp] theorem State.nextOp_setMember (m : Nat) (x : Member) : (s.setMember m x).nextOp = s.nextOp := rfl
@[simp] theorem State.teams_setMember (m : Nat) (x : Member) : (s.setMember m x).teams = s.teams := rfl
@[simp] theorem State.gangs_setMember (m : Nat) (x : Member) : (s.setMember m x).gangs = s.gangs := rfl
@[simp] theorem State.cores_setMember (m : Nat) (x : Member) : (s.setMember m x).cores = s.cores := rfl
@[simp] theorem State.slices_setMember (m : Nat) (x : Member) : (s.setMember m x).slices = s.slices := rfl
@[simp] theorem State.ops_setMember (m : Nat) (x : Member) : (s.setMember m x).ops = s.ops := rfl
@[simp] theorem State.mem_setMember (m : Nat) (x : Member) : (s.setMember m x).mem = s.mem := rfl
@[simp] theorem State.marks_setMember (m : Nat) (x : Member) : (s.setMember m x).marks = s.marks := rfl
@[simp] theorem State.stored_setMember (m : Nat) (x : Member) : (s.setMember m x).stored = s.stored := rfl
@[simp] theorem State.overwrites_setMember (m : Nat) (x : Member) : (s.setMember m x).overwrites = s.overwrites := rfl
@[simp] theorem State.schedule_setMember (m : Nat) (x : Member) : (s.setMember m x).schedule = s.schedule := rfl
@[simp] theorem State.slots_setMember (m : Nat) (x : Member) : (s.setMember m x).slots = s.slots := rfl
@[simp] theorem State.parts_setMember (m : Nat) (x : Member) : (s.setMember m x).parts = s.parts := rfl
@[simp] theorem State.ctxs_setMember (m : Nat) (x : Member) : (s.setMember m x).ctxs = s.ctxs := rfl
@[simp] theorem State.evt_setMember (m : Nat) (x : Member) : (s.setMember m x).evt = s.evt := rfl
@[simp] theorem State.images_setMember (m : Nat) (x : Member) : (s.setMember m x).images = s.images := rfl
@[simp] theorem State.journals_setMember (m : Nat) (x : Member) : (s.setMember m x).journals = s.journals := rfl
@[simp] theorem State.orders_setMember (m : Nat) (x : Member) : (s.setMember m x).orders = s.orders := rfl
@[simp] theorem State.replayJ_setMember (m : Nat) (x : Member) : (s.setMember m x).replayJ = s.replayJ := rfl
@[simp] theorem State.replayO_setMember (m : Nat) (x : Member) : (s.setMember m x).replayO = s.replayO := rfl
@[simp] theorem State.ahead_setMember (m : Nat) (x : Member) : (s.setMember m x).ahead = s.ahead := rfl
@[simp] theorem State.outbox_setMember (m : Nat) (x : Member) : (s.setMember m x).outbox = s.outbox := rfl
@[simp] theorem State.power_setMember (m : Nat) (x : Member) : (s.setMember m x).power = s.power := rfl
@[simp] theorem State.ecc_setMember (m : Nat) (x : Member) : (s.setMember m x).ecc = s.ecc := rfl
@[simp] theorem State.corrected_setMember (m : Nat) (x : Member) : (s.setMember m x).corrected = s.corrected := rfl
@[simp] theorem State.hw_setMember (m : Nat) (x : Member) : (s.setMember m x).hw = s.hw := rfl
@[simp] theorem State.tfaults_setMember (m : Nat) (x : Member) : (s.setMember m x).tfaults = s.tfaults := rfl
@[simp] theorem State.incoming_setMember (m : Nat) (x : Member) : (s.setMember m x).incoming = s.incoming := rfl
@[simp] theorem State.arriving_setMember (m : Nat) (x : Member) : (s.setMember m x).arriving = s.arriving := rfl
@[simp] theorem State.l2hits_setMember (m : Nat) (x : Member) : (s.setMember m x).l2hits = s.l2hits := rfl
@[simp] theorem State.ckpts_setMember (m : Nat) (x : Member) : (s.setMember m x).ckpts = s.ckpts := rfl
@[simp] theorem State.run_setMember (m : Nat) (x : Member) : (s.setMember m x).run = s.run := rfl
@[simp] theorem State.msix_setMember (m : Nat) (x : Member) : (s.setMember m x).msix = s.msix := rfl
@[simp] theorem State.windows_setMember (m : Nat) (x : Member) : (s.setMember m x).windows = s.windows := rfl
@[simp] theorem State.sealedPeer_setMember (m : Nat) (x : Member) : (s.setMember m x).sealedPeer = s.sealedPeer := rfl
@[simp] theorem State.groupTab_setMember (m : Nat) (x : Member) : (s.setMember m x).groupTab = s.groupTab := rfl
@[simp] theorem State.ports_setMember (m : Nat) (x : Member) : (s.setMember m x).ports = s.ports := rfl
@[simp] theorem State.sampleN_setMember (m : Nat) (x : Member) : (s.setMember m x).sampleN = s.sampleN := rfl
@[simp] theorem State.team_of_setMember (m : Nat) (x : Member) (k : Nat) : (s.setMember m x).team k = s.team k := rfl
@[simp] theorem State.gang_of_setMember (m : Nat) (x : Member) (k : Nat) : (s.setMember m x).gang k = s.gang k := rfl
@[simp] theorem State.core_of_setMember (m : Nat) (x : Member) (k : Nat) : (s.setMember m x).core k = s.core k := rfl
@[simp] theorem State.slice_of_setMember (m : Nat) (x : Member) (k : Nat) : (s.setMember m x).slice k = s.slice k := rfl
@[simp] theorem State.memByte_setMember (m : Nat) (x : Member) (a : Nat) : (s.setMember m x).memByte a = s.memByte a := rfl

@[simp] theorem State.cur_modMember (m : Nat) (f : Member → Member) : (s.modMember m f).cur = s.cur := rfl
@[simp] theorem State.curGang_modMember (m : Nat) (f : Member → Member) : (s.modMember m f).curGang = s.curGang := rfl
@[simp] theorem State.arg_modMember (m : Nat) (f : Member → Member) : (s.modMember m f).arg = s.arg := rfl
@[simp] theorem State.word_modMember (m : Nat) (f : Member → Member) : (s.modMember m f).word = s.word := rfl
@[simp] theorem State.wordh_modMember (m : Nat) (f : Member → Member) : (s.modMember m f).wordh = s.wordh := rfl
@[simp] theorem State.agenda_modMember (m : Nat) (f : Member → Member) : (s.modMember m f).agenda = s.agenda := rfl
@[simp] theorem State.cyc0_modMember (m : Nat) (f : Member → Member) : (s.modMember m f).cyc0 = s.cyc0 := rfl
@[simp] theorem State.cyc1_modMember (m : Nat) (f : Member → Member) : (s.modMember m f).cyc1 = s.cyc1 := rfl
@[simp] theorem State.ns_modMember (m : Nat) (f : Member → Member) : (s.modMember m f).ns = s.ns := rfl
@[simp] theorem State.free_modMember (m : Nat) (f : Member → Member) : (s.modMember m f).free = s.free := rfl
@[simp] theorem State.nextOp_modMember (m : Nat) (f : Member → Member) : (s.modMember m f).nextOp = s.nextOp := rfl
@[simp] theorem State.teams_modMember (m : Nat) (f : Member → Member) : (s.modMember m f).teams = s.teams := rfl
@[simp] theorem State.gangs_modMember (m : Nat) (f : Member → Member) : (s.modMember m f).gangs = s.gangs := rfl
@[simp] theorem State.cores_modMember (m : Nat) (f : Member → Member) : (s.modMember m f).cores = s.cores := rfl
@[simp] theorem State.slices_modMember (m : Nat) (f : Member → Member) : (s.modMember m f).slices = s.slices := rfl
@[simp] theorem State.ops_modMember (m : Nat) (f : Member → Member) : (s.modMember m f).ops = s.ops := rfl
@[simp] theorem State.mem_modMember (m : Nat) (f : Member → Member) : (s.modMember m f).mem = s.mem := rfl
@[simp] theorem State.marks_modMember (m : Nat) (f : Member → Member) : (s.modMember m f).marks = s.marks := rfl
@[simp] theorem State.stored_modMember (m : Nat) (f : Member → Member) : (s.modMember m f).stored = s.stored := rfl
@[simp] theorem State.overwrites_modMember (m : Nat) (f : Member → Member) : (s.modMember m f).overwrites = s.overwrites := rfl
@[simp] theorem State.schedule_modMember (m : Nat) (f : Member → Member) : (s.modMember m f).schedule = s.schedule := rfl
@[simp] theorem State.slots_modMember (m : Nat) (f : Member → Member) : (s.modMember m f).slots = s.slots := rfl
@[simp] theorem State.parts_modMember (m : Nat) (f : Member → Member) : (s.modMember m f).parts = s.parts := rfl
@[simp] theorem State.ctxs_modMember (m : Nat) (f : Member → Member) : (s.modMember m f).ctxs = s.ctxs := rfl
@[simp] theorem State.evt_modMember (m : Nat) (f : Member → Member) : (s.modMember m f).evt = s.evt := rfl
@[simp] theorem State.images_modMember (m : Nat) (f : Member → Member) : (s.modMember m f).images = s.images := rfl
@[simp] theorem State.journals_modMember (m : Nat) (f : Member → Member) : (s.modMember m f).journals = s.journals := rfl
@[simp] theorem State.orders_modMember (m : Nat) (f : Member → Member) : (s.modMember m f).orders = s.orders := rfl
@[simp] theorem State.replayJ_modMember (m : Nat) (f : Member → Member) : (s.modMember m f).replayJ = s.replayJ := rfl
@[simp] theorem State.replayO_modMember (m : Nat) (f : Member → Member) : (s.modMember m f).replayO = s.replayO := rfl
@[simp] theorem State.ahead_modMember (m : Nat) (f : Member → Member) : (s.modMember m f).ahead = s.ahead := rfl
@[simp] theorem State.outbox_modMember (m : Nat) (f : Member → Member) : (s.modMember m f).outbox = s.outbox := rfl
@[simp] theorem State.power_modMember (m : Nat) (f : Member → Member) : (s.modMember m f).power = s.power := rfl
@[simp] theorem State.ecc_modMember (m : Nat) (f : Member → Member) : (s.modMember m f).ecc = s.ecc := rfl
@[simp] theorem State.corrected_modMember (m : Nat) (f : Member → Member) : (s.modMember m f).corrected = s.corrected := rfl
@[simp] theorem State.hw_modMember (m : Nat) (f : Member → Member) : (s.modMember m f).hw = s.hw := rfl
@[simp] theorem State.tfaults_modMember (m : Nat) (f : Member → Member) : (s.modMember m f).tfaults = s.tfaults := rfl
@[simp] theorem State.incoming_modMember (m : Nat) (f : Member → Member) : (s.modMember m f).incoming = s.incoming := rfl
@[simp] theorem State.arriving_modMember (m : Nat) (f : Member → Member) : (s.modMember m f).arriving = s.arriving := rfl
@[simp] theorem State.l2hits_modMember (m : Nat) (f : Member → Member) : (s.modMember m f).l2hits = s.l2hits := rfl
@[simp] theorem State.ckpts_modMember (m : Nat) (f : Member → Member) : (s.modMember m f).ckpts = s.ckpts := rfl
@[simp] theorem State.run_modMember (m : Nat) (f : Member → Member) : (s.modMember m f).run = s.run := rfl
@[simp] theorem State.msix_modMember (m : Nat) (f : Member → Member) : (s.modMember m f).msix = s.msix := rfl
@[simp] theorem State.windows_modMember (m : Nat) (f : Member → Member) : (s.modMember m f).windows = s.windows := rfl
@[simp] theorem State.sealedPeer_modMember (m : Nat) (f : Member → Member) : (s.modMember m f).sealedPeer = s.sealedPeer := rfl
@[simp] theorem State.groupTab_modMember (m : Nat) (f : Member → Member) : (s.modMember m f).groupTab = s.groupTab := rfl
@[simp] theorem State.ports_modMember (m : Nat) (f : Member → Member) : (s.modMember m f).ports = s.ports := rfl
@[simp] theorem State.sampleN_modMember (m : Nat) (f : Member → Member) : (s.modMember m f).sampleN = s.sampleN := rfl
@[simp] theorem State.team_of_modMember (m : Nat) (f : Member → Member) (k : Nat) : (s.modMember m f).team k = s.team k := rfl
@[simp] theorem State.gang_of_modMember (m : Nat) (f : Member → Member) (k : Nat) : (s.modMember m f).gang k = s.gang k := rfl
@[simp] theorem State.core_of_modMember (m : Nat) (f : Member → Member) (k : Nat) : (s.modMember m f).core k = s.core k := rfl
@[simp] theorem State.slice_of_modMember (m : Nat) (f : Member → Member) (k : Nat) : (s.modMember m f).slice k = s.slice k := rfl
@[simp] theorem State.memByte_modMember (m : Nat) (f : Member → Member) (a : Nat) : (s.modMember m f).memByte a = s.memByte a := rfl

@[simp] theorem State.cur_modCore (c : Nat) (f : CoreHw → CoreHw) : (s.modCore c f).cur = s.cur := rfl
@[simp] theorem State.curGang_modCore (c : Nat) (f : CoreHw → CoreHw) : (s.modCore c f).curGang = s.curGang := rfl
@[simp] theorem State.arg_modCore (c : Nat) (f : CoreHw → CoreHw) : (s.modCore c f).arg = s.arg := rfl
@[simp] theorem State.word_modCore (c : Nat) (f : CoreHw → CoreHw) : (s.modCore c f).word = s.word := rfl
@[simp] theorem State.wordh_modCore (c : Nat) (f : CoreHw → CoreHw) : (s.modCore c f).wordh = s.wordh := rfl
@[simp] theorem State.agenda_modCore (c : Nat) (f : CoreHw → CoreHw) : (s.modCore c f).agenda = s.agenda := rfl
@[simp] theorem State.cyc0_modCore (c : Nat) (f : CoreHw → CoreHw) : (s.modCore c f).cyc0 = s.cyc0 := rfl
@[simp] theorem State.cyc1_modCore (c : Nat) (f : CoreHw → CoreHw) : (s.modCore c f).cyc1 = s.cyc1 := rfl
@[simp] theorem State.ns_modCore (c : Nat) (f : CoreHw → CoreHw) : (s.modCore c f).ns = s.ns := rfl
@[simp] theorem State.free_modCore (c : Nat) (f : CoreHw → CoreHw) : (s.modCore c f).free = s.free := rfl
@[simp] theorem State.nextOp_modCore (c : Nat) (f : CoreHw → CoreHw) : (s.modCore c f).nextOp = s.nextOp := rfl
@[simp] theorem State.teams_modCore (c : Nat) (f : CoreHw → CoreHw) : (s.modCore c f).teams = s.teams := rfl
@[simp] theorem State.gangs_modCore (c : Nat) (f : CoreHw → CoreHw) : (s.modCore c f).gangs = s.gangs := rfl
@[simp] theorem State.members_modCore (c : Nat) (f : CoreHw → CoreHw) : (s.modCore c f).members = s.members := rfl
@[simp] theorem State.slices_modCore (c : Nat) (f : CoreHw → CoreHw) : (s.modCore c f).slices = s.slices := rfl
@[simp] theorem State.ops_modCore (c : Nat) (f : CoreHw → CoreHw) : (s.modCore c f).ops = s.ops := rfl
@[simp] theorem State.mem_modCore (c : Nat) (f : CoreHw → CoreHw) : (s.modCore c f).mem = s.mem := rfl
@[simp] theorem State.marks_modCore (c : Nat) (f : CoreHw → CoreHw) : (s.modCore c f).marks = s.marks := rfl
@[simp] theorem State.stored_modCore (c : Nat) (f : CoreHw → CoreHw) : (s.modCore c f).stored = s.stored := rfl
@[simp] theorem State.overwrites_modCore (c : Nat) (f : CoreHw → CoreHw) : (s.modCore c f).overwrites = s.overwrites := rfl
@[simp] theorem State.schedule_modCore (c : Nat) (f : CoreHw → CoreHw) : (s.modCore c f).schedule = s.schedule := rfl
@[simp] theorem State.slots_modCore (c : Nat) (f : CoreHw → CoreHw) : (s.modCore c f).slots = s.slots := rfl
@[simp] theorem State.parts_modCore (c : Nat) (f : CoreHw → CoreHw) : (s.modCore c f).parts = s.parts := rfl
@[simp] theorem State.ctxs_modCore (c : Nat) (f : CoreHw → CoreHw) : (s.modCore c f).ctxs = s.ctxs := rfl
@[simp] theorem State.evt_modCore (c : Nat) (f : CoreHw → CoreHw) : (s.modCore c f).evt = s.evt := rfl
@[simp] theorem State.images_modCore (c : Nat) (f : CoreHw → CoreHw) : (s.modCore c f).images = s.images := rfl
@[simp] theorem State.journals_modCore (c : Nat) (f : CoreHw → CoreHw) : (s.modCore c f).journals = s.journals := rfl
@[simp] theorem State.orders_modCore (c : Nat) (f : CoreHw → CoreHw) : (s.modCore c f).orders = s.orders := rfl
@[simp] theorem State.replayJ_modCore (c : Nat) (f : CoreHw → CoreHw) : (s.modCore c f).replayJ = s.replayJ := rfl
@[simp] theorem State.replayO_modCore (c : Nat) (f : CoreHw → CoreHw) : (s.modCore c f).replayO = s.replayO := rfl
@[simp] theorem State.ahead_modCore (c : Nat) (f : CoreHw → CoreHw) : (s.modCore c f).ahead = s.ahead := rfl
@[simp] theorem State.outbox_modCore (c : Nat) (f : CoreHw → CoreHw) : (s.modCore c f).outbox = s.outbox := rfl
@[simp] theorem State.power_modCore (c : Nat) (f : CoreHw → CoreHw) : (s.modCore c f).power = s.power := rfl
@[simp] theorem State.ecc_modCore (c : Nat) (f : CoreHw → CoreHw) : (s.modCore c f).ecc = s.ecc := rfl
@[simp] theorem State.corrected_modCore (c : Nat) (f : CoreHw → CoreHw) : (s.modCore c f).corrected = s.corrected := rfl
@[simp] theorem State.hw_modCore (c : Nat) (f : CoreHw → CoreHw) : (s.modCore c f).hw = s.hw := rfl
@[simp] theorem State.tfaults_modCore (c : Nat) (f : CoreHw → CoreHw) : (s.modCore c f).tfaults = s.tfaults := rfl
@[simp] theorem State.incoming_modCore (c : Nat) (f : CoreHw → CoreHw) : (s.modCore c f).incoming = s.incoming := rfl
@[simp] theorem State.arriving_modCore (c : Nat) (f : CoreHw → CoreHw) : (s.modCore c f).arriving = s.arriving := rfl
@[simp] theorem State.l2hits_modCore (c : Nat) (f : CoreHw → CoreHw) : (s.modCore c f).l2hits = s.l2hits := rfl
@[simp] theorem State.ckpts_modCore (c : Nat) (f : CoreHw → CoreHw) : (s.modCore c f).ckpts = s.ckpts := rfl
@[simp] theorem State.run_modCore (c : Nat) (f : CoreHw → CoreHw) : (s.modCore c f).run = s.run := rfl
@[simp] theorem State.msix_modCore (c : Nat) (f : CoreHw → CoreHw) : (s.modCore c f).msix = s.msix := rfl
@[simp] theorem State.windows_modCore (c : Nat) (f : CoreHw → CoreHw) : (s.modCore c f).windows = s.windows := rfl
@[simp] theorem State.sealedPeer_modCore (c : Nat) (f : CoreHw → CoreHw) : (s.modCore c f).sealedPeer = s.sealedPeer := rfl
@[simp] theorem State.groupTab_modCore (c : Nat) (f : CoreHw → CoreHw) : (s.modCore c f).groupTab = s.groupTab := rfl
@[simp] theorem State.ports_modCore (c : Nat) (f : CoreHw → CoreHw) : (s.modCore c f).ports = s.ports := rfl
@[simp] theorem State.sampleN_modCore (c : Nat) (f : CoreHw → CoreHw) : (s.modCore c f).sampleN = s.sampleN := rfl
@[simp] theorem State.team_of_modCore (c : Nat) (f : CoreHw → CoreHw) (k : Nat) : (s.modCore c f).team k = s.team k := rfl
@[simp] theorem State.gang_of_modCore (c : Nat) (f : CoreHw → CoreHw) (k : Nat) : (s.modCore c f).gang k = s.gang k := rfl
@[simp] theorem State.member_of_modCore (c : Nat) (f : CoreHw → CoreHw) (k : Nat) : (s.modCore c f).member k = s.member k := rfl
@[simp] theorem State.slice_of_modCore (c : Nat) (f : CoreHw → CoreHw) (k : Nat) : (s.modCore c f).slice k = s.slice k := rfl
@[simp] theorem State.memByte_modCore (c : Nat) (f : CoreHw → CoreHw) (a : Nat) : (s.modCore c f).memByte a = s.memByte a := rfl

@[simp] theorem State.cur_modSlice (n : Nat) (f : Slice → Slice) : (s.modSlice n f).cur = s.cur := rfl
@[simp] theorem State.curGang_modSlice (n : Nat) (f : Slice → Slice) : (s.modSlice n f).curGang = s.curGang := rfl
@[simp] theorem State.arg_modSlice (n : Nat) (f : Slice → Slice) : (s.modSlice n f).arg = s.arg := rfl
@[simp] theorem State.word_modSlice (n : Nat) (f : Slice → Slice) : (s.modSlice n f).word = s.word := rfl
@[simp] theorem State.wordh_modSlice (n : Nat) (f : Slice → Slice) : (s.modSlice n f).wordh = s.wordh := rfl
@[simp] theorem State.agenda_modSlice (n : Nat) (f : Slice → Slice) : (s.modSlice n f).agenda = s.agenda := rfl
@[simp] theorem State.cyc0_modSlice (n : Nat) (f : Slice → Slice) : (s.modSlice n f).cyc0 = s.cyc0 := rfl
@[simp] theorem State.cyc1_modSlice (n : Nat) (f : Slice → Slice) : (s.modSlice n f).cyc1 = s.cyc1 := rfl
@[simp] theorem State.ns_modSlice (n : Nat) (f : Slice → Slice) : (s.modSlice n f).ns = s.ns := rfl
@[simp] theorem State.free_modSlice (n : Nat) (f : Slice → Slice) : (s.modSlice n f).free = s.free := rfl
@[simp] theorem State.nextOp_modSlice (n : Nat) (f : Slice → Slice) : (s.modSlice n f).nextOp = s.nextOp := rfl
@[simp] theorem State.teams_modSlice (n : Nat) (f : Slice → Slice) : (s.modSlice n f).teams = s.teams := rfl
@[simp] theorem State.gangs_modSlice (n : Nat) (f : Slice → Slice) : (s.modSlice n f).gangs = s.gangs := rfl
@[simp] theorem State.members_modSlice (n : Nat) (f : Slice → Slice) : (s.modSlice n f).members = s.members := rfl
@[simp] theorem State.cores_modSlice (n : Nat) (f : Slice → Slice) : (s.modSlice n f).cores = s.cores := rfl
@[simp] theorem State.ops_modSlice (n : Nat) (f : Slice → Slice) : (s.modSlice n f).ops = s.ops := rfl
@[simp] theorem State.mem_modSlice (n : Nat) (f : Slice → Slice) : (s.modSlice n f).mem = s.mem := rfl
@[simp] theorem State.marks_modSlice (n : Nat) (f : Slice → Slice) : (s.modSlice n f).marks = s.marks := rfl
@[simp] theorem State.stored_modSlice (n : Nat) (f : Slice → Slice) : (s.modSlice n f).stored = s.stored := rfl
@[simp] theorem State.overwrites_modSlice (n : Nat) (f : Slice → Slice) : (s.modSlice n f).overwrites = s.overwrites := rfl
@[simp] theorem State.schedule_modSlice (n : Nat) (f : Slice → Slice) : (s.modSlice n f).schedule = s.schedule := rfl
@[simp] theorem State.slots_modSlice (n : Nat) (f : Slice → Slice) : (s.modSlice n f).slots = s.slots := rfl
@[simp] theorem State.parts_modSlice (n : Nat) (f : Slice → Slice) : (s.modSlice n f).parts = s.parts := rfl
@[simp] theorem State.ctxs_modSlice (n : Nat) (f : Slice → Slice) : (s.modSlice n f).ctxs = s.ctxs := rfl
@[simp] theorem State.evt_modSlice (n : Nat) (f : Slice → Slice) : (s.modSlice n f).evt = s.evt := rfl
@[simp] theorem State.images_modSlice (n : Nat) (f : Slice → Slice) : (s.modSlice n f).images = s.images := rfl
@[simp] theorem State.journals_modSlice (n : Nat) (f : Slice → Slice) : (s.modSlice n f).journals = s.journals := rfl
@[simp] theorem State.orders_modSlice (n : Nat) (f : Slice → Slice) : (s.modSlice n f).orders = s.orders := rfl
@[simp] theorem State.replayJ_modSlice (n : Nat) (f : Slice → Slice) : (s.modSlice n f).replayJ = s.replayJ := rfl
@[simp] theorem State.replayO_modSlice (n : Nat) (f : Slice → Slice) : (s.modSlice n f).replayO = s.replayO := rfl
@[simp] theorem State.ahead_modSlice (n : Nat) (f : Slice → Slice) : (s.modSlice n f).ahead = s.ahead := rfl
@[simp] theorem State.outbox_modSlice (n : Nat) (f : Slice → Slice) : (s.modSlice n f).outbox = s.outbox := rfl
@[simp] theorem State.power_modSlice (n : Nat) (f : Slice → Slice) : (s.modSlice n f).power = s.power := rfl
@[simp] theorem State.ecc_modSlice (n : Nat) (f : Slice → Slice) : (s.modSlice n f).ecc = s.ecc := rfl
@[simp] theorem State.corrected_modSlice (n : Nat) (f : Slice → Slice) : (s.modSlice n f).corrected = s.corrected := rfl
@[simp] theorem State.hw_modSlice (n : Nat) (f : Slice → Slice) : (s.modSlice n f).hw = s.hw := rfl
@[simp] theorem State.tfaults_modSlice (n : Nat) (f : Slice → Slice) : (s.modSlice n f).tfaults = s.tfaults := rfl
@[simp] theorem State.incoming_modSlice (n : Nat) (f : Slice → Slice) : (s.modSlice n f).incoming = s.incoming := rfl
@[simp] theorem State.arriving_modSlice (n : Nat) (f : Slice → Slice) : (s.modSlice n f).arriving = s.arriving := rfl
@[simp] theorem State.l2hits_modSlice (n : Nat) (f : Slice → Slice) : (s.modSlice n f).l2hits = s.l2hits := rfl
@[simp] theorem State.ckpts_modSlice (n : Nat) (f : Slice → Slice) : (s.modSlice n f).ckpts = s.ckpts := rfl
@[simp] theorem State.run_modSlice (n : Nat) (f : Slice → Slice) : (s.modSlice n f).run = s.run := rfl
@[simp] theorem State.msix_modSlice (n : Nat) (f : Slice → Slice) : (s.modSlice n f).msix = s.msix := rfl
@[simp] theorem State.windows_modSlice (n : Nat) (f : Slice → Slice) : (s.modSlice n f).windows = s.windows := rfl
@[simp] theorem State.sealedPeer_modSlice (n : Nat) (f : Slice → Slice) : (s.modSlice n f).sealedPeer = s.sealedPeer := rfl
@[simp] theorem State.groupTab_modSlice (n : Nat) (f : Slice → Slice) : (s.modSlice n f).groupTab = s.groupTab := rfl
@[simp] theorem State.ports_modSlice (n : Nat) (f : Slice → Slice) : (s.modSlice n f).ports = s.ports := rfl
@[simp] theorem State.sampleN_modSlice (n : Nat) (f : Slice → Slice) : (s.modSlice n f).sampleN = s.sampleN := rfl
@[simp] theorem State.team_of_modSlice (n : Nat) (f : Slice → Slice) (k : Nat) : (s.modSlice n f).team k = s.team k := rfl
@[simp] theorem State.gang_of_modSlice (n : Nat) (f : Slice → Slice) (k : Nat) : (s.modSlice n f).gang k = s.gang k := rfl
@[simp] theorem State.member_of_modSlice (n : Nat) (f : Slice → Slice) (k : Nat) : (s.modSlice n f).member k = s.member k := rfl
@[simp] theorem State.core_of_modSlice (n : Nat) (f : Slice → Slice) (k : Nat) : (s.modSlice n f).core k = s.core k := rfl
@[simp] theorem State.memByte_modSlice (n : Nat) (f : Slice → Slice) (a : Nat) : (s.modSlice n f).memByte a = s.memByte a := rfl

@[simp] theorem State.cur_push (l : List Turn) : (s.push l).cur = s.cur := rfl
@[simp] theorem State.curGang_push (l : List Turn) : (s.push l).curGang = s.curGang := rfl
@[simp] theorem State.arg_push (l : List Turn) : (s.push l).arg = s.arg := rfl
@[simp] theorem State.word_push (l : List Turn) : (s.push l).word = s.word := rfl
@[simp] theorem State.wordh_push (l : List Turn) : (s.push l).wordh = s.wordh := rfl
@[simp] theorem State.cyc0_push (l : List Turn) : (s.push l).cyc0 = s.cyc0 := rfl
@[simp] theorem State.cyc1_push (l : List Turn) : (s.push l).cyc1 = s.cyc1 := rfl
@[simp] theorem State.ns_push (l : List Turn) : (s.push l).ns = s.ns := rfl
@[simp] theorem State.free_push (l : List Turn) : (s.push l).free = s.free := rfl
@[simp] theorem State.nextOp_push (l : List Turn) : (s.push l).nextOp = s.nextOp := rfl
@[simp] theorem State.teams_push (l : List Turn) : (s.push l).teams = s.teams := rfl
@[simp] theorem State.gangs_push (l : List Turn) : (s.push l).gangs = s.gangs := rfl
@[simp] theorem State.members_push (l : List Turn) : (s.push l).members = s.members := rfl
@[simp] theorem State.cores_push (l : List Turn) : (s.push l).cores = s.cores := rfl
@[simp] theorem State.slices_push (l : List Turn) : (s.push l).slices = s.slices := rfl
@[simp] theorem State.ops_push (l : List Turn) : (s.push l).ops = s.ops := rfl
@[simp] theorem State.mem_push (l : List Turn) : (s.push l).mem = s.mem := rfl
@[simp] theorem State.marks_push (l : List Turn) : (s.push l).marks = s.marks := rfl
@[simp] theorem State.stored_push (l : List Turn) : (s.push l).stored = s.stored := rfl
@[simp] theorem State.overwrites_push (l : List Turn) : (s.push l).overwrites = s.overwrites := rfl
@[simp] theorem State.schedule_push (l : List Turn) : (s.push l).schedule = s.schedule := rfl
@[simp] theorem State.slots_push (l : List Turn) : (s.push l).slots = s.slots := rfl
@[simp] theorem State.parts_push (l : List Turn) : (s.push l).parts = s.parts := rfl
@[simp] theorem State.ctxs_push (l : List Turn) : (s.push l).ctxs = s.ctxs := rfl
@[simp] theorem State.evt_push (l : List Turn) : (s.push l).evt = s.evt := rfl
@[simp] theorem State.images_push (l : List Turn) : (s.push l).images = s.images := rfl
@[simp] theorem State.journals_push (l : List Turn) : (s.push l).journals = s.journals := rfl
@[simp] theorem State.orders_push (l : List Turn) : (s.push l).orders = s.orders := rfl
@[simp] theorem State.replayJ_push (l : List Turn) : (s.push l).replayJ = s.replayJ := rfl
@[simp] theorem State.replayO_push (l : List Turn) : (s.push l).replayO = s.replayO := rfl
@[simp] theorem State.ahead_push (l : List Turn) : (s.push l).ahead = s.ahead := rfl
@[simp] theorem State.outbox_push (l : List Turn) : (s.push l).outbox = s.outbox := rfl
@[simp] theorem State.power_push (l : List Turn) : (s.push l).power = s.power := rfl
@[simp] theorem State.ecc_push (l : List Turn) : (s.push l).ecc = s.ecc := rfl
@[simp] theorem State.corrected_push (l : List Turn) : (s.push l).corrected = s.corrected := rfl
@[simp] theorem State.hw_push (l : List Turn) : (s.push l).hw = s.hw := rfl
@[simp] theorem State.tfaults_push (l : List Turn) : (s.push l).tfaults = s.tfaults := rfl
@[simp] theorem State.incoming_push (l : List Turn) : (s.push l).incoming = s.incoming := rfl
@[simp] theorem State.arriving_push (l : List Turn) : (s.push l).arriving = s.arriving := rfl
@[simp] theorem State.l2hits_push (l : List Turn) : (s.push l).l2hits = s.l2hits := rfl
@[simp] theorem State.ckpts_push (l : List Turn) : (s.push l).ckpts = s.ckpts := rfl
@[simp] theorem State.run_push (l : List Turn) : (s.push l).run = s.run := rfl
@[simp] theorem State.msix_push (l : List Turn) : (s.push l).msix = s.msix := rfl
@[simp] theorem State.windows_push (l : List Turn) : (s.push l).windows = s.windows := rfl
@[simp] theorem State.sealedPeer_push (l : List Turn) : (s.push l).sealedPeer = s.sealedPeer := rfl
@[simp] theorem State.groupTab_push (l : List Turn) : (s.push l).groupTab = s.groupTab := rfl
@[simp] theorem State.ports_push (l : List Turn) : (s.push l).ports = s.ports := rfl
@[simp] theorem State.sampleN_push (l : List Turn) : (s.push l).sampleN = s.sampleN := rfl
@[simp] theorem State.team_of_push (l : List Turn) (k : Nat) : (s.push l).team k = s.team k := rfl
@[simp] theorem State.gang_of_push (l : List Turn) (k : Nat) : (s.push l).gang k = s.gang k := rfl
@[simp] theorem State.member_of_push (l : List Turn) (k : Nat) : (s.push l).member k = s.member k := rfl
@[simp] theorem State.core_of_push (l : List Turn) (k : Nat) : (s.push l).core k = s.core k := rfl
@[simp] theorem State.slice_of_push (l : List Turn) (k : Nat) : (s.push l).slice k = s.slice k := rfl
@[simp] theorem State.memByte_push (l : List Turn) (a : Nat) : (s.push l).memByte a = s.memByte a := rfl

@[simp] theorem State.cur_post (i : Instr) (x : Nat) : (s.post i x).cur = s.cur := rfl
@[simp] theorem State.curGang_post (i : Instr) (x : Nat) : (s.post i x).curGang = s.curGang := rfl
@[simp] theorem State.arg_post (i : Instr) (x : Nat) : (s.post i x).arg = s.arg := rfl
@[simp] theorem State.word_post (i : Instr) (x : Nat) : (s.post i x).word = s.word := rfl
@[simp] theorem State.wordh_post (i : Instr) (x : Nat) : (s.post i x).wordh = s.wordh := rfl
@[simp] theorem State.cyc0_post (i : Instr) (x : Nat) : (s.post i x).cyc0 = s.cyc0 := rfl
@[simp] theorem State.cyc1_post (i : Instr) (x : Nat) : (s.post i x).cyc1 = s.cyc1 := rfl
@[simp] theorem State.ns_post (i : Instr) (x : Nat) : (s.post i x).ns = s.ns := rfl
@[simp] theorem State.free_post (i : Instr) (x : Nat) : (s.post i x).free = s.free := rfl
@[simp] theorem State.nextOp_post (i : Instr) (x : Nat) : (s.post i x).nextOp = s.nextOp := rfl
@[simp] theorem State.teams_post (i : Instr) (x : Nat) : (s.post i x).teams = s.teams := rfl
@[simp] theorem State.gangs_post (i : Instr) (x : Nat) : (s.post i x).gangs = s.gangs := rfl
@[simp] theorem State.members_post (i : Instr) (x : Nat) : (s.post i x).members = s.members := rfl
@[simp] theorem State.cores_post (i : Instr) (x : Nat) : (s.post i x).cores = s.cores := rfl
@[simp] theorem State.slices_post (i : Instr) (x : Nat) : (s.post i x).slices = s.slices := rfl
@[simp] theorem State.ops_post (i : Instr) (x : Nat) : (s.post i x).ops = s.ops := rfl
@[simp] theorem State.mem_post (i : Instr) (x : Nat) : (s.post i x).mem = s.mem := rfl
@[simp] theorem State.marks_post (i : Instr) (x : Nat) : (s.post i x).marks = s.marks := rfl
@[simp] theorem State.stored_post (i : Instr) (x : Nat) : (s.post i x).stored = s.stored := rfl
@[simp] theorem State.overwrites_post (i : Instr) (x : Nat) : (s.post i x).overwrites = s.overwrites := rfl
@[simp] theorem State.schedule_post (i : Instr) (x : Nat) : (s.post i x).schedule = s.schedule := rfl
@[simp] theorem State.slots_post (i : Instr) (x : Nat) : (s.post i x).slots = s.slots := rfl
@[simp] theorem State.parts_post (i : Instr) (x : Nat) : (s.post i x).parts = s.parts := rfl
@[simp] theorem State.ctxs_post (i : Instr) (x : Nat) : (s.post i x).ctxs = s.ctxs := rfl
@[simp] theorem State.evt_post (i : Instr) (x : Nat) : (s.post i x).evt = s.evt := rfl
@[simp] theorem State.images_post (i : Instr) (x : Nat) : (s.post i x).images = s.images := rfl
@[simp] theorem State.journals_post (i : Instr) (x : Nat) : (s.post i x).journals = s.journals := rfl
@[simp] theorem State.orders_post (i : Instr) (x : Nat) : (s.post i x).orders = s.orders := rfl
@[simp] theorem State.replayJ_post (i : Instr) (x : Nat) : (s.post i x).replayJ = s.replayJ := rfl
@[simp] theorem State.replayO_post (i : Instr) (x : Nat) : (s.post i x).replayO = s.replayO := rfl
@[simp] theorem State.ahead_post (i : Instr) (x : Nat) : (s.post i x).ahead = s.ahead := rfl
@[simp] theorem State.outbox_post (i : Instr) (x : Nat) : (s.post i x).outbox = s.outbox := rfl
@[simp] theorem State.power_post (i : Instr) (x : Nat) : (s.post i x).power = s.power := rfl
@[simp] theorem State.ecc_post (i : Instr) (x : Nat) : (s.post i x).ecc = s.ecc := rfl
@[simp] theorem State.corrected_post (i : Instr) (x : Nat) : (s.post i x).corrected = s.corrected := rfl
@[simp] theorem State.hw_post (i : Instr) (x : Nat) : (s.post i x).hw = s.hw := rfl
@[simp] theorem State.tfaults_post (i : Instr) (x : Nat) : (s.post i x).tfaults = s.tfaults := rfl
@[simp] theorem State.incoming_post (i : Instr) (x : Nat) : (s.post i x).incoming = s.incoming := rfl
@[simp] theorem State.arriving_post (i : Instr) (x : Nat) : (s.post i x).arriving = s.arriving := rfl
@[simp] theorem State.l2hits_post (i : Instr) (x : Nat) : (s.post i x).l2hits = s.l2hits := rfl
@[simp] theorem State.ckpts_post (i : Instr) (x : Nat) : (s.post i x).ckpts = s.ckpts := rfl
@[simp] theorem State.run_post (i : Instr) (x : Nat) : (s.post i x).run = s.run := rfl
@[simp] theorem State.msix_post (i : Instr) (x : Nat) : (s.post i x).msix = s.msix := rfl
@[simp] theorem State.windows_post (i : Instr) (x : Nat) : (s.post i x).windows = s.windows := rfl
@[simp] theorem State.sealedPeer_post (i : Instr) (x : Nat) : (s.post i x).sealedPeer = s.sealedPeer := rfl
@[simp] theorem State.groupTab_post (i : Instr) (x : Nat) : (s.post i x).groupTab = s.groupTab := rfl
@[simp] theorem State.ports_post (i : Instr) (x : Nat) : (s.post i x).ports = s.ports := rfl
@[simp] theorem State.sampleN_post (i : Instr) (x : Nat) : (s.post i x).sampleN = s.sampleN := rfl
@[simp] theorem State.team_of_post (i : Instr) (x : Nat) (k : Nat) : (s.post i x).team k = s.team k := rfl
@[simp] theorem State.gang_of_post (i : Instr) (x : Nat) (k : Nat) : (s.post i x).gang k = s.gang k := rfl
@[simp] theorem State.member_of_post (i : Instr) (x : Nat) (k : Nat) : (s.post i x).member k = s.member k := rfl
@[simp] theorem State.core_of_post (i : Instr) (x : Nat) (k : Nat) : (s.post i x).core k = s.core k := rfl
@[simp] theorem State.slice_of_post (i : Instr) (x : Nat) (k : Nat) : (s.post i x).slice k = s.slice k := rfl
@[simp] theorem State.memByte_post (i : Instr) (x : Nat) (a : Nat) : (s.post i x).memByte a = s.memByte a := rfl

@[simp] theorem State.cur_fresh : (s.fresh).cur = s.cur := rfl
@[simp] theorem State.curGang_fresh : (s.fresh).curGang = s.curGang := rfl
@[simp] theorem State.arg_fresh : (s.fresh).arg = s.arg := rfl
@[simp] theorem State.word_fresh : (s.fresh).word = s.word := rfl
@[simp] theorem State.wordh_fresh : (s.fresh).wordh = s.wordh := rfl
@[simp] theorem State.agenda_fresh : (s.fresh).agenda = s.agenda := rfl
@[simp] theorem State.cyc0_fresh : (s.fresh).cyc0 = s.cyc0 := rfl
@[simp] theorem State.cyc1_fresh : (s.fresh).cyc1 = s.cyc1 := rfl
@[simp] theorem State.ns_fresh : (s.fresh).ns = s.ns := rfl
@[simp] theorem State.nextOp_fresh : (s.fresh).nextOp = s.nextOp := rfl
@[simp] theorem State.teams_fresh : (s.fresh).teams = s.teams := rfl
@[simp] theorem State.gangs_fresh : (s.fresh).gangs = s.gangs := rfl
@[simp] theorem State.members_fresh : (s.fresh).members = s.members := rfl
@[simp] theorem State.cores_fresh : (s.fresh).cores = s.cores := rfl
@[simp] theorem State.slices_fresh : (s.fresh).slices = s.slices := rfl
@[simp] theorem State.ops_fresh : (s.fresh).ops = s.ops := rfl
@[simp] theorem State.mem_fresh : (s.fresh).mem = s.mem := rfl
@[simp] theorem State.marks_fresh : (s.fresh).marks = s.marks := rfl
@[simp] theorem State.stored_fresh : (s.fresh).stored = s.stored := rfl
@[simp] theorem State.overwrites_fresh : (s.fresh).overwrites = s.overwrites := rfl
@[simp] theorem State.schedule_fresh : (s.fresh).schedule = s.schedule := rfl
@[simp] theorem State.slots_fresh : (s.fresh).slots = s.slots := rfl
@[simp] theorem State.parts_fresh : (s.fresh).parts = s.parts := rfl
@[simp] theorem State.ctxs_fresh : (s.fresh).ctxs = s.ctxs := rfl
@[simp] theorem State.evt_fresh : (s.fresh).evt = s.evt := rfl
@[simp] theorem State.images_fresh : (s.fresh).images = s.images := rfl
@[simp] theorem State.journals_fresh : (s.fresh).journals = s.journals := rfl
@[simp] theorem State.orders_fresh : (s.fresh).orders = s.orders := rfl
@[simp] theorem State.replayJ_fresh : (s.fresh).replayJ = s.replayJ := rfl
@[simp] theorem State.replayO_fresh : (s.fresh).replayO = s.replayO := rfl
@[simp] theorem State.ahead_fresh : (s.fresh).ahead = s.ahead := rfl
@[simp] theorem State.outbox_fresh : (s.fresh).outbox = s.outbox := rfl
@[simp] theorem State.power_fresh : (s.fresh).power = s.power := rfl
@[simp] theorem State.ecc_fresh : (s.fresh).ecc = s.ecc := rfl
@[simp] theorem State.corrected_fresh : (s.fresh).corrected = s.corrected := rfl
@[simp] theorem State.hw_fresh : (s.fresh).hw = s.hw := rfl
@[simp] theorem State.tfaults_fresh : (s.fresh).tfaults = s.tfaults := rfl
@[simp] theorem State.incoming_fresh : (s.fresh).incoming = s.incoming := rfl
@[simp] theorem State.arriving_fresh : (s.fresh).arriving = s.arriving := rfl
@[simp] theorem State.l2hits_fresh : (s.fresh).l2hits = s.l2hits := rfl
@[simp] theorem State.ckpts_fresh : (s.fresh).ckpts = s.ckpts := rfl
@[simp] theorem State.run_fresh : (s.fresh).run = s.run := rfl
@[simp] theorem State.msix_fresh : (s.fresh).msix = s.msix := rfl
@[simp] theorem State.windows_fresh : (s.fresh).windows = s.windows := rfl
@[simp] theorem State.sealedPeer_fresh : (s.fresh).sealedPeer = s.sealedPeer := rfl
@[simp] theorem State.groupTab_fresh : (s.fresh).groupTab = s.groupTab := rfl
@[simp] theorem State.ports_fresh : (s.fresh).ports = s.ports := rfl
@[simp] theorem State.sampleN_fresh : (s.fresh).sampleN = s.sampleN := rfl
@[simp] theorem State.team_of_fresh (k : Nat) : (s.fresh).team k = s.team k := rfl
@[simp] theorem State.gang_of_fresh (k : Nat) : (s.fresh).gang k = s.gang k := rfl
@[simp] theorem State.member_of_fresh (k : Nat) : (s.fresh).member k = s.member k := rfl
@[simp] theorem State.core_of_fresh (k : Nat) : (s.fresh).core k = s.core k := rfl
@[simp] theorem State.slice_of_fresh (k : Nat) : (s.fresh).slice k = s.slice k := rfl
@[simp] theorem State.memByte_fresh (a : Nat) : (s.fresh).memByte a = s.memByte a := rfl

@[simp] theorem State.cur_setByte (pa : Nat) (b : Byte) : (s.setByte pa b).cur = s.cur := rfl
@[simp] theorem State.curGang_setByte (pa : Nat) (b : Byte) : (s.setByte pa b).curGang = s.curGang := rfl
@[simp] theorem State.arg_setByte (pa : Nat) (b : Byte) : (s.setByte pa b).arg = s.arg := rfl
@[simp] theorem State.word_setByte (pa : Nat) (b : Byte) : (s.setByte pa b).word = s.word := rfl
@[simp] theorem State.wordh_setByte (pa : Nat) (b : Byte) : (s.setByte pa b).wordh = s.wordh := rfl
@[simp] theorem State.agenda_setByte (pa : Nat) (b : Byte) : (s.setByte pa b).agenda = s.agenda := rfl
@[simp] theorem State.cyc0_setByte (pa : Nat) (b : Byte) : (s.setByte pa b).cyc0 = s.cyc0 := rfl
@[simp] theorem State.cyc1_setByte (pa : Nat) (b : Byte) : (s.setByte pa b).cyc1 = s.cyc1 := rfl
@[simp] theorem State.ns_setByte (pa : Nat) (b : Byte) : (s.setByte pa b).ns = s.ns := rfl
@[simp] theorem State.free_setByte (pa : Nat) (b : Byte) : (s.setByte pa b).free = s.free := rfl
@[simp] theorem State.nextOp_setByte (pa : Nat) (b : Byte) : (s.setByte pa b).nextOp = s.nextOp := rfl
@[simp] theorem State.teams_setByte (pa : Nat) (b : Byte) : (s.setByte pa b).teams = s.teams := rfl
@[simp] theorem State.gangs_setByte (pa : Nat) (b : Byte) : (s.setByte pa b).gangs = s.gangs := rfl
@[simp] theorem State.members_setByte (pa : Nat) (b : Byte) : (s.setByte pa b).members = s.members := rfl
@[simp] theorem State.cores_setByte (pa : Nat) (b : Byte) : (s.setByte pa b).cores = s.cores := rfl
@[simp] theorem State.slices_setByte (pa : Nat) (b : Byte) : (s.setByte pa b).slices = s.slices := rfl
@[simp] theorem State.ops_setByte (pa : Nat) (b : Byte) : (s.setByte pa b).ops = s.ops := rfl
@[simp] theorem State.marks_setByte (pa : Nat) (b : Byte) : (s.setByte pa b).marks = s.marks := rfl
@[simp] theorem State.stored_setByte (pa : Nat) (b : Byte) : (s.setByte pa b).stored = s.stored := rfl
@[simp] theorem State.overwrites_setByte (pa : Nat) (b : Byte) : (s.setByte pa b).overwrites = s.overwrites := rfl
@[simp] theorem State.schedule_setByte (pa : Nat) (b : Byte) : (s.setByte pa b).schedule = s.schedule := rfl
@[simp] theorem State.slots_setByte (pa : Nat) (b : Byte) : (s.setByte pa b).slots = s.slots := rfl
@[simp] theorem State.parts_setByte (pa : Nat) (b : Byte) : (s.setByte pa b).parts = s.parts := rfl
@[simp] theorem State.ctxs_setByte (pa : Nat) (b : Byte) : (s.setByte pa b).ctxs = s.ctxs := rfl
@[simp] theorem State.evt_setByte (pa : Nat) (b : Byte) : (s.setByte pa b).evt = s.evt := rfl
@[simp] theorem State.images_setByte (pa : Nat) (b : Byte) : (s.setByte pa b).images = s.images := rfl
@[simp] theorem State.journals_setByte (pa : Nat) (b : Byte) : (s.setByte pa b).journals = s.journals := rfl
@[simp] theorem State.orders_setByte (pa : Nat) (b : Byte) : (s.setByte pa b).orders = s.orders := rfl
@[simp] theorem State.replayJ_setByte (pa : Nat) (b : Byte) : (s.setByte pa b).replayJ = s.replayJ := rfl
@[simp] theorem State.replayO_setByte (pa : Nat) (b : Byte) : (s.setByte pa b).replayO = s.replayO := rfl
@[simp] theorem State.ahead_setByte (pa : Nat) (b : Byte) : (s.setByte pa b).ahead = s.ahead := rfl
@[simp] theorem State.outbox_setByte (pa : Nat) (b : Byte) : (s.setByte pa b).outbox = s.outbox := rfl
@[simp] theorem State.power_setByte (pa : Nat) (b : Byte) : (s.setByte pa b).power = s.power := rfl
@[simp] theorem State.ecc_setByte (pa : Nat) (b : Byte) : (s.setByte pa b).ecc = s.ecc := rfl
@[simp] theorem State.corrected_setByte (pa : Nat) (b : Byte) : (s.setByte pa b).corrected = s.corrected := rfl
@[simp] theorem State.hw_setByte (pa : Nat) (b : Byte) : (s.setByte pa b).hw = s.hw := rfl
@[simp] theorem State.tfaults_setByte (pa : Nat) (b : Byte) : (s.setByte pa b).tfaults = s.tfaults := rfl
@[simp] theorem State.incoming_setByte (pa : Nat) (b : Byte) : (s.setByte pa b).incoming = s.incoming := rfl
@[simp] theorem State.arriving_setByte (pa : Nat) (b : Byte) : (s.setByte pa b).arriving = s.arriving := rfl
@[simp] theorem State.l2hits_setByte (pa : Nat) (b : Byte) : (s.setByte pa b).l2hits = s.l2hits := rfl
@[simp] theorem State.ckpts_setByte (pa : Nat) (b : Byte) : (s.setByte pa b).ckpts = s.ckpts := rfl
@[simp] theorem State.run_setByte (pa : Nat) (b : Byte) : (s.setByte pa b).run = s.run := rfl
@[simp] theorem State.msix_setByte (pa : Nat) (b : Byte) : (s.setByte pa b).msix = s.msix := rfl
@[simp] theorem State.windows_setByte (pa : Nat) (b : Byte) : (s.setByte pa b).windows = s.windows := rfl
@[simp] theorem State.sealedPeer_setByte (pa : Nat) (b : Byte) : (s.setByte pa b).sealedPeer = s.sealedPeer := rfl
@[simp] theorem State.groupTab_setByte (pa : Nat) (b : Byte) : (s.setByte pa b).groupTab = s.groupTab := rfl
@[simp] theorem State.ports_setByte (pa : Nat) (b : Byte) : (s.setByte pa b).ports = s.ports := rfl
@[simp] theorem State.sampleN_setByte (pa : Nat) (b : Byte) : (s.setByte pa b).sampleN = s.sampleN := rfl
@[simp] theorem State.team_of_setByte (pa : Nat) (b : Byte) (k : Nat) : (s.setByte pa b).team k = s.team k := rfl
@[simp] theorem State.gang_of_setByte (pa : Nat) (b : Byte) (k : Nat) : (s.setByte pa b).gang k = s.gang k := rfl
@[simp] theorem State.member_of_setByte (pa : Nat) (b : Byte) (k : Nat) : (s.setByte pa b).member k = s.member k := rfl
@[simp] theorem State.core_of_setByte (pa : Nat) (b : Byte) (k : Nat) : (s.setByte pa b).core k = s.core k := rfl
@[simp] theorem State.slice_of_setByte (pa : Nat) (b : Byte) (k : Nat) : (s.setByte pa b).slice k = s.slice k := rfl

@[simp] theorem State.cur_setMark (g : Nat) (b : Bool) : (s.setMark g b).cur = s.cur := rfl
@[simp] theorem State.curGang_setMark (g : Nat) (b : Bool) : (s.setMark g b).curGang = s.curGang := rfl
@[simp] theorem State.arg_setMark (g : Nat) (b : Bool) : (s.setMark g b).arg = s.arg := rfl
@[simp] theorem State.word_setMark (g : Nat) (b : Bool) : (s.setMark g b).word = s.word := rfl
@[simp] theorem State.wordh_setMark (g : Nat) (b : Bool) : (s.setMark g b).wordh = s.wordh := rfl
@[simp] theorem State.agenda_setMark (g : Nat) (b : Bool) : (s.setMark g b).agenda = s.agenda := rfl
@[simp] theorem State.cyc0_setMark (g : Nat) (b : Bool) : (s.setMark g b).cyc0 = s.cyc0 := rfl
@[simp] theorem State.cyc1_setMark (g : Nat) (b : Bool) : (s.setMark g b).cyc1 = s.cyc1 := rfl
@[simp] theorem State.ns_setMark (g : Nat) (b : Bool) : (s.setMark g b).ns = s.ns := rfl
@[simp] theorem State.free_setMark (g : Nat) (b : Bool) : (s.setMark g b).free = s.free := rfl
@[simp] theorem State.nextOp_setMark (g : Nat) (b : Bool) : (s.setMark g b).nextOp = s.nextOp := rfl
@[simp] theorem State.teams_setMark (g : Nat) (b : Bool) : (s.setMark g b).teams = s.teams := rfl
@[simp] theorem State.gangs_setMark (g : Nat) (b : Bool) : (s.setMark g b).gangs = s.gangs := rfl
@[simp] theorem State.members_setMark (g : Nat) (b : Bool) : (s.setMark g b).members = s.members := rfl
@[simp] theorem State.cores_setMark (g : Nat) (b : Bool) : (s.setMark g b).cores = s.cores := rfl
@[simp] theorem State.slices_setMark (g : Nat) (b : Bool) : (s.setMark g b).slices = s.slices := rfl
@[simp] theorem State.ops_setMark (g : Nat) (b : Bool) : (s.setMark g b).ops = s.ops := rfl
@[simp] theorem State.mem_setMark (g : Nat) (b : Bool) : (s.setMark g b).mem = s.mem := rfl
@[simp] theorem State.slots_setMark (g : Nat) (b : Bool) : (s.setMark g b).slots = s.slots := rfl
@[simp] theorem State.parts_setMark (g : Nat) (b : Bool) : (s.setMark g b).parts = s.parts := rfl
@[simp] theorem State.ctxs_setMark (g : Nat) (b : Bool) : (s.setMark g b).ctxs = s.ctxs := rfl
@[simp] theorem State.evt_setMark (g : Nat) (b : Bool) : (s.setMark g b).evt = s.evt := rfl
@[simp] theorem State.images_setMark (g : Nat) (b : Bool) : (s.setMark g b).images = s.images := rfl
@[simp] theorem State.journals_setMark (g : Nat) (b : Bool) : (s.setMark g b).journals = s.journals := rfl
@[simp] theorem State.orders_setMark (g : Nat) (b : Bool) : (s.setMark g b).orders = s.orders := rfl
@[simp] theorem State.replayJ_setMark (g : Nat) (b : Bool) : (s.setMark g b).replayJ = s.replayJ := rfl
@[simp] theorem State.replayO_setMark (g : Nat) (b : Bool) : (s.setMark g b).replayO = s.replayO := rfl
@[simp] theorem State.ahead_setMark (g : Nat) (b : Bool) : (s.setMark g b).ahead = s.ahead := rfl
@[simp] theorem State.outbox_setMark (g : Nat) (b : Bool) : (s.setMark g b).outbox = s.outbox := rfl
@[simp] theorem State.power_setMark (g : Nat) (b : Bool) : (s.setMark g b).power = s.power := rfl
@[simp] theorem State.ecc_setMark (g : Nat) (b : Bool) : (s.setMark g b).ecc = s.ecc := rfl
@[simp] theorem State.corrected_setMark (g : Nat) (b : Bool) : (s.setMark g b).corrected = s.corrected := rfl
@[simp] theorem State.hw_setMark (g : Nat) (b : Bool) : (s.setMark g b).hw = s.hw := rfl
@[simp] theorem State.tfaults_setMark (g : Nat) (b : Bool) : (s.setMark g b).tfaults = s.tfaults := rfl
@[simp] theorem State.incoming_setMark (g : Nat) (b : Bool) : (s.setMark g b).incoming = s.incoming := rfl
@[simp] theorem State.arriving_setMark (g : Nat) (b : Bool) : (s.setMark g b).arriving = s.arriving := rfl
@[simp] theorem State.l2hits_setMark (g : Nat) (b : Bool) : (s.setMark g b).l2hits = s.l2hits := rfl
@[simp] theorem State.ckpts_setMark (g : Nat) (b : Bool) : (s.setMark g b).ckpts = s.ckpts := rfl
@[simp] theorem State.run_setMark (g : Nat) (b : Bool) : (s.setMark g b).run = s.run := rfl
@[simp] theorem State.msix_setMark (g : Nat) (b : Bool) : (s.setMark g b).msix = s.msix := rfl
@[simp] theorem State.windows_setMark (g : Nat) (b : Bool) : (s.setMark g b).windows = s.windows := rfl
@[simp] theorem State.sealedPeer_setMark (g : Nat) (b : Bool) : (s.setMark g b).sealedPeer = s.sealedPeer := rfl
@[simp] theorem State.groupTab_setMark (g : Nat) (b : Bool) : (s.setMark g b).groupTab = s.groupTab := rfl
@[simp] theorem State.ports_setMark (g : Nat) (b : Bool) : (s.setMark g b).ports = s.ports := rfl
@[simp] theorem State.sampleN_setMark (g : Nat) (b : Bool) : (s.setMark g b).sampleN = s.sampleN := rfl
@[simp] theorem State.team_of_setMark (g : Nat) (b : Bool) (k : Nat) : (s.setMark g b).team k = s.team k := rfl
@[simp] theorem State.gang_of_setMark (g : Nat) (b : Bool) (k : Nat) : (s.setMark g b).gang k = s.gang k := rfl
@[simp] theorem State.member_of_setMark (g : Nat) (b : Bool) (k : Nat) : (s.setMark g b).member k = s.member k := rfl
@[simp] theorem State.core_of_setMark (g : Nat) (b : Bool) (k : Nat) : (s.setMark g b).core k = s.core k := rfl
@[simp] theorem State.slice_of_setMark (g : Nat) (b : Bool) (k : Nat) : (s.setMark g b).slice k = s.slice k := rfl
@[simp] theorem State.memByte_setMark (g : Nat) (b : Bool) (a : Nat) : (s.setMark g b).memByte a = s.memByte a := rfl

end Sys2Proof.Machine
end

