-- ==== Sys2Proof/Laws/Ops.lean ====
section
/-! SUPPORT. What the shared operations do: which leave memory as it is, which write it and where, the tokens, taking an exception and
returning, and the commands. -/

namespace Sys2Proof.Machine

variable (s : State)

/-! ## Operations that leave memory as it is -/

@[simp] theorem State.mem_count (m e : Nat) : (s.count m e).mem = s.mem := by unfold State.count; split <;> rfl
@[simp] theorem State.marks_count (m e : Nat) : (s.count m e).marks = s.marks := by unfold State.count; split <;> rfl
@[simp] theorem State.mem_meetFatal (g : Nat) : (s.meetFatal g).mem = s.mem := by unfold State.meetFatal; split <;> rfl
@[simp] theorem State.marks_meetFatal (g : Nat) : (s.meetFatal g).marks = s.marks := by unfold State.meetFatal; split <;> rfl
@[simp] theorem State.mem_ran (g : Nat) (r : Ran) : (s.ran g r).mem = s.mem := by
  unfold State.ran; (repeat' split) <;> simp
@[simp] theorem State.marks_ran (g : Nat) (r : Ran) : (s.ran g r).marks = s.marks := by
  unfold State.ran; (repeat' split) <;> simp
@[simp] theorem State.mem_retire : s.retire.mem = s.mem := by unfold State.retire; simp only; (repeat' split) <;> simp
@[simp] theorem State.marks_retire : s.retire.marks = s.marks := by unfold State.retire; simp only; (repeat' split) <;> simp
@[simp] theorem State.mem_advanceBy (n : W64) : (s.advanceBy n).mem = s.mem := by simp [State.advanceBy]
@[simp] theorem State.marks_advanceBy (n : W64) : (s.advanceBy n).marks = s.marks := by simp [State.advanceBy]
@[simp] theorem State.mem_advance : s.advance.mem = s.mem := by simp [State.advance]
@[simp] theorem State.marks_advance : s.advance.marks = s.marks := by simp [State.advance]
@[simp] theorem State.mem_modOp (o : Nat) (f : Op → Op) : (s.modOp o f).mem = s.mem := by unfold State.modOp; split <;> rfl
@[simp] theorem State.marks_modOp (o : Nat) (f : Op → Op) : (s.modOp o f).marks = s.marks := by unfold State.modOp; split <;> rfl
@[simp] theorem State.mem_modCtx (c : Nat) (f : Ctx → Ctx) : (s.modCtx c f).mem = s.mem := by unfold State.modCtx; split <;> rfl
@[simp] theorem State.marks_modCtx (c : Nat) (f : Ctx → Ctx) : (s.modCtx c f).marks = s.marks := by unfold State.modCtx; split <;> rfl
@[simp] theorem State.mem_modPart (p : Nat) (f : Part → Part) : (s.modPart p f).mem = s.mem := by unfold State.modPart; split <;> rfl
@[simp] theorem State.marks_modPart (p : Nat) (f : Part → Part) : (s.modPart p f).marks = s.marks := by unfold State.modPart; split <;> rfl
@[simp] theorem State.mem_note (a : Agent) (n : W64) (v : List W64) : (s.note a n v).mem = s.mem := by unfold State.note; split <;> rfl
@[simp] theorem State.marks_note (a : Agent) (n : W64) (v : List W64) : (s.note a n v).marks = s.marks := by unfold State.note; split <;> rfl
@[simp] theorem State.mem_completeToken (t n : Nat) (p : Option (BitVec 8 × W64)) : (s.completeToken t n p).mem = s.mem := rfl
@[simp] theorem State.marks_completeToken (t n : Nat) (p : Option (BitVec 8 × W64)) : (s.completeToken t n p).marks = s.marks := rfl
@[simp] theorem State.mem_endOp (o : Nat) (x : Op) : (s.endOp o x).mem = s.mem := rfl
@[simp] theorem State.marks_endOp (o : Nat) (x : Op) : (s.endOp o x).marks = s.marks := rfl
@[simp] theorem State.mem_modReq (o r : Nat) (f : Req → Req) : (s.modReq o r f).mem = s.mem := by simp [State.modReq]
@[simp] theorem State.marks_modReq (o r : Nat) (f : Req → Req) : (s.modReq o r f).marks = s.marks := by simp [State.modReq]
@[simp] theorem State.mem_finishReq (o r : Nat) (c : BitVec 8) (g : W64) : (s.finishReq o r c g).mem = s.mem := by
  unfold State.finishReq; simp only; (repeat' split) <;> simp
@[simp] theorem State.marks_finishReq (o r : Nat) (c : BitVec 8) (g : W64) : (s.finishReq o r c g).marks = s.marks := by
  unfold State.finishReq; simp only; (repeat' split) <;> simp
@[simp] theorem State.mem_l2Watch (a b c d e f : Nat) : (s.l2Watch a b c d e f).mem = s.mem := by unfold State.l2Watch; split <;> rfl
@[simp] theorem State.marks_l2Watch (a b c d e f : Nat) : (s.l2Watch a b c d e f).marks = s.marks := by unfold State.l2Watch; split <;> rfl
@[simp] theorem State.mem_overwrite (pa : Nat) (l : List Byte) : (s.overwrite pa l).mem = s.mem := by unfold State.overwrite; split <;> rfl
@[simp] theorem State.marks_overwrite (pa : Nat) (l : List Byte) : (s.overwrite pa l).marks = s.marks := by
  unfold State.overwrite; split <;> rfl
@[simp] theorem State.mem_eccHit (pa n : Nat) : (s.eccHit pa n).1.mem = s.mem := by
  unfold State.eccHit; simp only; (repeat' split) <;> rfl
@[simp] theorem State.marks_eccHit (pa n : Nat) : (s.eccHit pa n).1.marks = s.marks := by
  unfold State.eccHit; simp only; (repeat' split) <;> rfl
@[simp] theorem State.mem_raiseHalt (c : Nat) (b : Bool) : (s.raiseHalt c b).mem = s.mem := by
  unfold State.raiseHalt; simp only; (repeat' split) <;> simp
@[simp] theorem State.marks_raiseHalt (c : Nat) (b : Bool) : (s.raiseHalt c b).marks = s.marks := by
  unfold State.raiseHalt; simp only; (repeat' split) <;> simp
@[simp] theorem State.mem_enterHandler (t c n : Nat) (e w h : W64) : (s.enterHandler t c n e w h).mem = s.mem := rfl
@[simp] theorem State.marks_enterHandler (t c n : Nat) (e w h : W64) : (s.enterHandler t c n e w h).marks = s.marks := rfl
@[simp] theorem State.mem_leaveHandler : s.leaveHandler.mem = s.mem := rfl
@[simp] theorem State.marks_leaveHandler : s.leaveHandler.marks = s.marks := rfl
@[simp] theorem State.mem_classTrap (k : TrapClass) (n : Nat) : (s.classTrap k n).mem = s.mem := by unfold State.classTrap; split <;> rfl
@[simp] theorem State.marks_classTrap (k : TrapClass) (n : Nat) : (s.classTrap k n).marks = s.marks := by
  unfold State.classTrap; split <;> rfl

@[simp] theorem State.mem_evictNow (sl l : Nat) (d : Dir) : (s.evictNow sl l d).mem = s.mem := rfl
@[simp] theorem State.marks_evictNow (sl l : Nat) (d : Dir) : (s.evictNow sl l d).marks = s.marks := rfl
@[simp] theorem State.mem_finishEviction (sl l : Nat) : (s.finishEviction sl l).mem = s.mem := by
  unfold State.finishEviction; split
  · rfl
  · split <;> rfl
@[simp] theorem State.marks_finishEviction (sl l : Nat) : (s.finishEviction sl l).marks = s.marks := by
  unfold State.finishEviction; split
  · rfl
  · split <;> rfl

/-! ## Operations that write memory keep its canonical form -/

variable {s}

theorem CanonicalMemory.of_eq {t : State} (h : CanonicalMemory s) (hm : t.mem = s.mem) (hk : t.marks = s.marks) : CanonicalMemory t := by
  unfold CanonicalMemory; rw [hm, hk]; exact h

theorem CanonicalMemory.setMark (h : CanonicalMemory s) (g : Nat) (b : Bool) : CanonicalMemory (s.setMark g b) :=
  ⟨h.1, Sparse.canonical_put _ _ _ _ h.2⟩

theorem CanonicalMemory.setBytes (h : CanonicalMemory s) (pa : Nat) (l : List Byte) : CanonicalMemory (s.setBytes pa l) :=
  ⟨Memory.wf_setBytes l s pa h.1, by rw [setBytes_eq]; exact h.2⟩

/-- What each step of a fold keeps, the fold keeps. -/
theorem State.each_keeps {p : State → Prop} (f : State → Nat → State) (hf : ∀ s n, p s → p (f s n)) (l : List Nat) (s : State) (h : p s) :
    p (s.each l f) := by
  induction l generalizing s with
  | nil => exact h
  | cons a l ih => exact ih _ (hf s a h)

@[simp] theorem State.mem_sendUpdates (s : State) (slice pa : Nat) (l : List Byte) (op : Option (Nat × Nat)) :
    (s.sendUpdates slice pa l op).mem = s.mem := by
  unfold State.sendUpdates; simp only; split <;> rfl

@[simp] theorem State.marks_sendUpdates (s : State) (slice pa : Nat) (l : List Byte) (op : Option (Nat × Nat)) :
    (s.sendUpdates slice pa l op).marks = s.marks := by
  unfold State.sendUpdates; simp only; split <;> rfl

theorem CanonicalMemory.storeBytes (h : CanonicalMemory s) (pa : Nat) (data : List Byte) (mark : Nat → Bool) (whole : Bool) :
    CanonicalMemory (s.storeBytes pa data mark whole) := by
  have h1 : CanonicalMemory ((s.overwrite pa data).setBytes pa data) := (h.of_eq (by simp) (by simp)).setBytes _ _
  refine CanonicalMemory.of_eq (State.each_keeps (p := CanonicalMemory) _ (fun s g hs => ?_) [2 * (pa / 128), 2 * (pa / 128) + 1] _ h1) rfl rfl
  dsimp only
  (repeat' split)
  · exact hs.setMark g true
  · exact hs.setMark g false
  · exact hs
  · exact hs

theorem CanonicalMemory.homeStore (h : CanonicalMemory s) (slice pa : Nat) (data : List Byte) (mark : Nat → Bool) (whole : Bool)
    (op : Option (Nat × Nat)) : CanonicalMemory (s.homeStore slice pa data mark whole op) :=
  (h.storeBytes pa data mark whole).of_eq (State.mem_sendUpdates _ _ _ _ _) (State.marks_sendUpdates _ _ _ _ _)

theorem CanonicalMemory.benchStore (n : Nat) {s : State} (h : CanonicalMemory s) (pa : Nat) (l : List Byte) :
    CanonicalMemory (s.benchStore n pa l) := by
  induction n generalizing s pa l with
  | zero => exact h
  | succ n ih =>
    unfold State.benchStore
    simp only
    split
    · exact h
    · exact ih ((h.of_eq (State.mem_finishEviction _ _ _) (State.marks_finishEviction _ _ _)).homeStore _ _ _ _ _ _) _ _

theorem CanonicalMemory.benchWords (h : CanonicalMemory s) (pa : Nat) (ws : List W64) : CanonicalMemory (s.benchWords pa ws) :=
  h.benchStore _ _ _

theorem CanonicalMemory.ringPut (h : CanonicalMemory s) (base slots size : Nat) (ws : List W64) :
    CanonicalMemory (s.ringPut base slots size ws) := (h.benchWords _ _).benchStore _ _ _

theorem CanonicalMemory.faultRecord (h : CanonicalMemory s) (p : Nat) (c : Option Nat) (f : FRec) :
    CanonicalMemory (s.faultRecord p c f).1 := by
  unfold State.faultRecord
  simp only
  (repeat' split)
  · exact h
  · exact (h.of_eq (by simp) (by simp)).ringPut _ _ _ _
  · exact h.of_eq (by simp) (by simp)
  · exact h.of_eq (by simp) (by simp)

theorem CanonicalMemory.fatal (h : CanonicalMemory s) (c : Nat) (f : FRec) : CanonicalMemory (s.fatal c f) := by
  unfold State.fatal
  split
  · exact h
  · refine CanonicalMemory.of_eq (CanonicalMemory.faultRecord (h.of_eq ?_ ?_) _ _ _) (State.mem_raiseHalt _ _ _ |>.trans (State.mem_modCtx _ _ _))
      (State.marks_raiseHalt _ _ _ |>.trans (State.marks_modCtx _ _ _)) <;> simp

theorem CanonicalMemory.scalarFault (h : CanonicalMemory s) (k : Nat) (r : Reason) (a : W64) : CanonicalMemory (s.scalarFault k r a) := by
  unfold State.scalarFault
  dsimp only
  apply CanonicalMemory.fatal
  exact h.of_eq rfl rfl

theorem CanonicalMemory.laneFault (h : CanonicalMemory s) (k : Nat) (r : Reason) (a d : W64) : CanonicalMemory (s.laneFault k r a d) := by
  unfold State.laneFault
  dsimp only
  apply CanonicalMemory.fatal
  exact h.of_eq rfl rfl

theorem CanonicalMemory.seqFault (h : CanonicalMemory s) (k : Nat) (r : Reason) (a : W64) : CanonicalMemory (s.seqFault k r a) := by
  unfold State.seqFault
  dsimp only
  apply CanonicalMemory.fatal
  exact h.of_eq rfl rfl

/-! ## What a write at its home leaves in memory -/

theorem State.memByte_of_mem {t : State} (h : t.mem = s.mem) (a : Nat) : t.memByte a = s.memByte a := by unfold State.memByte; rw [h]

/-- Where two states hold the same memory, they hold the same one after the same bytes are written. -/
theorem State.mem_setBytes_congr (l : List Byte) (x y : State) (a : Nat) (h : x.mem = y.mem) : (x.setBytes a l).mem = (y.setBytes a l).mem := by
  induction l generalizing x y a with
  | nil => exact h
  | cons b l ih => exact ih _ _ _ (by simp [State.setByte, h])

theorem State.mem_storeBytes (pa : Nat) (data : List Byte) (mark : Nat → Bool) (whole : Bool) :
    (s.storeBytes pa data mark whole).mem = (s.setBytes pa data).mem := by
  refine State.each_keeps (p := fun t => t.mem = (s.setBytes pa data).mem) _ (fun s g hs => ?_) [2 * (pa / 128), 2 * (pa / 128) + 1] _
    (State.mem_setBytes_congr data _ s pa (State.mem_overwrite _ _ _))
  dsimp only; (repeat' split) <;> exact hs

/-- A write at its home changes the bytes written and no other byte. -/
theorem State.mem_homeStore (slice pa : Nat) (data : List Byte) (mark : Nat → Bool) (whole : Bool) (op : Option (Nat × Nat)) :
    (s.homeStore slice pa data mark whole op).mem = (s.setBytes pa data).mem :=
  (State.mem_sendUpdates _ _ _ _ _).trans (State.mem_storeBytes _ _ _ _)

theorem State.memByte_homeStore_outside (slice pa a : Nat) (data : List Byte) (mark : Nat → Bool) (whole : Bool) (op : Option (Nat × Nat))
    (h : a < pa ∨ pa + data.length ≤ a) : (s.homeStore slice pa data mark whole op).memByte a = s.memByte a :=
  (State.memByte_of_mem (State.mem_homeStore _ _ _ _ _ _) a).trans (memByte_setBytes_outside _ _ _ _ h)

theorem State.memByte_homeStore_inside (slice pa i : Nat) (data : List Byte) (mark : Nat → Bool) (whole : Bool) (op : Option (Nat × Nat))
    (h : i < data.length) : (s.homeStore slice pa data mark whole op).memByte (pa + i) = data[i] :=
  (State.memByte_of_mem (State.mem_homeStore _ _ _ _ _ _) _).trans (memByte_setBytes_inside _ _ _ _ h)

/-! ## Tokens, exceptions and commands -/

variable (s)

/-- A token completes: DONE, or POISONED with its cause and origin; every other token of the team stands as it stood. -/
theorem State.getT_completeToken (t n m : Nat) (p : Option (BitVec 8 × W64)) :
    ((s.completeToken t n p).team t).getT m = if m = n then
      (match p with
       | none => { st := .done, claimed := false, cause := 0, origin := 0 }
       | some (c, o) => { st := .poisoned, claimed := false, cause := c, origin := o }) else (s.team t).getT m := by
  rcases p with - | ⟨c, o⟩ <;> simp [State.completeToken, State.team, State.modTeam, State.setTeam, Team.getT, Team.setT, Sparse.get_set]

/-- No other team's part changes when a token completes. -/
theorem State.team_completeToken (t n k : Nat) (p : Option (BitVec 8 × W64)) (h : k ≠ t) :
    (s.completeToken t n p).team k = s.team k := by
  simp [State.completeToken, State.team, State.modTeam, State.setTeam, Sparse.get_set, h]

@[simp] theorem State.gang_completeToken (t n g : Nat) (p : Option (BitVec 8 × W64)) : (s.completeToken t n p).gang g = s.gang g := rfl
@[simp] theorem State.member_completeToken (t n k : Nat) (p : Option (BitVec 8 × W64)) :
    (s.completeToken t n p).member k = s.member k := rfl
@[simp] theorem State.cur_completeToken (t n : Nat) (p : Option (BitVec 8 × W64)) : (s.completeToken t n p).cur = s.cur := rfl
@[simp] theorem State.agenda_completeToken (t n : Nat) (p : Option (BitVec 8 × W64)) : (s.completeToken t n p).agenda = s.agenda := rfl

/-- Taking an exception (spec/16 R283): all that it changes. -/
theorem State.team_enterHandler (t k c n : Nat) (e w h : W64) : (s.enterHandler t c n e w h).team k =
    if k = t then { s.team t with epc := e, hstat := hstatWord c n, tword := w, twordh := h, pc := (s.gang (gangOf t)).handler }
    else s.team k := State.team_modTeam _ _ _ _

/-- A team that takes an exception is in handler mode. -/
theorem Team.hm_hstatWord (t : Team) (c n : Nat) : ({ t with hstat := hstatWord c n } : Team).hm = true := by
  have h : (n % 2 ^ 13 * 2 ^ 16 + c * 2 ^ 8 + 1) % 2 = 1 := by omega
  exact ((BitVec.getLsbD_ofNat _ _ _).trans (congrArg _ (Nat.testBit_zero _))).trans
    ((congrArg (fun b => decide (0 < 64) && b) (decide_eq_true h)).trans rfl)

/-- Returning from an exception (spec/03 R71): all that it changes. -/
theorem State.team_leaveHandler (k : Nat) :
    s.leaveHandler.team k = if k = s.cur then { s.tm with pc := s.tm.epc, hstat := 0 } else s.team k := State.team_modTm _ _ _

/-- A command that may run is carried out or refused with a status (spec/18 R308). -/
theorem State.doorbell_runs (code : Nat) (k : List W64 → Except Nat (State × List W64)) (h : Commanded s code) :
    s.doorbell code k = match k s.cmd with
      | .error e => .next (s.latchCmd e [])
      | .ok (t, r) => .next (t.latchCmd 0 r) := by
  obtain ⟨h1, h2, h3, h4⟩ := h
  exact (if_neg fun h => h h1).trans ((if_neg (by rw [h2]; exact Bool.false_ne_true)).trans ((if_neg fun h => h h3).trans
    ((if_neg fun h => h h4).trans rfl)))

/-- A doorbell while a command runs is dropped (spec/18 R308). -/
theorem State.doorbell_busy (code : Nat) (k : List W64 → Except Nat (State × List W64)) (h : cmdCode s.cmd = code) (hb : s.run.isSome = true) :
    s.doorbell code k = .next { s with status := s.status ||| 8 } := by
  exact (if_neg fun h' => h' h).trans (if_pos hb)

end Sys2Proof.Machine
end

