-- ==== Sys2Proof/Laws/PerInstr.lean ====
section
/-! SUPPORT. One statement about every constructor of `Instr`, as syntax. -/

namespace Sys2Proof

/-- The instruction has words in at most one of the three streams (spec/01 R25, R27, R30): the encoder of one stream at most knows it. -/
def Laws.OneStream.Statement (i : Instr) : Prop :=
  (encodeScalar i).isSome.toNat + (laneParts i).isSome.toNat + (matParts i).isSome.toNat ≤ 1

theorem Laws.OneStream.sadd (a b c) : Laws.OneStream.Statement (.sadd a b c) := Nat.le_refl 1
theorem Laws.OneStream.ssub (a b c) : Laws.OneStream.Statement (.ssub a b c) := Nat.le_refl 1
theorem Laws.OneStream.sand (a b c) : Laws.OneStream.Statement (.sand a b c) := Nat.le_refl 1
theorem Laws.OneStream.sor (a b c) : Laws.OneStream.Statement (.sor a b c) := Nat.le_refl 1
theorem Laws.OneStream.sxor (a b c) : Laws.OneStream.Statement (.sxor a b c) := Nat.le_refl 1
theorem Laws.OneStream.sshl (a b c) : Laws.OneStream.Statement (.sshl a b c) := Nat.le_refl 1
theorem Laws.OneStream.sshr (a b c) : Laws.OneStream.Statement (.sshr a b c) := Nat.le_refl 1
theorem Laws.OneStream.ssra (a b c) : Laws.OneStream.Statement (.ssra a b c) := Nat.le_refl 1
theorem Laws.OneStream.sminS (a b c) : Laws.OneStream.Statement (.sminS a b c) := Nat.le_refl 1
theorem Laws.OneStream.smaxS (a b c) : Laws.OneStream.Statement (.smaxS a b c) := Nat.le_refl 1
theorem Laws.OneStream.sminN (a b c) : Laws.OneStream.Statement (.sminN a b c) := Nat.le_refl 1
theorem Laws.OneStream.smaxN (a b c) : Laws.OneStream.Statement (.smaxN a b c) := Nat.le_refl 1
theorem Laws.OneStream.ssltS (a b c) : Laws.OneStream.Statement (.ssltS a b c) := Nat.le_refl 1
theorem Laws.OneStream.ssltN (a b c) : Laws.OneStream.Statement (.ssltN a b c) := Nat.le_refl 1
theorem Laws.OneStream.sseq (a b c) : Laws.OneStream.Statement (.sseq a b c) := Nat.le_refl 1
theorem Laws.OneStream.ssne (a b c) : Laws.OneStream.Statement (.ssne a b c) := Nat.le_refl 1
theorem Laws.OneStream.sclz (a b) : Laws.OneStream.Statement (.sclz a b) := Nat.le_refl 1
theorem Laws.OneStream.spop (a b) : Laws.OneStream.Statement (.spop a b) := Nat.le_refl 1
theorem Laws.OneStream.smul (a b c) : Laws.OneStream.Statement (.smul a b c) := Nat.le_refl 1
theorem Laws.OneStream.smulhS (a b c) : Laws.OneStream.Statement (.smulhS a b c) := Nat.le_refl 1
theorem Laws.OneStream.smulhN (a b c) : Laws.OneStream.Statement (.smulhN a b c) := Nat.le_refl 1
theorem Laws.OneStream.sdivS (a b c) : Laws.OneStream.Statement (.sdivS a b c) := Nat.le_refl 1
theorem Laws.OneStream.sdivN (a b c) : Laws.OneStream.Statement (.sdivN a b c) := Nat.le_refl 1
theorem Laws.OneStream.sremS (a b c) : Laws.OneStream.Statement (.sremS a b c) := Nat.le_refl 1
theorem Laws.OneStream.sremN (a b c) : Laws.OneStream.Statement (.sremN a b c) := Nat.le_refl 1
theorem Laws.OneStream.saddi (a b c) : Laws.OneStream.Statement (.saddi a b c) := Nat.le_refl 1
theorem Laws.OneStream.sandi (a b c) : Laws.OneStream.Statement (.sandi a b c) := Nat.le_refl 1
theorem Laws.OneStream.sori (a b c) : Laws.OneStream.Statement (.sori a b c) := Nat.le_refl 1
theorem Laws.OneStream.sxori (a b c) : Laws.OneStream.Statement (.sxori a b c) := Nat.le_refl 1
theorem Laws.OneStream.sslti (a b c) : Laws.OneStream.Statement (.sslti a b c) := Nat.le_refl 1
theorem Laws.OneStream.sshli (a b c) : Laws.OneStream.Statement (.sshli a b c) := Nat.le_refl 1
theorem Laws.OneStream.sshri (a b c) : Laws.OneStream.Statement (.sshri a b c) := Nat.le_refl 1
theorem Laws.OneStream.ssrai (a b c) : Laws.OneStream.Statement (.ssrai a b c) := Nat.le_refl 1
theorem Laws.OneStream.sbfx (a b c d e) : Laws.OneStream.Statement (.sbfx a b c d e) := Nat.le_refl 1
theorem Laws.OneStream.simm (a b) : Laws.OneStream.Statement (.simm a b) := Nat.le_refl 1
theorem Laws.OneStream.sbeq (a b c) : Laws.OneStream.Statement (.sbeq a b c) := Nat.le_refl 1
theorem Laws.OneStream.sbne (a b c) : Laws.OneStream.Statement (.sbne a b c) := Nat.le_refl 1
theorem Laws.OneStream.sbltS (a b c) : Laws.OneStream.Statement (.sbltS a b c) := Nat.le_refl 1
theorem Laws.OneStream.sbgeS (a b c) : Laws.OneStream.Statement (.sbgeS a b c) := Nat.le_refl 1
theorem Laws.OneStream.sbltN (a b c) : Laws.OneStream.Statement (.sbltN a b c) := Nat.le_refl 1
theorem Laws.OneStream.sbgeN (a b c) : Laws.OneStream.Statement (.sbgeN a b c) := Nat.le_refl 1
theorem Laws.OneStream.sjal (a b) : Laws.OneStream.Statement (.sjal a b) := Nat.le_refl 1
theorem Laws.OneStream.sjr (a b) : Laws.OneStream.Statement (.sjr a b) := Nat.le_refl 1
theorem Laws.OneStream.sbany (a b) : Laws.OneStream.Statement (.sbany a b) := Nat.le_refl 1
theorem Laws.OneStream.sball (a b) : Laws.OneStream.Statement (.sball a b) := Nat.le_refl 1
theorem Laws.OneStream.sloop (a b) : Laws.OneStream.Statement (.sloop a b) := Nat.le_refl 1
theorem Laws.OneStream.sldD (a b c) : Laws.OneStream.Statement (.sldD a b c) := Nat.le_refl 1
theorem Laws.OneStream.sldW (a b c) : Laws.OneStream.Statement (.sldW a b c) := Nat.le_refl 1
theorem Laws.OneStream.sstD (a b c) : Laws.OneStream.Statement (.sstD a b c) := Nat.le_refl 1
theorem Laws.OneStream.sstW (a b c) : Laws.OneStream.Statement (.sstW a b c) := Nat.le_refl 1
theorem Laws.OneStream.sldc (a b c) : Laws.OneStream.Statement (.sldc a b c) := Nat.le_refl 1
theorem Laws.OneStream.sempty (a b) : Laws.OneStream.Statement (.sempty a b) := Nat.le_refl 1
theorem Laws.OneStream.sldg (a b c d e) : Laws.OneStream.Statement (.sldg a b c d e) := Nat.le_refl 1
theorem Laws.OneStream.sstg (a b c d e) : Laws.OneStream.Statement (.sstg a b c d e) := Nat.le_refl 1
theorem Laws.OneStream.lrun (a b c) : Laws.OneStream.Statement (.lrun a b c) := Nat.le_refl 1
theorem Laws.OneStream.lrunr (a b c) : Laws.OneStream.Statement (.lrunr a b c) := Nat.le_refl 1
theorem Laws.OneStream.twait (a) : Laws.OneStream.Statement (.twait a) := Nat.le_refl 1
theorem Laws.OneStream.ttry (a b) : Laws.OneStream.Statement (.ttry a b) := Nat.le_refl 1
theorem Laws.OneStream.twaitt (a b c) : Laws.OneStream.Statement (.twaitt a b c) := Nat.le_refl 1
theorem Laws.OneStream.tclr (a) : Laws.OneStream.Statement (.tclr a) := Nat.le_refl 1
theorem Laws.OneStream.tstat (a b) : Laws.OneStream.Statement (.tstat a b) := Nat.le_refl 1
theorem Laws.OneStream.tany (a b) : Laws.OneStream.Statement (.tany a b) := Nat.le_refl 1
theorem Laws.OneStream.barArr (a) : Laws.OneStream.Statement (.barArr a) := Nat.le_refl 1
theorem Laws.OneStream.barWait (a) : Laws.OneStream.Statement (.barWait a) := Nat.le_refl 1
theorem Laws.OneStream.barSync (a) : Laws.OneStream.Statement (.barSync a) := Nat.le_refl 1
theorem Laws.OneStream.join (a) : Laws.OneStream.Statement (.join a) := Nat.le_refl 1
theorem Laws.OneStream.leave (a) : Laws.OneStream.Statement (.leave a) := Nat.le_refl 1
theorem Laws.OneStream.bind (a b) : Laws.OneStream.Statement (.bind a b) := Nat.le_refl 1
theorem Laws.OneStream.evsig (a) : Laws.OneStream.Statement (.evsig a) := Nat.le_refl 1
theorem Laws.OneStream.grp (a b) : Laws.OneStream.Statement (.grp a b) := Nat.le_refl 1
theorem Laws.OneStream.vgrow (a b) : Laws.OneStream.Statement (.vgrow a b) := Nat.le_refl 1
theorem Laws.OneStream.vgrowT (a b) : Laws.OneStream.Statement (.vgrowT a b) := Nat.le_refl 1
theorem Laws.OneStream.vshrink (a) : Laws.OneStream.Statement (.vshrink a) := Nat.le_refl 1
theorem Laws.OneStream.fmtset (a) : Laws.OneStream.Statement (.fmtset a) := Nat.le_refl 1
theorem Laws.OneStream.fmtget (a) : Laws.OneStream.Statement (.fmtget a) := Nat.le_refl 1
theorem Laws.OneStream.fmtseti (a) : Laws.OneStream.Statement (.fmtseti a) := Nat.le_refl 1
theorem Laws.OneStream.cpy (a b c d) : Laws.OneStream.Statement (.cpy a b c d) := Nat.le_refl 1
theorem Laws.OneStream.cbld (a b c d) : Laws.OneStream.Statement (.cbld a b c d) := Nat.le_refl 1
theorem Laws.OneStream.cpbi (a b c) : Laws.OneStream.Statement (.cpbi a b c) := Nat.le_refl 1
theorem Laws.OneStream.xred (a b c) : Laws.OneStream.Statement (.xred a b c) := Nat.le_refl 1
theorem Laws.OneStream.xgat (a b c) : Laws.OneStream.Statement (.xgat a b c) := Nat.le_refl 1
theorem Laws.OneStream.xa2a (a b c) : Laws.OneStream.Statement (.xa2a a b c) := Nat.le_refl 1
theorem Laws.OneStream.pinit (a b c d) : Laws.OneStream.Statement (.pinit a b c d) := Nat.le_refl 1
theorem Laws.OneStream.pexp (a b c d) : Laws.OneStream.Statement (.pexp a b c d) := Nat.le_refl 1
theorem Laws.OneStream.parr (a b c) : Laws.OneStream.Statement (.parr a b c) := Nat.le_refl 1
theorem Laws.OneStream.texp (a b c) : Laws.OneStream.Statement (.texp a b c) := Nat.le_refl 1
theorem Laws.OneStream.pwait (a b c) : Laws.OneStream.Statement (.pwait a b c) := Nat.le_refl 1
theorem Laws.OneStream.ptry (a b c) : Laws.OneStream.Statement (.ptry a b c) := Nat.le_refl 1
theorem Laws.OneStream.fence (a b) : Laws.OneStream.Statement (.fence a b) := Nat.le_refl 1
theorem Laws.OneStream.chk (a b c) : Laws.OneStream.Statement (.chk a b c) := Nat.le_refl 1
theorem Laws.OneStream.wclr (a) : Laws.OneStream.Statement (.wclr a) := Nat.le_refl 1
theorem Laws.OneStream.trig (a b c d) : Laws.OneStream.Statement (.trig a b c d) := Nat.le_refl 1
theorem Laws.OneStream.seal (a b c d) : Laws.OneStream.Statement (.seal a b c d) := Nat.le_refl 1
theorem Laws.OneStream.unseal (a b c) : Laws.OneStream.Statement (.unseal a b c) := Nat.le_refl 1
theorem Laws.OneStream.vref (a b c) : Laws.OneStream.Statement (.vref a b c) := Nat.le_refl 1
theorem Laws.OneStream.strap (a) : Laws.OneStream.Statement (.strap a) := Nat.le_refl 1
theorem Laws.OneStream.tret : Laws.OneStream.Statement .tret := Nat.le_refl 1
theorem Laws.OneStream.exit : Laws.OneStream.Statement .exit := Nat.le_refl 1
theorem Laws.OneStream.brk : Laws.OneStream.Statement .brk := Nat.le_refl 1
theorem Laws.OneStream.nop : Laws.OneStream.Statement .nop := Nat.le_refl 1
theorem Laws.OneStream.srd (a b) : Laws.OneStream.Statement (.srd a b) := Nat.le_refl 1
theorem Laws.OneStream.swr (a b) : Laws.OneStream.Statement (.swr a b) := Nat.le_refl 1
theorem Laws.OneStream.vadd (a) : Laws.OneStream.Statement (.vadd a) := Nat.le_refl 1
theorem Laws.OneStream.vsub (a) : Laws.OneStream.Statement (.vsub a) := Nat.le_refl 1
theorem Laws.OneStream.vmul (a) : Laws.OneStream.Statement (.vmul a) := Nat.le_refl 1
theorem Laws.OneStream.vmulh (a) : Laws.OneStream.Statement (.vmulh a) := Nat.le_refl 1
theorem Laws.OneStream.vmad (a) : Laws.OneStream.Statement (.vmad a) := Nat.le_refl 1
theorem Laws.OneStream.vmin (a) : Laws.OneStream.Statement (.vmin a) := Nat.le_refl 1
theorem Laws.OneStream.vmax (a) : Laws.OneStream.Statement (.vmax a) := Nat.le_refl 1
theorem Laws.OneStream.vabs (a) : Laws.OneStream.Statement (.vabs a) := Nat.le_refl 1
theorem Laws.OneStream.vneg (a) : Laws.OneStream.Statement (.vneg a) := Nat.le_refl 1
theorem Laws.OneStream.vand (a) : Laws.OneStream.Statement (.vand a) := Nat.le_refl 1
theorem Laws.OneStream.vor (a) : Laws.OneStream.Statement (.vor a) := Nat.le_refl 1
theorem Laws.OneStream.vxor (a) : Laws.OneStream.Statement (.vxor a) := Nat.le_refl 1
theorem Laws.OneStream.vnot (a) : Laws.OneStream.Statement (.vnot a) := Nat.le_refl 1
theorem Laws.OneStream.vshl (a) : Laws.OneStream.Statement (.vshl a) := Nat.le_refl 1
theorem Laws.OneStream.vshr (a) : Laws.OneStream.Statement (.vshr a) := Nat.le_refl 1
theorem Laws.OneStream.vsra (a) : Laws.OneStream.Statement (.vsra a) := Nat.le_refl 1
theorem Laws.OneStream.vrot (a) : Laws.OneStream.Statement (.vrot a) := Nat.le_refl 1
theorem Laws.OneStream.vclz (a) : Laws.OneStream.Statement (.vclz a) := Nat.le_refl 1
theorem Laws.OneStream.vpop (a) : Laws.OneStream.Statement (.vpop a) := Nat.le_refl 1
theorem Laws.OneStream.vbfx (a) : Laws.OneStream.Statement (.vbfx a) := Nat.le_refl 1
theorem Laws.OneStream.vbfi (a) : Laws.OneStream.Statement (.vbfi a) := Nat.le_refl 1
theorem Laws.OneStream.vsel (a) : Laws.OneStream.Statement (.vsel a) := Nat.le_refl 1
theorem Laws.OneStream.vmov (a) : Laws.OneStream.Statement (.vmov a) := Nat.le_refl 1
theorem Laws.OneStream.vcmp (a) : Laws.OneStream.Statement (.vcmp a) := Nat.le_refl 1
theorem Laws.OneStream.vfadd (a) : Laws.OneStream.Statement (.vfadd a) := Nat.le_refl 1
theorem Laws.OneStream.vfsub (a) : Laws.OneStream.Statement (.vfsub a) := Nat.le_refl 1
theorem Laws.OneStream.vfmul (a) : Laws.OneStream.Statement (.vfmul a) := Nat.le_refl 1
theorem Laws.OneStream.vfma (a) : Laws.OneStream.Statement (.vfma a) := Nat.le_refl 1
theorem Laws.OneStream.vfms (a) : Laws.OneStream.Statement (.vfms a) := Nat.le_refl 1
theorem Laws.OneStream.vfnma (a) : Laws.OneStream.Statement (.vfnma a) := Nat.le_refl 1
theorem Laws.OneStream.vfmin (a) : Laws.OneStream.Statement (.vfmin a) := Nat.le_refl 1
theorem Laws.OneStream.vfmax (a) : Laws.OneStream.Statement (.vfmax a) := Nat.le_refl 1
theorem Laws.OneStream.vfdiv (a) : Laws.OneStream.Statement (.vfdiv a) := Nat.le_refl 1
theorem Laws.OneStream.vfsqrt (a) : Laws.OneStream.Statement (.vfsqrt a) := Nat.le_refl 1
theorem Laws.OneStream.vfrcp (a) : Laws.OneStream.Statement (.vfrcp a) := Nat.le_refl 1
theorem Laws.OneStream.vfrsq (a) : Laws.OneStream.Statement (.vfrsq a) := Nat.le_refl 1
theorem Laws.OneStream.vfabs (a) : Laws.OneStream.Statement (.vfabs a) := Nat.le_refl 1
theorem Laws.OneStream.vfneg (a) : Laws.OneStream.Statement (.vfneg a) := Nat.le_refl 1
theorem Laws.OneStream.vfcmp (a) : Laws.OneStream.Statement (.vfcmp a) := Nat.le_refl 1
theorem Laws.OneStream.vfcmpd (a) : Laws.OneStream.Statement (.vfcmpd a) := Nat.le_refl 1
theorem Laws.OneStream.vtrim (a) : Laws.OneStream.Statement (.vtrim a) := Nat.le_refl 1
theorem Laws.OneStream.vfcls (a) : Laws.OneStream.Statement (.vfcls a) := Nat.le_refl 1
theorem Laws.OneStream.vfexp2 (a) : Laws.OneStream.Statement (.vfexp2 a) := Nat.le_refl 1
theorem Laws.OneStream.vflog2 (a) : Laws.OneStream.Statement (.vflog2 a) := Nat.le_refl 1
theorem Laws.OneStream.vcvt (a) : Laws.OneStream.Statement (.vcvt a) := Nat.le_refl 1
theorem Laws.OneStream.vcvti (a) : Laws.OneStream.Statement (.vcvti a) := Nat.le_refl 1
theorem Laws.OneStream.vpack (a) : Laws.OneStream.Statement (.vpack a) := Nat.le_refl 1
theorem Laws.OneStream.vunpk (a) : Laws.OneStream.Statement (.vunpk a) := Nat.le_refl 1
theorem Laws.OneStream.vcbd (a) : Laws.OneStream.Statement (.vcbd a) := Nat.le_refl 1
theorem Laws.OneStream.vif (a) : Laws.OneStream.Statement (.vif a) := Nat.le_refl 1
theorem Laws.OneStream.velse (a) : Laws.OneStream.Statement (.velse a) := Nat.le_refl 1
theorem Laws.OneStream.vendif (a) : Laws.OneStream.Statement (.vendif a) := Nat.le_refl 1
theorem Laws.OneStream.vloop (a) : Laws.OneStream.Statement (.vloop a) := Nat.le_refl 1
theorem Laws.OneStream.vbrk (a) : Laws.OneStream.Statement (.vbrk a) := Nat.le_refl 1
theorem Laws.OneStream.vcont (a) : Laws.OneStream.Statement (.vcont a) := Nat.le_refl 1
theorem Laws.OneStream.vendlp (a) : Laws.OneStream.Statement (.vendlp a) := Nat.le_refl 1
theorem Laws.OneStream.mand (a) : Laws.OneStream.Statement (.mand a) := Nat.le_refl 1
theorem Laws.OneStream.mor (a) : Laws.OneStream.Statement (.mor a) := Nat.le_refl 1
theorem Laws.OneStream.mxor (a) : Laws.OneStream.Statement (.mxor a) := Nat.le_refl 1
theorem Laws.OneStream.mandn (a) : Laws.OneStream.Statement (.mandn a) := Nat.le_refl 1
theorem Laws.OneStream.mnot (a) : Laws.OneStream.Statement (.mnot a) := Nat.le_refl 1
theorem Laws.OneStream.mmov (a) : Laws.OneStream.Statement (.mmov a) := Nat.le_refl 1
theorem Laws.OneStream.mset (a) : Laws.OneStream.Statement (.mset a) := Nat.le_refl 1
theorem Laws.OneStream.vshuf (a) : Laws.OneStream.Statement (.vshuf a) := Nat.le_refl 1
theorem Laws.OneStream.vbcast (a) : Laws.OneStream.Statement (.vbcast a) := Nat.le_refl 1
theorem Laws.OneStream.vscan (a) : Laws.OneStream.Statement (.vscan a) := Nat.le_refl 1
theorem Laws.OneStream.vred (a) : Laws.OneStream.Statement (.vred a) := Nat.le_refl 1
theorem Laws.OneStream.vballot (a) : Laws.OneStream.Statement (.vballot a) := Nat.le_refl 1
theorem Laws.OneStream.vld (a) : Laws.OneStream.Statement (.vld a) := Nat.le_refl 1
theorem Laws.OneStream.vst (a) : Laws.OneStream.Statement (.vst a) := Nat.le_refl 1
theorem Laws.OneStream.vlds (a) : Laws.OneStream.Statement (.vlds a) := Nat.le_refl 1
theorem Laws.OneStream.vamo (a) : Laws.OneStream.Statement (.vamo a) := Nat.le_refl 1
theorem Laws.OneStream.vrmo (a) : Laws.OneStream.Statement (.vrmo a) := Nat.le_refl 1
theorem Laws.OneStream.vprf (a) : Laws.OneStream.Statement (.vprf a) := Nat.le_refl 1
theorem Laws.OneStream.mma (a) : Laws.OneStream.Statement (.mma a) := Nat.le_refl 1
theorem Laws.OneStream.mmaz (a) : Laws.OneStream.Statement (.mmaz a) := Nat.le_refl 1
theorem Laws.OneStream.mdist (a) : Laws.OneStream.Statement (.mdist a) := Nat.le_refl 1
theorem Laws.OneStream.mtopk (a) : Laws.OneStream.Statement (.mtopk a) := Nat.le_refl 1
theorem Laws.OneStream.mzero (a) : Laws.OneStream.Statement (.mzero a) := Nat.le_refl 1
theorem Laws.OneStream.matrixMmov (a) : Laws.OneStream.Statement (.matrixMmov a) := Nat.le_refl 1
theorem Laws.OneStream.mepi (a) : Laws.OneStream.Statement (.mepi a) := Nat.le_refl 1
theorem Laws.OneStream.mtab (a) : Laws.OneStream.Statement (.mtab a) := Nat.le_refl 1
theorem Laws.OneStream.mbias (a) : Laws.OneStream.Statement (.mbias a) := Nat.le_refl 1
theorem Laws.OneStream.mscl (a) : Laws.OneStream.Statement (.mscl a) := Nat.le_refl 1
theorem Laws.OneStream.fskip (a) : Laws.OneStream.Statement (.fskip a) := Nat.le_refl 1
theorem Laws.OneStream.mkset (a) : Laws.OneStream.Statement (.mkset a) := Nat.le_refl 1
theorem Laws.OneStream.matrixMset (a) : Laws.OneStream.Statement (.matrixMset a) := Nat.le_refl 1
theorem Laws.OneStream.madd (a) : Laws.OneStream.Statement (.madd a) := Nat.le_refl 1
theorem Laws.OneStream.mbnz (a) : Laws.OneStream.Statement (.mbnz a) := Nat.le_refl 1
theorem Laws.OneStream.mj (a) : Laws.OneStream.Statement (.mj a) := Nat.le_refl 1
theorem Laws.OneStream.marr (a) : Laws.OneStream.Statement (.marr a) := Nat.le_refl 1
theorem Laws.OneStream.mwait (a) : Laws.OneStream.Statement (.mwait a) := Nat.le_refl 1
theorem Laws.OneStream.mtok (a) : Laws.OneStream.Statement (.mtok a) := Nat.le_refl 1
theorem Laws.OneStream.mhalt (a) : Laws.OneStream.Statement (.mhalt a) := Nat.le_refl 1
theorem Laws.OneStream.mnop (a) : Laws.OneStream.Statement (.mnop a) := Nat.le_refl 1
theorem Laws.OneStream.registerWrite : Laws.OneStream.Statement .registerWrite := Nat.zero_le 1
theorem Laws.OneStream.featureNegotiation : Laws.OneStream.Statement .featureNegotiation := Nat.zero_le 1
theorem Laws.OneStream.configurePartition : Laws.OneStream.Statement .configurePartition := Nat.zero_le 1
theorem Laws.OneStream.destroyPartition : Laws.OneStream.Statement .destroyPartition := Nat.zero_le 1
theorem Laws.OneStream.setGroup : Laws.OneStream.Statement .setGroup := Nat.zero_le 1
theorem Laws.OneStream.exportWindow : Laws.OneStream.Statement .exportWindow := Nat.zero_le 1
theorem Laws.OneStream.revokeWindow : Laws.OneStream.Statement .revokeWindow := Nat.zero_le 1
theorem Laws.OneStream.clearTrigger : Laws.OneStream.Statement .clearTrigger := Nat.zero_le 1
theorem Laws.OneStream.setPowerCap : Laws.OneStream.Statement .setPowerCap := Nat.zero_le 1
theorem Laws.OneStream.setFabric : Laws.OneStream.Statement .setFabric := Nat.zero_le 1
theorem Laws.OneStream.setTrace : Laws.OneStream.Statement .setTrace := Nat.zero_le 1
theorem Laws.OneStream.loadBundle : Laws.OneStream.Statement .loadBundle := Nat.zero_le 1
theorem Laws.OneStream.managementCommandDone : Laws.OneStream.Statement .managementCommandDone := Nat.zero_le 1
theorem Laws.OneStream.attach : Laws.OneStream.Statement .attach := Nat.zero_le 1
theorem Laws.OneStream.detach : Laws.OneStream.Statement .detach := Nat.zero_le 1
theorem Laws.OneStream.stop : Laws.OneStream.Statement .stop := Nat.zero_le 1
theorem Laws.OneStream.step : Laws.OneStream.Statement .step := Nat.zero_le 1
theorem Laws.OneStream.resume : Laws.OneStream.Statement .resume := Nat.zero_le 1
theorem Laws.OneStream.setSpwatch : Laws.OneStream.Statement .setSpwatch := Nat.zero_le 1
theorem Laws.OneStream.setL2watch : Laws.OneStream.Statement .setL2watch := Nat.zero_le 1
theorem Laws.OneStream.setJournal : Laws.OneStream.Statement .setJournal := Nat.zero_le 1
theorem Laws.OneStream.checkpoint : Laws.OneStream.Statement .checkpoint := Nat.zero_le 1
theorem Laws.OneStream.replayTo : Laws.OneStream.Statement .replayTo := Nat.zero_le 1
theorem Laws.OneStream.setSample : Laws.OneStream.Statement .setSample := Nat.zero_le 1
theorem Laws.OneStream.setCounter : Laws.OneStream.Statement .setCounter := Nat.zero_le 1
theorem Laws.OneStream.getMeasurements : Laws.OneStream.Statement .getMeasurements := Nat.zero_le 1
theorem Laws.OneStream.hostWrite : Laws.OneStream.Statement .hostWrite := Nat.zero_le 1
theorem Laws.OneStream.hostRead : Laws.OneStream.Statement .hostRead := Nat.zero_le 1
theorem Laws.OneStream.functionLevelReset : Laws.OneStream.Statement .functionLevelReset := Nat.zero_le 1
theorem Laws.OneStream.flrComplete : Laws.OneStream.Statement .flrComplete := Nat.zero_le 1
theorem Laws.OneStream.pfFunctionLevelReset : Laws.OneStream.Statement .pfFunctionLevelReset := Nat.zero_le 1
theorem Laws.OneStream.powerGood : Laws.OneStream.Statement .powerGood := Nat.zero_le 1
theorem Laws.OneStream.fundamentalReset : Laws.OneStream.Statement .fundamentalReset := Nat.zero_le 1
theorem Laws.OneStream.thermal : Laws.OneStream.Statement .thermal := Nat.zero_le 1
theorem Laws.OneStream.current : Laws.OneStream.Statement .current := Nat.zero_le 1
theorem Laws.OneStream.droop : Laws.OneStream.Statement .droop := Nat.zero_le 1
theorem Laws.OneStream.budget : Laws.OneStream.Statement .budget := Nat.zero_le 1
theorem Laws.OneStream.throttleRestore : Laws.OneStream.Statement .throttleRestore := Nat.zero_le 1
theorem Laws.OneStream.thermalStop : Laws.OneStream.Statement .thermalStop := Nat.zero_le 1
theorem Laws.OneStream.linkTrain : Laws.OneStream.Statement .linkTrain := Nat.zero_le 1
theorem Laws.OneStream.laneFailure : Laws.OneStream.Statement .laneFailure := Nat.zero_le 1
theorem Laws.OneStream.linkTimeout : Laws.OneStream.Statement .linkTimeout := Nat.zero_le 1
theorem Laws.OneStream.mcastSeg : Laws.OneStream.Statement .mcastSeg := Nat.zero_le 1
theorem Laws.OneStream.memberAck : Laws.OneStream.Statement .memberAck := Nat.zero_le 1
theorem Laws.OneStream.trigSeg : Laws.OneStream.Statement .trigSeg := Nat.zero_le 1
theorem Laws.OneStream.triggerFire : Laws.OneStream.Statement .triggerFire := Nat.zero_le 1
theorem Laws.OneStream.sealQuery : Laws.OneStream.Statement .sealQuery := Nat.zero_le 1
theorem Laws.OneStream.sealReply : Laws.OneStream.Statement .sealReply := Nat.zero_le 1
theorem Laws.OneStream.staleNack : Laws.OneStream.Statement .staleNack := Nat.zero_le 1
theorem Laws.OneStream.pbarEvent : Laws.OneStream.Statement .pbarEvent := Nat.zero_le 1
theorem Laws.OneStream.pbarRelease : Laws.OneStream.Statement .pbarRelease := Nat.zero_le 1
theorem Laws.OneStream.segNack : Laws.OneStream.Statement .segNack := Nat.zero_le 1
theorem Laws.OneStream.reservedMessage : Laws.OneStream.Statement .reservedMessage := Nat.zero_le 1
theorem Laws.OneStream.peerWriteSegment : Laws.OneStream.Statement .peerWriteSegment := Nat.zero_le 1
theorem Laws.OneStream.peerReadSegment : Laws.OneStream.Statement .peerReadSegment := Nat.zero_le 1
theorem Laws.OneStream.peerWriteAck : Laws.OneStream.Statement .peerWriteAck := Nat.zero_le 1
theorem Laws.OneStream.submissionBatch : Laws.OneStream.Statement .submissionBatch := Nat.zero_le 1
theorem Laws.OneStream.submissionResume : Laws.OneStream.Statement .submissionResume := Nat.zero_le 1
theorem Laws.OneStream.heldCompletionRelease : Laws.OneStream.Statement .heldCompletionRelease := Nat.zero_le 1
theorem Laws.OneStream.eventSignal : Laws.OneStream.Statement .eventSignal := Nat.zero_le 1
theorem Laws.OneStream.gangPlacement : Laws.OneStream.Statement .gangPlacement := Nat.zero_le 1
theorem Laws.OneStream.preEmption : Laws.OneStream.Statement .preEmption := Nat.zero_le 1
theorem Laws.OneStream.spillComplete : Laws.OneStream.Statement .spillComplete := Nat.zero_le 1
theorem Laws.OneStream.replyPatch : Laws.OneStream.Statement .replyPatch := Nat.zero_le 1
theorem Laws.OneStream.deadlineExpiry : Laws.OneStream.Statement .deadlineExpiry := Nat.zero_le 1
theorem Laws.OneStream.waitForWalk : Laws.OneStream.Statement .waitForWalk := Nat.zero_le 1
theorem Laws.OneStream.vgrowGrant : Laws.OneStream.Statement .vgrowGrant := Nat.zero_le 1
theorem Laws.OneStream.waitLimitExpiry : Laws.OneStream.Statement .waitLimitExpiry := Nat.zero_le 1
theorem Laws.OneStream.preconditionsMet : Laws.OneStream.Statement .preconditionsMet := Nat.zero_le 1
theorem Laws.OneStream.laneBlockIssue : Laws.OneStream.Statement .laneBlockIssue := Nat.zero_le 1
theorem Laws.OneStream.laneBlockComplete : Laws.OneStream.Statement .laneBlockComplete := Nat.zero_le 1
theorem Laws.OneStream.laneMemoryComplete : Laws.OneStream.Statement .laneMemoryComplete := Nat.zero_le 1
theorem Laws.OneStream.scalarGlobalComplete : Laws.OneStream.Statement .scalarGlobalComplete := Nat.zero_le 1
theorem Laws.OneStream.copyStart : Laws.OneStream.Statement .copyStart := Nat.zero_le 1
theorem Laws.OneStream.copySegment : Laws.OneStream.Statement .copySegment := Nat.zero_le 1
theorem Laws.OneStream.copySegmentAck : Laws.OneStream.Statement .copySegmentAck := Nat.zero_le 1
theorem Laws.OneStream.copyAttemptFail : Laws.OneStream.Statement .copyAttemptFail := Nat.zero_le 1
theorem Laws.OneStream.copyComplete : Laws.OneStream.Statement .copyComplete := Nat.zero_le 1
theorem Laws.OneStream.collectiveStep : Laws.OneStream.Statement .collectiveStep := Nat.zero_le 1
theorem Laws.OneStream.collectiveComplete : Laws.OneStream.Statement .collectiveComplete := Nat.zero_le 1
theorem Laws.OneStream.fifoEntryLand : Laws.OneStream.Statement .fifoEntryLand := Nat.zero_le 1
theorem Laws.OneStream.matrixComplete : Laws.OneStream.Statement .matrixComplete := Nat.zero_le 1
theorem Laws.OneStream.digitArrival : Laws.OneStream.Statement .digitArrival := Nat.zero_le 1
theorem Laws.OneStream.homeWrite : Laws.OneStream.Statement .homeWrite := Nat.zero_le 1
theorem Laws.OneStream.sharerUpdate : Laws.OneStream.Statement .sharerUpdate := Nat.zero_le 1
theorem Laws.OneStream.updateAck : Laws.OneStream.Statement .updateAck := Nat.zero_le 1
theorem Laws.OneStream.homeAtomic : Laws.OneStream.Statement .homeAtomic := Nat.zero_le 1
theorem Laws.OneStream.routerMerge : Laws.OneStream.Statement .routerMerge := Nat.zero_le 1
theorem Laws.OneStream.nearCacheFill : Laws.OneStream.Statement .nearCacheFill := Nat.zero_le 1
theorem Laws.OneStream.directoryEviction : Laws.OneStream.Statement .directoryEviction := Nat.zero_le 1
theorem Laws.OneStream.lapseNotice : Laws.OneStream.Statement .lapseNotice := Nat.zero_le 1
theorem Laws.OneStream.evictionComplete : Laws.OneStream.Statement .evictionComplete := Nat.zero_le 1
theorem Laws.OneStream.epochWrapNotice : Laws.OneStream.Statement .epochWrapNotice := Nat.zero_le 1
theorem Laws.OneStream.settleNotice : Laws.OneStream.Statement .settleNotice := Nat.zero_le 1
theorem Laws.OneStream.constantFill : Laws.OneStream.Statement .constantFill := Nat.zero_le 1
theorem Laws.OneStream.patrolScrub : Laws.OneStream.Statement .patrolScrub := Nat.zero_le 1
theorem Laws.OneStream.pageWalkComplete : Laws.OneStream.Statement .pageWalkComplete := Nat.zero_le 1
theorem Laws.OneStream.translationFault : Laws.OneStream.Statement .translationFault := Nat.zero_le 1
theorem Laws.OneStream.pageResponse : Laws.OneStream.Statement .pageResponse := Nat.zero_le 1
theorem Laws.OneStream.translationTimeout : Laws.OneStream.Statement .translationTimeout := Nat.zero_le 1
theorem Laws.OneStream.watchRequest : Laws.OneStream.Statement .watchRequest := Nat.zero_le 1
theorem Laws.OneStream.watchAnswer : Laws.OneStream.Statement .watchAnswer := Nat.zero_le 1
theorem Laws.OneStream.sealedWatchExpiry : Laws.OneStream.Statement .sealedWatchExpiry := Nat.zero_le 1
theorem Laws.OneStream.scratchpadAccess : Laws.OneStream.Statement .scratchpadAccess := Nat.zero_le 1
theorem Laws.OneStream.emptyLineWake : Laws.OneStream.Statement .emptyLineWake := Nat.zero_le 1
theorem Laws.OneStream.barrierUnitEvent : Laws.OneStream.Statement .barrierUnitEvent := Nat.zero_le 1
theorem Laws.OneStream.barrierRelease : Laws.OneStream.Statement .barrierRelease := Nat.zero_le 1
theorem Laws.OneStream.phaseBarrierEvent : Laws.OneStream.Statement .phaseBarrierEvent := Nat.zero_le 1
theorem Laws.OneStream.phaseRelease : Laws.OneStream.Statement .phaseRelease := Nat.zero_le 1
theorem Laws.OneStream.haltLineArrival : Laws.OneStream.Statement .haltLineArrival := Nat.zero_le 1
theorem Laws.OneStream.dump : Laws.OneStream.Statement .dump := Nat.zero_le 1
theorem Laws.OneStream.faultRecordDrain : Laws.OneStream.Statement .faultRecordDrain := Nat.zero_le 1
theorem Laws.OneStream.l2WatchReport : Laws.OneStream.Statement .l2WatchReport := Nat.zero_le 1
theorem Laws.OneStream.stepEnd : Laws.OneStream.Statement .stepEnd := Nat.zero_le 1
theorem Laws.OneStream.checkpointDue : Laws.OneStream.Statement .checkpointDue := Nat.zero_le 1
theorem Laws.OneStream.journalSuspend : Laws.OneStream.Statement .journalSuspend := Nat.zero_le 1
theorem Laws.OneStream.replayStop : Laws.OneStream.Statement .replayStop := Nat.zero_le 1
theorem Laws.OneStream.sampleRecord : Laws.OneStream.Statement .sampleRecord := Nat.zero_le 1
theorem Laws.OneStream.doorbellWhileBusy : Laws.OneStream.Statement .doorbellWhileBusy := Nat.zero_le 1
theorem Laws.OneStream.unlistedCommandCode : Laws.OneStream.Statement .unlistedCommandCode := Nat.zero_le 1
theorem Laws.OneStream.modulePowerRemoval : Laws.OneStream.Statement .modulePowerRemoval := Nat.zero_le 1
theorem Laws.OneStream.junctionBelow85c : Laws.OneStream.Statement .junctionBelow85c := Nat.zero_le 1

end Sys2Proof
end

