-- ==== Sys2Proof/Laws/Scalar.lean ====
section
/-! SUPPORT. What the shared operations of the scalar stream do: reading registers as they stand, retiring, going on at an
address. -/

namespace Sys2Proof.Machine

theorem withRegs_quiet {s : State} {rs ws : List (BitVec 6)} (k : State → Out) (h : Quiet s (rs ++ ws)) :
    s.withRegs rs ws k = k s := by
  unfold State.withRegs
  rw [if_pos]
  rw [List.all_eq_true]
  intro r hr
  simp [h r hr]

theorem Quiet.mono {s : State} {l l' : List (BitVec 6)} (h : Quiet s l) (hs : ∀ r ∈ l', r ∈ l) : Quiet s l' :=
  fun r hr => h r (hs r hr)

theorem jumpTo_executable {s : State} {target : W64} (k : State → Out) (h : Executable s target) : s.jumpTo target k = k s := by
  obtain ⟨h1, h2, l, h3, h4, h5⟩ := h
  unfold State.jumpTo
  rw [if_neg (fun h => h h1), if_neg (Nat.not_le.2 h2), h3]
  simp [h4, h5]

end Sys2Proof.Machine
end

