-- ==== Sys2Proof/Laws/Streams.lean ====
section
/-! SUPPORT. What the operations on streams, saves and stops leave as it was. -/

namespace Sys2Proof.Machine

variable (t : Team)

/-! ## Streams -/

@[simp] theorem Team.stream_setStream (y l : Nat) (k : Link) : (t.setStream y l k).stream y l = k := by
  unfold Team.setStream Team.stream
  split <;> exact Sparse.get_set_self _ _ _ _

/-- Changing a stream changes the links or the V results in flight. -/
theorem Team.setStream_eq (y l : Nat) (k : Link) :
    t.setStream y l k = { t with links := (t.setStream y l k).links, vs := (t.setStream y l k).vs } := by
  unfold Team.setStream
  split <;> rfl

@[simp] theorem Team.stopUnwanted_nil (h : t.links = []) (n : Nat) : t.stopUnwanted n = t := by
  cases n <;> simp [Team.stopUnwanted, h]

/-- Stopping the producers that no reader needs changes the links alone. -/
theorem Team.stopUnwanted_keeps (n : Nat) : ∃ l, t.stopUnwanted n = { t with links := l } := by
  have fold (l : List (Nat × Link)) (x : Team) :
      ∃ k, l.foldl (fun (x : Team) p => x.setL (p.1 / 1024) (p.1 % 1024) p.2.finish) x = { x with links := k } := by
    induction l generalizing x with
    | nil => exact ⟨_, rfl⟩
    | cons p l ih =>
      obtain ⟨k, h⟩ := ih (x.setL (p.1 / 1024) (p.1 % 1024) p.2.finish)
      exact ⟨k, h⟩
  induction n generalizing t with
  | zero => exact ⟨_, rfl⟩
  | succ n ih =>
    unfold Team.stopUnwanted
    dsimp only
    split
    · exact ⟨_, rfl⟩
    · obtain ⟨k, h⟩ := fold (t.links.filter fun p => p.2.pend && !t.wanted (p.1 / 1024) (p.1 % 1024)) t
      rw [h]
      obtain ⟨l, h⟩ := ih { t with links := k }
      exact ⟨l, h⟩

/-- A save or a stop of a lane stream changes its links and its V results in flight alone (spec/20 R336, R338). -/
theorem Team.saveStreams_keeps : ∃ l v, t.saveStreams = { t with links := l, vs := v } := by
  unfold Team.saveStreams
  obtain ⟨l, h⟩ := t.stopUnwanted_keeps 9
  rw [h]
  exact ⟨_, _, rfl⟩

@[simp] theorem Team.s_saveStreams : t.saveStreams.s = t.s := by
  obtain ⟨_, _, h⟩ := t.saveStreams_keeps; rw [h]
@[simp] theorem Team.v_saveStreams : t.saveStreams.v = t.v := by
  obtain ⟨_, _, h⟩ := t.saveStreams_keeps; rw [h]
@[simp] theorem Team.m_saveStreams : t.saveStreams.m = t.m := by
  obtain ⟨_, _, h⟩ := t.saveStreams_keeps; rw [h]
@[simp] theorem Team.pc_saveStreams : t.saveStreams.pc = t.pc := by
  obtain ⟨_, _, h⟩ := t.saveStreams_keeps; rw [h]
@[simp] theorem Team.rwc_saveStreams : t.saveStreams.rwc = t.rwc := by
  obtain ⟨_, _, h⟩ := t.saveStreams_keeps; rw [h]
@[simp] theorem Team.tok_saveStreams : t.saveStreams.tok = t.tok := by
  obtain ⟨_, _, h⟩ := t.saveStreams_keeps; rw [h]
@[simp] theorem Team.wait_saveStreams : t.saveStreams.wait = t.wait := by
  obtain ⟨_, _, h⟩ := t.saveStreams_keeps; rw [h]
@[simp] theorem Team.core_saveStreams : t.saveStreams.core = t.core := by
  obtain ⟨_, _, h⟩ := t.saveStreams_keeps; rw [h]
@[simp] theorem Team.stopped_saveStreams : t.saveStreams.stopped = t.stopped := by
  obtain ⟨_, _, h⟩ := t.saveStreams_keeps; rw [h]
@[simp] theorem Team.running_saveStreams : t.saveStreams.running = t.running := by
  obtain ⟨_, _, h⟩ := t.saveStreams_keeps; rw [h]

/-! ## Early decisions -/

/-- With no VFCMPD undecided there is nothing to decide (spec/04 R90). -/
@[simp] theorem Team.decideIn_nil (h : t.cmpd = []) (l : List Nat) : t.decideIn l = t := by simp [Team.decideIn, h]

/-- With nothing in flight to a V register nothing ripens (spec/20 R331). -/
@[simp] theorem Team.ripen_nil (h : t.vs = []) : t.ripen = t := by simp [Team.ripen, h]

/-! ## Stops (spec/16 R289) -/

variable (s : State)

@[simp] theorem State.mem_haltLane (u : Nat) : (s.haltLane u).mem = s.mem := rfl
@[simp] theorem State.ops_haltLane (u : Nat) : (s.haltLane u).ops = s.ops := rfl
@[simp] theorem State.gang_haltLane (u g : Nat) : (s.haltLane u).gang g = s.gang g := rfl
@[simp] theorem State.mem_haltSeq (g : Nat) : (s.haltSeq g).mem = s.mem := rfl
@[simp] theorem State.teams_haltSeq (g : Nat) : (s.haltSeq g).teams = s.teams := rfl
@[simp] theorem State.mem_haltEngines (k : Nat) : (s.haltEngines k).mem = s.mem := rfl
@[simp] theorem State.teams_haltEngines (k : Nat) : (s.haltEngines k).teams = s.teams := rfl
@[simp] theorem State.mem_haltTeam (u : Nat) : (s.haltTeam u).mem = s.mem := rfl
@[simp] theorem State.ops_haltTeam (u : Nat) : (s.haltTeam u).ops = s.ops := rfl

/-- Both streams of a team stop, with the cycle of the stop in their records; one that has stopped already keeps its own. -/
theorem State.team_haltTeam (u : Nat) : (s.haltTeam u).team u =
    let x := s.team u
    let now := s.cycleReg (s.teamCore u)
    let y := if x.laneStopped then x else { x.saveStreams with laneStopped := true, laneStopAt := now }
    if x.stopped then y else { y with stopped := true, stopAt := now } := by
  unfold State.haltTeam
  rw [State.team_modTeam_self]
  unfold State.haltLane
  rw [State.team_modTeam_self]
  dsimp only
  split <;> simp

end Sys2Proof.Machine
end

