-- ==== Sys2Proof/Tests/Slice0.lean ====
section
/-! SUPPORT. The model's own tests: well-formedness, decoding, values that the spec works out, and for each statement a concrete
state in which its hypotheses hold together. -/

open Sys2Proof Sys2Proof.Machine
namespace Sys2Proof.Machine.Tests

set_option Elab.async false

/-- A booted device whose gang 0, on core 0, has one team, at code address 0x100000. -/
def scalarState : State := { State.reset.withFetchWord 32 0 with agenda := [] }
/-- The same with a lane block at its first instruction. -/
def laneState : State :=
  { State.reset.withFetchWord 96 0 with agenda := [] }
/-- The same with the team a copy team. -/
def copyState : State := scalarState.modTm fun t => { t with copy := true }
/-- The same with the sequencer about to issue. -/
def seqState : State := { State.reset.withFetchWord 64 0 with agenda := [] }
/-- Core 0 holds a translation of the page at `va`. -/
def withPage (s : State) (va : Nat) (dw0 dw1 : W64) : State :=
  s.modCore 0 fun c => { c with tlb := [{ part := 0, vpage := va / 4096, bits := 12, dw0 := dw0, dw1 := dw1 }] }
/-- A token of the team in a state. -/
def withTok (s : State) (n : Nat) (st : TokSt) : State :=
  s.modTm fun t => { t with tok := t.tok.set n { Tok.blank with st := st } }
/-- A wait of the team under way. -/
def withWait (s : State) (w : Wait) : State := s.modTm fun t => { t with wait := some w }

/-- The scalar instruction of a word, if it is one. -/
def scalarOf (w next : BitVec 32) : Option Instr := (decodeScalar w next).toOption
/-- The lane instruction of a word, if it is one. -/
def laneOf (w : BitVec 96) : Option Instr := (decodeLane w).toOption
/-- The matrix instruction of a word, if it is one. -/
def matrixOf (w : BitVec 64) : Option Instr := (decodeMatrix w).toOption

/-! ## Well-formedness: an ill-formed term for each check -/

/-- spec/02 R38, R46: the scalar words. -/
theorem test_wellFormed_scalar :
    WellFormed (.sbfx 1 2 false 1 63) = false ∧ WellFormed (.sbfx 1 2 false 0 63) = true ∧ WellFormed (.sloop 0 4) = false ∧
    WellFormed (.chk 1 0 4) = false ∧ WellFormed (.srd 1 0x004) = false ∧ WellFormed (.swr 1 0x008) = false := by decide
/-- spec/01 R29, spec/02 R46 reason 3: a code that its position does not admit: M0 as a destination, reserved codes 264 and 366, a V
register where a link, a mask or the immediate is read. -/
theorem test_wellFormed_operands :
    WellFormed (.vadd { LaneF.plain with dst := 272 }) = false ∧ WellFormed (.vadd { LaneF.plain with sa := 264 }) = false ∧
    WellFormed (.vadd { LaneF.plain with sb := 366 }) = false ∧ WellFormed (.vmad { LaneF.plain with sc := 510 }) = false ∧
    WellFormed (.vfadd { LaneF.plain with dst := 264 }) = false ∧ WellFormed (.vtrim { LaneF.plain with sa := 5 }) = false ∧
    WellFormed (.mand { LaneF.plain with dst := 272, sa := 272, sb := 272 }) = false ∧
    WellFormed (.mand { LaneF.plain with dst := 273, sa := 5, sb := 272 }) = false ∧
    WellFormed (.mset { LaneF.plain with dst := 273, sa := 5 }) = false ∧ WellFormed (.vbcast { LaneF.plain with sb := 5 }) = false ∧
    WellFormed (.vballot { LaneF.plain with dst := 5 }) = false ∧ WellFormed (.vred { LaneF.plain with dst := 273 }) = false ∧
    WellFormed (.vld { LaneF.plain with dst := 273 }) = false ∧ WellFormed (.vld { LaneF.plain with sa := 256 }) = false ∧
    WellFormed (.vamo { LaneF.plain with sb := 511 }) = false := by decide
/-- spec/02 R40 to R42, reason 4: a field that is not read, a reserved bit. -/
theorem test_wellFormed_reserved :
    WellFormed (.vadd { LaneF.plain with sc := 1 }) = false ∧ WellFormed (.vadd { LaneF.plain with ch := true }) = false ∧
    WellFormed (.vadd { LaneF.plain with imm := 1 }) = false ∧ WellFormed (.vadd { LaneF.plain with md := 4 }) = false ∧
    WellFormed (.vcmp { LaneF.plain with md := 1 }) = false ∧ WellFormed (.vtrim { LaneF.plain with sa := 256, md := 0x40 }) = false ∧
    WellFormed (.vcvt { LaneF.plain with md := 1 }) = false ∧ WellFormed (.vcvt { LaneF.plain with sc := 0x100 }) = false ∧
    WellFormed (.vpack { LaneF.plain with sc := 0x10, imm := 1 }) = false ∧ WellFormed (.vif { LaneF.plain with md := 1 }) = false ∧
    WellFormed (.vballot { LaneF.plain with dst := 288, imm := 32 }) = false ∧ WellFormed (.vld { LaneF.plain with sc := 32 }) = false ∧
    WellFormed (.vld { LaneF.plain with imm := 0x1000000 }) = false := by decide
/-- spec/02 R41 to R43, spec/04 R81, R94, R102 to R104, reason 5: reserved values, and what is not admitted together. -/
theorem test_wellFormed_values :
    WellFormed (.vadd { LaneF.plain with md := 0xC0 }) = false ∧ WellFormed (.vcmp { LaneF.plain with md := 0x18 }) = false ∧
    WellFormed (.vabs { LaneF.plain with md := 0x20 }) = false ∧ WellFormed (.vbfx { LaneF.plain with md := 0x40 }) = false ∧
    WellFormed (.vbfi { LaneF.plain with md := 0 }) = false ∧ WellFormed (.vfadd { LaneF.plain with md := 0x28 }) = false ∧
    WellFormed (.vfcmp { LaneF.plain with md := 0x30 }) = false ∧ WellFormed (.vfadd { LaneF.plain with dst := 256, md := 0x80 }) = false ∧
    WellFormed (.vcvt { LaneF.plain with md := 0xA0 }) = false ∧ WellFormed (.vcvt { LaneF.plain with sc := 0x05 }) = false ∧
    WellFormed (.vshuf { LaneF.plain with md := 0xC0 }) = false ∧ WellFormed (.vscan { LaneF.plain with md := 0x18 + 0xC0 }) = false ∧
    WellFormed (.vld { LaneF.plain with md := 0x28 }) = false ∧ WellFormed (.vld { LaneF.plain with md := 0x01 }) = false ∧
    WellFormed (.vld { LaneF.plain with dst := 1, md := 0x18 }) = false ∧ WellFormed (.vst { LaneF.plain with md := 0x02 }) = false ∧
    WellFormed (.vld { LaneF.plain with sa := 1 }) = false ∧ WellFormed (.vamo { LaneF.plain with md := 0x08 }) = false ∧
    WellFormed (.vrmo { LaneF.plain with imm := 0xE000000 }) = false ∧ WellFormed (.vprf { LaneF.plain with md := 0x40 }) = false := by decide
/-- spec/01 R30, spec/02 R44, spec/08 R171 to R180: the matrix words. -/
theorem test_wellFormed_matrix :
    WellFormed (.mma { MatF.plain with fb := 1, imm := 1 }) = false ∧ WellFormed (.mma { MatF.plain with fb := 1, epi := 1 }) = false ∧
    WellFormed (.mma { MatF.plain with fb := 1, bw := 3 }) = false ∧ WellFormed (.mma { MatF.plain with fb := 1, ifmt := 8 }) = false ∧
    WellFormed (.mma MatF.plain) = false ∧ WellFormed (.mtopk { MatF.plain with imm := 0x200 }) = false ∧
    WellFormed (.matrixMmov { MatF.plain with imm := 0x18000 }) = false ∧ WellFormed (.mepi { MatF.plain with imm := 0x400, epi := 2 }) = false ∧
    WellFormed (.mepi { MatF.plain with epi := 8 }) = false ∧ WellFormed (.mkset { MatF.plain with imm := 1 }) = false ∧
    WellFormed (.mkset { MatF.plain with k := 1, imm := 17 }) = false ∧ WellFormed (.matrixMset { MatF.plain with imm := 0x1800 }) = false ∧
    WellFormed (.madd { MatF.plain with imm := 0x1010 }) = false ∧ WellFormed (.marr MatF.plain) = false ∧ WellFormed (.mwait MatF.plain) = false ∧
    WellFormed (.mtok { MatF.plain with imm := 0x4000 }) = false ∧ WellFormed (.mhalt { MatF.plain with imm := 1 }) = false := by decide

/-! ## Decoding: every constructor from a word written out from its encoding (spec/01 R25 to R30, spec/02 R37 to R44) -/


theorem test_decode_alu :
    scalarOf 0b0000001_000101_000110_000111_0000000 0 = some (.sadd 5 6 7) ∧
    scalarOf 0b0000001_000101_000110_000111_0000001 0 = some (.ssub 5 6 7) ∧
    scalarOf 0b0000001_000101_000110_000111_0000010 0 = some (.sand 5 6 7) ∧
    scalarOf 0b0000001_000101_000110_000111_0000011 0 = some (.sor 5 6 7) ∧
    scalarOf 0b0000001_000101_000110_000111_0000100 0 = some (.sxor 5 6 7) ∧
    scalarOf 0b0000001_000101_000110_000111_0000101 0 = some (.sshl 5 6 7) ∧
    scalarOf 0b0000001_000101_000110_000111_0000110 0 = some (.sshr 5 6 7) ∧
    scalarOf 0b0000001_000101_000110_000111_0000111 0 = some (.ssra 5 6 7) ∧
    scalarOf 0b0000001_000101_000110_000111_0001000 0 = some (.sminS 5 6 7) ∧
    scalarOf 0b0000001_000101_000110_000111_0001001 0 = some (.smaxS 5 6 7) ∧
    scalarOf 0b0000001_000101_000110_000111_0001010 0 = some (.sminN 5 6 7) ∧
    scalarOf 0b0000001_000101_000110_000111_0001011 0 = some (.smaxN 5 6 7) ∧
    scalarOf 0b0000001_000101_000110_000111_0001100 0 = some (.ssltS 5 6 7) ∧
    scalarOf 0b0000001_000101_000110_000111_0001101 0 = some (.ssltN 5 6 7) ∧
    scalarOf 0b0000001_000101_000110_000111_0001110 0 = some (.sseq 5 6 7) ∧
    scalarOf 0b0000001_000101_000110_000111_0001111 0 = some (.ssne 5 6 7) ∧
    scalarOf 0b0000001_000101_000110_0000000010000 0 = some (.sclz 5 6) ∧
    scalarOf 0b0000001_000101_000110_0000000010001 0 = some (.spop 5 6) ∧
    scalarOf 0b0000010_000101_000110_000111_0000000 0 = some (.smul 5 6 7) ∧
    scalarOf 0b0000010_000101_000110_000111_0000001 0 = some (.smulhS 5 6 7) ∧
    scalarOf 0b0000010_000101_000110_000111_0000010 0 = some (.smulhN 5 6 7) ∧
    scalarOf 0b0000010_000101_000110_000111_0000011 0 = some (.sdivS 5 6 7) ∧
    scalarOf 0b0000010_000101_000110_000111_0000100 0 = some (.sdivN 5 6 7) ∧
    scalarOf 0b0000010_000101_000110_000111_0000101 0 = some (.sremS 5 6 7) ∧
    scalarOf 0b0000010_000101_000110_000111_0000110 0 = some (.sremN 5 6 7) := by decide

theorem test_decode_imm :
    scalarOf 0b0000011_000101_000110_1111111111100 0 = some (.saddi 5 6 0x1ffc) ∧
    scalarOf 0b0000100_000101_000110_1111111111100 0 = some (.sandi 5 6 0x1ffc) ∧
    scalarOf 0b0000101_000101_000110_1111111111100 0 = some (.sori 5 6 0x1ffc) ∧
    scalarOf 0b0000110_000101_000110_1111111111100 0 = some (.sxori 5 6 0x1ffc) ∧
    scalarOf 0b0000111_000101_000110_1111111111100 0 = some (.sslti 5 6 0x1ffc) ∧
    scalarOf 0b0001000_000101_000110_0000000_101101 0 = some (.sshli 5 6 45) ∧
    scalarOf 0b0001001_000101_000110_0000000_101101 0 = some (.sshri 5 6 45) ∧
    scalarOf 0b0001010_000101_000110_0000000_101101 0 = some (.ssrai 5 6 45) ∧
    scalarOf 0b0001011_000101_000110_1_001100_101000 0 = some (.sbfx 5 6 true 12 40) ∧
    scalarOf 0b0001100_0100100011010001010110100 0x0628B890 = some (.simm 0x91a2b4 0x0628B890) := by decide

theorem test_decode_control :
    scalarOf 0b0010000_000110_000111_1111111110000 0 = some (.sbeq 6 7 0x1ff0) ∧
    scalarOf 0b0010001_000110_000111_1111111110000 0 = some (.sbne 6 7 0x1ff0) ∧
    scalarOf 0b0010010_000110_000111_1111111110000 0 = some (.sbltS 6 7 0x1ff0) ∧
    scalarOf 0b0010011_000110_000111_1111111110000 0 = some (.sbgeS 6 7 0x1ff0) ∧
    scalarOf 0b0010100_000110_000111_1111111110000 0 = some (.sbltN 6 7 0x1ff0) ∧
    scalarOf 0b0010101_000110_000111_1111111110000 0 = some (.sbgeN 6 7 0x1ff0) ∧
    scalarOf 0b0010110_000101_1111111111100000001 0 = some (.sjal 5 0x7ff01) ∧
    scalarOf 0b0010111_000101_000110_0000000000000 0 = some (.sjr 5 6) ∧
    scalarOf 0b0011000_00_1011_000000_1111111110000 0 = some (.sbany 11 0x1ff0) ∧
    scalarOf 0b0011001_00_1011_000000_1111111110000 0 = some (.sball 11 0x1ff0) ∧
    scalarOf 0b0011010_000110_000000_1111111110000 0 = some (.sloop 6 0x1ff0) := by decide

theorem test_decode_pad :
    scalarOf 0b0100000_000101_000110_1111111111100 0 = some (.sldD 5 6 0x1ffc) ∧
    scalarOf 0b0100001_000101_000110_1111111111100 0 = some (.sldW 5 6 0x1ffc) ∧
    scalarOf 0b0100010_000101_000110_1111111111100 0 = some (.sstD 5 6 0x1ffc) ∧
    scalarOf 0b0100011_000101_000110_1111111111100 0 = some (.sstW 5 6 0x1ffc) ∧
    scalarOf 0b0100100_000101_000110_1111111111100 0 = some (.sldc 5 6 0x1ffc) ∧
    scalarOf 0b0100101_000000_000110_000111_0000000 0 = some (.sempty 6 7) := by decide

theorem test_decode_async :
    scalarOf 0b0101000_10011_001001_000110_000111_0_1 0 = some (.sldg 19 9 6 7 true) ∧
    scalarOf 0b0101001_10011_001001_000110_000111_0_1 0 = some (.sstg 19 9 6 7 true) ∧
    scalarOf 0b0110000_10011_001001_10101001010001 0 = some (.lrun 19 9 0x2a51) ∧
    scalarOf 0b0110001_10011_001001_000110_00000000 0 = some (.lrunr 19 9 6) := by decide

theorem test_decode_token :
    scalarOf 0b0111000_000000_000110_0000000000000 0 = some (.twait 6) ∧
    scalarOf 0b0111000_000101_000110_0000000000001 0 = some (.ttry 5 6) ∧
    scalarOf 0b0111000_000101_000110_000111_0000010 0 = some (.twaitt 5 6 7) ∧
    scalarOf 0b0111000_000000_000110_0000000000011 0 = some (.tclr 6) ∧
    scalarOf 0b0111000_000101_000110_0000000000100 0 = some (.tstat 5 6) ∧
    scalarOf 0b0111000_000101_000110_0000000000101 0 = some (.tany 5 6) := by decide

theorem test_decode_barrier :
    scalarOf 0b0111001_00000000_1101_0000000000000 0 = some (.barArr 13) ∧
    scalarOf 0b0111001_00000000_1101_0000000000001 0 = some (.barWait 13) ∧
    scalarOf 0b0111001_00000000_1101_0000000000010 0 = some (.barSync 13) ∧
    scalarOf 0b0111001_000000000_110_0000000000011 0 = some (.join 6) ∧
    scalarOf 0b0111001_000000000_110_0000000000100 0 = some (.leave 6) ∧
    scalarOf 0b0111001_00000000_1101_000_110_0000101 0 = some (.bind 13 6) ∧
    scalarOf 0b0111001_000000_000110_0000000000110 0 = some (.evsig 6) ∧
    scalarOf 0b0111001_000101_000_110_0000000000111 0 = some (.grp 5 6) := by decide

theorem test_decode_budget :
    scalarOf 0b0111010_000101_000110_0000000000000 0 = some (.vgrow 5 6) ∧
    scalarOf 0b0111010_000101_000110_0000000000001 0 = some (.vgrowT 5 6) ∧
    scalarOf 0b0111010_000000_000110_0000000000010 0 = some (.vshrink 6) ∧
    scalarOf 0b0111011_000000_000110_0000000000000 0 = some (.fmtset 6) ∧
    scalarOf 0b0111011_000101_0000000000000000001 0 = some (.fmtget 5) ∧
    scalarOf 0b0111011_0000000000000_10101_0000010 0 = some (.fmtseti 21) := by decide

theorem test_decode_copy :
    scalarOf 0b1000000_10011_001001_000110_0000_10_00 0 = some (.cpy 19 9 6 2) ∧
    scalarOf 0b1000000_10011_001001_000110_000_101_01 0 = some (.cbld 19 9 6 5) ∧
    scalarOf 0b1000000_10011_001001_000110_00000010 0 = some (.cpbi 19 9 6) ∧
    scalarOf 0b1000001_10011_001001_000110_00000000 0 = some (.xred 19 9 6) ∧
    scalarOf 0b1000001_10011_001001_000110_00000001 0 = some (.xgat 19 9 6) ∧
    scalarOf 0b1000001_10011_001001_000110_00000010 0 = some (.xa2a 19 9 6) := by decide

theorem test_decode_phase :
    scalarOf 0b1001000_10011_001001_000110_000111_00 0 = some (.pinit 19 9 6 7) ∧
    scalarOf 0b1001000_10011_001001_000110_000111_01 0 = some (.pexp 19 9 6 7) ∧
    scalarOf 0b1001000_10011_001001_000110_00000010 0 = some (.parr 19 9 6) ∧
    scalarOf 0b1001000_10011_001001_000110_00000011 0 = some (.texp 19 9 6) ∧
    scalarOf 0b1001001_000101_000110_000111_0000000 0 = some (.pwait 5 6 7) ∧
    scalarOf 0b1001001_000101_000110_000111_0000001 0 = some (.ptry 5 6 7) := by decide

theorem test_decode_fence :
    scalarOf 0b1001010_0000000000000000000_010_001 0 = some (.fence 1 2) ∧
    scalarOf 0b1001011_0000_10_00_1001_1111111110000 0 = some (.chk 2 9 0x1ff0) ∧
    scalarOf 0b1001100_0000000000_10_0000000000000 0 = some (.wclr 2) := by decide

theorem test_decode_fabric :
    scalarOf 0b1010000_10011_001001_000110_000111_00 0 = some (.trig 19 9 6 7) ∧
    scalarOf 0b1010000_10011_001001_000110_000111_01 0 = some (.seal 19 9 6 7) ∧
    scalarOf 0b1010000_10011_001001_000110_00000010 0 = some (.unseal 19 9 6) ∧
    scalarOf 0b1010000_10011_001001_000110_00000011 0 = some (.vref 19 9 6) := by decide

theorem test_decode_system :
    scalarOf 0b1011000_000000000000_0000101010101 0 = some (.strap 0x155) ∧
    scalarOf 0b1011001_0000000000000000000000000 0 = some .tret ∧
    scalarOf 0b1011001_0000000000000000000000001 0 = some .exit ∧
    scalarOf 0b1011001_0000000000000000000000010 0 = some .brk ∧
    scalarOf 0b1011001_0000000000000000000000011 0 = some .nop ∧
    scalarOf 0b1011001_000101_000000010100_0000100 0 = some (.srd 5 20) ∧
    scalarOf 0b1011001_000101_000000001001_0000101 0 = some (.swr 5 9) := by decide

theorem test_decode_lane_int :
    laneOf 0b0000000000_0_0000_0_0000_011001000_100100010_100011000_000000000_01100000_00000000000000000000000000000000 = some (.vadd { LaneF.plain with dst := 200, sa := 290, sb := 280, md := 96 }) ∧
    laneOf 0b0000000001_0_0000_0_0000_011001000_100100010_100011000_000000000_01100000_00000000000000000000000000000000 = some (.vsub { LaneF.plain with dst := 200, sa := 290, sb := 280, md := 96 }) ∧
    laneOf 0b0000000010_0_0000_0_0000_011001000_100100010_100011000_000000000_01100000_00000000000000000000000000000000 = some (.vmul { LaneF.plain with dst := 200, sa := 290, sb := 280, md := 96 }) ∧
    laneOf 0b0000000011_0_0000_0_0000_011001000_100100010_100011000_000000000_01100000_00000000000000000000000000000000 = some (.vmulh { LaneF.plain with dst := 200, sa := 290, sb := 280, md := 96 }) ∧
    laneOf 0b0000000100_0_0000_0_0000_000000100_101100001_011111111_100101100_10000000_00000000000000000000000000000000 = some (.vmad { LaneF.plain with dst := 4, sa := 353, sb := 255, sc := 300, md := 128 }) ∧
    laneOf 0b0000000101_0_0000_0_0000_011001000_100100010_100011000_000000000_01100000_00000000000000000000000000000000 = some (.vmin { LaneF.plain with dst := 200, sa := 290, sb := 280, md := 96 }) ∧
    laneOf 0b0000000110_0_0000_0_0000_011001000_100100010_100011000_000000000_01100000_00000000000000000000000000000000 = some (.vmax { LaneF.plain with dst := 200, sa := 290, sb := 280, md := 96 }) ∧
    laneOf 0b0000000111_0_0000_0_0111_000000000_111111111_000000000_000000000_01000000_10001001101010111100110111101111 = some (.vabs { LaneF.plain with msk := 7, dst := 0, sa := 511, md := 64, imm := 0x89abcdef }) ∧
    laneOf 0b0000001000_0_0000_0_0111_000000000_111111111_000000000_000000000_01000000_10001001101010111100110111101111 = some (.vneg { LaneF.plain with msk := 7, dst := 0, sa := 511, md := 64, imm := 0x89abcdef }) ∧
    laneOf 0b0000001001_0_0000_0_0000_011001000_100100010_100011000_000000000_01100000_00000000000000000000000000000000 = some (.vand { LaneF.plain with dst := 200, sa := 290, sb := 280, md := 96 }) ∧
    laneOf 0b0000001010_0_0000_0_0000_011001000_100100010_100011000_000000000_01100000_00000000000000000000000000000000 = some (.vor { LaneF.plain with dst := 200, sa := 290, sb := 280, md := 96 }) ∧
    laneOf 0b0000001011_0_0000_0_0000_011001000_100100010_100011000_000000000_01100000_00000000000000000000000000000000 = some (.vxor { LaneF.plain with dst := 200, sa := 290, sb := 280, md := 96 }) ∧
    laneOf 0b0000001100_0_0000_0_0111_000000000_111111111_000000000_000000000_01000000_10001001101010111100110111101111 = some (.vnot { LaneF.plain with msk := 7, dst := 0, sa := 511, md := 64, imm := 0x89abcdef }) ∧
    laneOf 0b0000001101_0_0000_0_0000_011001000_100100010_100011000_000000000_01100000_00000000000000000000000000000000 = some (.vshl { LaneF.plain with dst := 200, sa := 290, sb := 280, md := 96 }) ∧
    laneOf 0b0000001110_0_0000_0_0000_011001000_100100010_100011000_000000000_01100000_00000000000000000000000000000000 = some (.vshr { LaneF.plain with dst := 200, sa := 290, sb := 280, md := 96 }) ∧
    laneOf 0b0000001111_0_0000_0_0000_011001000_100100010_100011000_000000000_01100000_00000000000000000000000000000000 = some (.vsra { LaneF.plain with dst := 200, sa := 290, sb := 280, md := 96 }) ∧
    laneOf 0b0000010000_0_0000_0_0000_011001000_100100010_100011000_000000000_01100000_00000000000000000000000000000000 = some (.vrot { LaneF.plain with dst := 200, sa := 290, sb := 280, md := 96 }) ∧
    laneOf 0b0000010001_0_0000_0_0111_000000000_111111111_000000000_000000000_01000000_10001001101010111100110111101111 = some (.vclz { LaneF.plain with msk := 7, dst := 0, sa := 511, md := 64, imm := 0x89abcdef }) ∧
    laneOf 0b0000010010_0_0000_0_0111_000000000_111111111_000000000_000000000_01000000_10001001101010111100110111101111 = some (.vpop { LaneF.plain with msk := 7, dst := 0, sa := 511, md := 64, imm := 0x89abcdef }) ∧
    laneOf 0b0000010011_0_0000_0_0000_000000100_101100001_011111111_100101100_00100000_00000000000000000000000000000000 = some (.vbfx { LaneF.plain with dst := 4, sa := 353, sb := 255, sc := 300, md := 32 }) ∧
    laneOf 0b0000010100_0_0000_0_0000_000000100_101100001_011111111_100101100_00100000_00000000000000000000000000000000 = some (.vbfi { LaneF.plain with dst := 4, sa := 353, sb := 255, sc := 300, md := 32 }) ∧
    laneOf 0b0000010101_0_0000_0_0000_000000100_101100001_011111111_100101100_10000000_00000000000000000000000000000000 = some (.vsel { LaneF.plain with dst := 4, sa := 353, sb := 255, sc := 300, md := 128 }) ∧
    laneOf 0b0000010110_0_0000_0_0111_000000000_111111111_000000000_000000000_01000000_10001001101010111100110111101111 = some (.vmov { LaneF.plain with msk := 7, dst := 0, sa := 511, md := 64, imm := 0x89abcdef }) ∧
    laneOf 0b0000010111_1_0000_0_0000_100011111_000000001_000000010_000000000_10110100_00000000000000000000000000000000 = some (.vcmp { LaneF.plain with e := true, dst := 287, sa := 1, sb := 2, md := 180 }) := by decide

theorem test_decode_lane_float :
    laneOf 0b0001000000_0_0000_0_0000_000001010_000001011_000001100_000000000_11010000_00000000000000000000000000000000 = some (.vfadd { LaneF.plain with dst := 10, sa := 11, sb := 12, md := 208 }) ∧
    laneOf 0b0001000001_0_0000_0_0000_000001010_000001011_000001100_000000000_11010000_00000000000000000000000000000000 = some (.vfsub { LaneF.plain with dst := 10, sa := 11, sb := 12, md := 208 }) ∧
    laneOf 0b0001000010_0_0000_0_0000_000001010_000001011_000001100_000000000_11010000_00000000000000000000000000000000 = some (.vfmul { LaneF.plain with dst := 10, sa := 11, sb := 12, md := 208 }) ∧
    laneOf 0b0001000011_0_1001_1_0000_100000111_100000000_000000010_100000111_01100000_00000000000000000000000000000000 = some (.vfma { LaneF.plain with stall := 9, ch := true, dst := 263, sa := 256, sb := 2, sc := 263, md := 96 }) ∧
    laneOf 0b0001000100_0_1001_1_0000_100000111_100000000_000000010_100000111_01100000_00000000000000000000000000000000 = some (.vfms { LaneF.plain with stall := 9, ch := true, dst := 263, sa := 256, sb := 2, sc := 263, md := 96 }) ∧
    laneOf 0b0001000101_0_1001_1_0000_100000111_100000000_000000010_100000111_01100000_00000000000000000000000000000000 = some (.vfnma { LaneF.plain with stall := 9, ch := true, dst := 263, sa := 256, sb := 2, sc := 263, md := 96 }) ∧
    laneOf 0b0001000110_0_0000_0_0000_000001010_000001011_000001100_000000000_11010000_00000000000000000000000000000000 = some (.vfmin { LaneF.plain with dst := 10, sa := 11, sb := 12, md := 208 }) ∧
    laneOf 0b0001000111_0_0000_0_0000_000001010_000001011_000001100_000000000_11010000_00000000000000000000000000000000 = some (.vfmax { LaneF.plain with dst := 10, sa := 11, sb := 12, md := 208 }) ∧
    laneOf 0b0001001000_0_0000_0_0000_000001010_000001011_000001100_000000000_11010000_00000000000000000000000000000000 = some (.vfdiv { LaneF.plain with dst := 10, sa := 11, sb := 12, md := 208 }) ∧
    laneOf 0b0001001001_0_0000_0_0000_000001010_000001011_000000000_000000000_10011000_00000000000000000000000000000000 = some (.vfsqrt { LaneF.plain with dst := 10, sa := 11, md := 152 }) ∧
    laneOf 0b0001001010_0_0000_0_0000_000001010_000001011_000000000_000000000_10011000_00000000000000000000000000000000 = some (.vfrcp { LaneF.plain with dst := 10, sa := 11, md := 152 }) ∧
    laneOf 0b0001001011_0_0000_0_0000_000001010_000001011_000000000_000000000_10011000_00000000000000000000000000000000 = some (.vfrsq { LaneF.plain with dst := 10, sa := 11, md := 152 }) ∧
    laneOf 0b0001001100_0_0000_0_0000_000001010_000001011_000000000_000000000_10011000_00000000000000000000000000000000 = some (.vfabs { LaneF.plain with dst := 10, sa := 11, md := 152 }) ∧
    laneOf 0b0001001101_0_0000_0_0000_000001010_000001011_000000000_000000000_10011000_00000000000000000000000000000000 = some (.vfneg { LaneF.plain with dst := 10, sa := 11, md := 152 }) ∧
    laneOf 0b0001001110_0_0000_0_0000_100010001_000000001_000000010_000000000_10101000_00000000000000000000000000000000 = some (.vfcmp { LaneF.plain with dst := 273, sa := 1, sb := 2, md := 168 }) ∧
    laneOf 0b0001001111_0_0000_0_0000_100011111_100000100_000000010_000000000_01101100_00000000000000000000000000000000 = some (.vfcmpd { LaneF.plain with dst := 287, sa := 260, sb := 2, md := 108 }) ∧
    laneOf 0b0001010000_0_0000_0_0000_000000000_100000111_000000000_000000000_00000000_00000000000000000000000000000000 = some (.vtrim { LaneF.plain with sa := 263 }) ∧
    laneOf 0b0001010001_0_0000_0_0000_000001010_000001011_000000000_000000000_10011000_00000000000000000000000000000000 = some (.vfcls { LaneF.plain with dst := 10, sa := 11, md := 152 }) ∧
    laneOf 0b0001010010_0_0000_0_0000_000001010_000001011_000000000_000000000_10011000_00000000000000000000000000000000 = some (.vfexp2 { LaneF.plain with dst := 10, sa := 11, md := 152 }) ∧
    laneOf 0b0001010011_0_0000_0_0000_000001010_000001011_000000000_000000000_10011000_00000000000000000000000000000000 = some (.vflog2 { LaneF.plain with dst := 10, sa := 11, md := 152 }) := by decide

theorem test_decode_lane_cvt :
    laneOf 0b0010000000_0_0000_0_0000_000000011_000000100_000000000_000100100_01000000_00000000000000000000000000000000 = some (.vcvt { LaneF.plain with dst := 3, sa := 4, sc := 36, md := 64 }) ∧
    laneOf 0b0010000001_0_0000_0_0000_000000011_000000100_000000000_000001010_00100000_00000000000000000000000000000000 = some (.vcvti { LaneF.plain with dst := 3, sa := 4, sc := 10, md := 32 }) ∧
    laneOf 0b0010000010_0_0000_0_0000_000000011_000000100_000000101_010010101_00000000_00000000000000000000000000000001 = some (.vpack { LaneF.plain with dst := 3, sa := 4, sb := 5, sc := 149, imm := 1 }) ∧
    laneOf 0b0010000011_0_0000_0_0000_000000011_000000100_000000000_001101010_00000000_00000000000000000000000000000011 = some (.vunpk { LaneF.plain with dst := 3, sa := 4, sc := 106, imm := 3 }) ∧
    laneOf 0b0010000100_0_0000_0_0000_000000011_000000100_000000000_000001011_00000000_00000000000000000000000000111111 = some (.vcbd { LaneF.plain with dst := 3, sa := 4, sc := 11, imm := 63 }) := by decide

theorem test_decode_lane_mask :
    laneOf 0b0010100000_0_0000_0_0000_000000000_100010001_000000000_000000000_00000000_00000000000000000000000000000000 = some (.vif { LaneF.plain with sa := 273 }) ∧
    laneOf 0b0010100001_0_1111_0_0000_000000000_000000000_000000000_000000000_00000000_00000000000000000000000000000000 = some (.velse { LaneF.plain with stall := 15 }) ∧
    laneOf 0b0010100010_0_1111_0_0000_000000000_000000000_000000000_000000000_00000000_00000000000000000000000000000000 = some (.vendif { LaneF.plain with stall := 15 }) ∧
    laneOf 0b0010100011_0_1111_0_0000_000000000_000000000_000000000_000000000_00000000_00000000000000000000000000000000 = some (.vloop { LaneF.plain with stall := 15 }) ∧
    laneOf 0b0010100100_0_0000_0_0000_000000000_100010001_000000000_000000000_00000000_00000000000000000000000000000000 = some (.vbrk { LaneF.plain with sa := 273 }) ∧
    laneOf 0b0010100101_0_0000_0_0000_000000000_100010001_000000000_000000000_00000000_00000000000000000000000000000000 = some (.vcont { LaneF.plain with sa := 273 }) ∧
    laneOf 0b0010100110_0_1111_0_0000_000000000_000000000_000000000_000000000_00000000_00000000000000000000000000000000 = some (.vendlp { LaneF.plain with stall := 15 }) ∧
    laneOf 0b0010100111_0_0000_0_0000_100011111_100010000_100011000_000000000_00000000_00000000000000000000000000000000 = some (.mand { LaneF.plain with dst := 287, sa := 272, sb := 280 }) ∧
    laneOf 0b0010101000_0_0000_0_0000_100011111_100010000_100011000_000000000_00000000_00000000000000000000000000000000 = some (.mor { LaneF.plain with dst := 287, sa := 272, sb := 280 }) ∧
    laneOf 0b0010101001_0_0000_0_0000_100011111_100010000_100011000_000000000_00000000_00000000000000000000000000000000 = some (.mxor { LaneF.plain with dst := 287, sa := 272, sb := 280 }) ∧
    laneOf 0b0010101010_0_0000_0_0000_100011111_100010000_100011000_000000000_00000000_00000000000000000000000000000000 = some (.mandn { LaneF.plain with dst := 287, sa := 272, sb := 280 }) ∧
    laneOf 0b0010101011_0_0000_0_0000_100010010_100011111_000000000_000000000_00000000_00000000000000000000000000000000 = some (.mnot { LaneF.plain with dst := 274, sa := 287 }) ∧
    laneOf 0b0010101100_0_0000_0_0000_100010010_100011111_000000000_000000000_00000000_00000000000000000000000000000000 = some (.mmov { LaneF.plain with dst := 274, sa := 287 }) ∧
    laneOf 0b0010101101_0_0000_0_0000_100010001_111111111_000000000_000000000_00000000_10000000000000000000000000000001 = some (.mset { LaneF.plain with dst := 273, sa := 511, imm := 0x80000001 }) := by decide

theorem test_decode_lane_cross :
    laneOf 0b0011000000_0_0000_0_0000_000000001_000000010_000000011_000000000_00100000_00000000000000000000000000000000 = some (.vshuf { LaneF.plain with dst := 1, sa := 2, sb := 3, md := 32 }) ∧
    laneOf 0b0011000001_0_0000_0_0000_000000001_000000010_111111111_000000000_00000000_00000000000000000000000000011111 = some (.vbcast { LaneF.plain with dst := 1, sa := 2, sb := 511, imm := 31 }) ∧
    laneOf 0b0011000010_0_0000_0_0000_000000001_000000010_000000000_000000000_10110100_00000000000000000000000000000000 = some (.vscan { LaneF.plain with dst := 1, sa := 2, md := 180 }) ∧
    laneOf 0b0011000011_0_0000_0_0000_101011111_000000010_000000000_000000000_11001000_00000000000000000000000000000000 = some (.vred { LaneF.plain with dst := 351, sa := 2, md := 200 }) ∧
    laneOf 0b0011000100_0_0000_0_0000_100100000_000000010_000000000_000000000_00000000_00000000000000000000000000011111 = some (.vballot { LaneF.plain with dst := 288, sa := 2, imm := 31 }) := by decide

theorem test_decode_lane_mem :
    laneOf 0b0011100000_0_0000_0_0000_000001000_000000010_000000000_000011111_01100001_00000000111111111111111111110000 = some (.vld { LaneF.plain with dst := 8, sa := 2, sc := 31, md := 97, imm := 0xfffff0 }) ∧
    laneOf 0b0011100001_0_0000_0_0000_000001000_000000010_000000000_000000101_00011100_11000000000000000000000000001000 = some (.vst { LaneF.plain with dst := 8, sa := 2, sc := 5, md := 28, imm := 0xc0000008 }) ∧
    laneOf 0b0011100010_0_0000_0_0000_000001000_000000010_000000000_000000101_00011000_00000110000000000000000000000000 = some (.vlds { LaneF.plain with dst := 8, sa := 2, sc := 5, md := 24, imm := 0x6000000 }) ∧
    laneOf 0b0011100011_0_0000_0_0000_000001000_100100010_000001100_000000101_10011000_00001110000000000000000000001000 = some (.vamo { LaneF.plain with dst := 8, sa := 290, sb := 12, sc := 5, md := 152, imm := 0xe000008 }) ∧
    laneOf 0b0011100100_0_0000_0_0000_000000000_000000010_101101101_000000101_00000100_10010100000000000000000000000100 = some (.vrmo { LaneF.plain with sa := 2, sb := 365, sc := 5, md := 4, imm := 0x94000004 }) ∧
    laneOf 0b0011100101_0_0000_0_0000_000000000_000000010_000000000_000000000_00000000_00000000000000000000000010000000 = some (.vprf { LaneF.plain with sa := 2, imm := 128 }) := by decide

theorem test_decode_matrix :
    matrixOf 0b00000000_11001001_110_011_101_0111_10_000000_11001_11100_00000000000000000 = some (.mma { MatF.plain with c := 201, fa := 6, fb := 3, k := 5, ifmt := 7, hold := 2, bw := 25, ba := 28 }) ∧
    matrixOf 0b00000001_11001001_110_011_101_0111_10_000000_11001_11100_00000000000000000 = some (.mmaz { MatF.plain with c := 201, fa := 6, fb := 3, k := 5, ifmt := 7, hold := 2, bw := 25, ba := 28 }) ∧
    matrixOf 0b00000010_11001001_110_011_101_0111_10_000000_11001_11100_00000000000000000 = some (.mdist { MatF.plain with c := 201, fa := 6, fb := 3, k := 5, ifmt := 7, hold := 2, bw := 25, ba := 28 }) ∧
    matrixOf 0b00000011_00000001_000_000_010_0000_00_000000_00000_00000_00000000010011101 = some (.mtopk { MatF.plain with c := 1, k := 2, imm := 157 }) ∧
    matrixOf 0b00000100_11111111_000_000_111_0000_00_000000_00000_11111_00000000000000000 = some (.mzero { MatF.plain with c := 255, k := 7, ba := 31 }) ∧
    matrixOf 0b00000101_00000010_000_000_001_0000_00_000000_00000_00000_00000000010000001 = some (.matrixMmov { MatF.plain with c := 2, k := 1, imm := 129 }) ∧
    matrixOf 0b00000110_00000011_000_000_100_0000_00_101110_00000_00000_10100000100100001 = some (.mepi { MatF.plain with c := 3, k := 4, epi := 46, imm := 0x14121 }) ∧
    matrixOf 0b00000111_00000000_000_000_000_0000_00_000000_10001_00000_00000000000001111 = some (.mtab { MatF.plain with bw := 17, imm := 15 }) ∧
    matrixOf 0b00001000_00000000_000_000_000_0000_00_000000_10001_00000_00000000000001111 = some (.mbias { MatF.plain with bw := 17, imm := 15 }) ∧
    matrixOf 0b00001001_00000000_000_000_000_0000_00_000000_10001_00000_00000000000001111 = some (.mscl { MatF.plain with bw := 17, imm := 15 }) ∧
    matrixOf 0b00001010_00000000_111_000_000_0000_00_000000_00000_00000_01111111111111111 = some (.fskip { MatF.plain with fa := 7, imm := 0xffff }) ∧
    matrixOf 0b00001011_00000000_000_000_111_0000_00_000000_00000_00000_10000000000010000 = some (.mkset { MatF.plain with k := 7, imm := 0x10010 }) ∧
    matrixOf 0b00001100_00000000_000_000_000_0000_00_000000_00000_00000_10010011111111111 = some (.matrixMset { MatF.plain with imm := 0x127ff }) ∧
    matrixOf 0b00001101_00000000_000_000_000_0000_00_000000_00000_00000_11110111111111111 = some (.madd { MatF.plain with imm := 0x1efff }) ∧
    matrixOf 0b00001110_00000000_000_000_000_0000_00_000000_00000_00000_00111111111111111 = some (.mbnz { MatF.plain with imm := 0x7fff }) ∧
    matrixOf 0b00001111_00000000_000_000_000_0000_00_000000_00000_00000_11111111111111111 = some (.mj { MatF.plain with imm := 0x1ffff }) ∧
    matrixOf 0b00010000_00000000_000_000_000_0000_00_000000_00000_10000_00000000000000000 = some (.marr { MatF.plain with ba := 16 }) ∧
    matrixOf 0b00010001_00000000_000_000_000_0000_00_000000_11111_00000_00000000000000000 = some (.mwait { MatF.plain with bw := 31 }) ∧
    matrixOf 0b00010010_00000000_000_000_000_0000_00_000000_00000_00000_00011111100000111 = some (.mtok { MatF.plain with imm := 0x3f07 }) ∧
    matrixOf 0b00010011_00000000_000_000_000_0000_00_000000_00000_00000_00000000000000000 = some (.mhalt MatF.plain) ∧
    matrixOf 0b00010100_00000000_000_000_000_0000_00_000000_00000_00000_00000000000000000 = some (.mnop MatF.plain) := by decide

/-! ## Values that the spec works out -/

/-- What a register holds after an instruction. -/
def regAfter (o : Out) (r : BitVec 6) : Option W64 :=
  match o with
  | .next t => some (t.rS r)
  | _ => none
/-- The words of spec/03 R69 and R74 and of spec/08 R176. -/
theorem test_worked_words :
    scalarOf 0x76000882 0 = some (.fmtseti 0x11) ∧ scalarOf 0xB2280884 0 = some (.srd 5 0x011) ∧
    matrixOf 0x0609008170008032 = some (.mepi { MatF.plain with c := 9, k := 1, epi := 0b101110, imm := 0x8032 }) := by decide
/-- The words of spec/02 R46 that are illegal, with their reasons. -/
theorem test_worked_reasons :
    (match decodeScalar 0 0, decodeScalar 0x02188290 0, decodeScalar 0x94000004 0 with
      | .error a, .error b, .error c => a.code == 1 && b.code == 4 && c.code == 5
      | _, _, _ => false) = true := by decide
/-- A zero-filled lane word is `vadd.s32 v0, v0, v0` (spec/02 R40). -/
theorem test_zero_lane_word : laneOf 0 = some (.vadd LaneF.plain) := by decide
/-- spec/01 R26: the example `saddi s5, s5, 0x12_3456_7890`. -/
theorem test_widened_immediate : pairImm 0x091A2B4 0x1890 = 0x1234567890 := by decide
theorem test_add_wraps : regAfter (exec (.sadd 5 6 7) ((scalarState.wS 6 (-1)).wS 7 3)) 5 = some 2 := by decide +kernel
theorem test_s0_stays_zero : regAfter (exec (.saddi 0 6 7) scalarState) 0 = some 0 := by decide +kernel
/-- spec/03 R51: rounding toward zero, the sign of a remainder, and the corners. -/
theorem test_division :
    let s := (scalarState.wS 6 (-7)).wS 7 2
    let m := (scalarState.wS 6 0x8000000000000000).wS 7 (-1)
    regAfter (exec (.sdivS 5 6 7) s) 5 = some (-3) ∧ regAfter (exec (.sremS 5 6 7) s) 5 = some (-1) ∧
      regAfter (exec (.sdivS 5 6 7) m) 5 = some 0x8000000000000000 ∧ regAfter (exec (.sremS 5 6 7) m) 5 = some 0 ∧
      regAfter (exec (.sdivN 5 6 0) s) 5 = some (-1) ∧ regAfter (exec (.sremN 5 6 0) s) 5 = some (-7) := by decide +kernel
/-- spec/03 R53: the field's top bit is its sign. -/
theorem test_field_sign : regAfter (exec (.sbfx 5 6 true 4 7) (scalarState.wS 6 0x800)) 5 = some (-128) := by decide +kernel
/-- spec/14 R241: PA 0xB460_0A40 lies in stack H8. -/
theorem test_stack_of_frame : stackOf 0xB4600A40 = 8 := by decide
/-- spec/18 R321: a thermal-budget change of die 0's clock, voltage and limit is written as CAUSE, CHANGED, MHZ, MV and LIMIT stand. -/
theorem test_trace_word : traceWord 3 1 1 2700 350 100 = 0x39000A8C015E6400 := by decide
/-- spec/20 R333: x = 1 + 2^−12; its square rounds to 1 + 2^−11, and less 1 that is 2^−11; the fused form keeps 2^−24. -/
theorem test_rounds_once :
    let x := f32.value 0x3F800800
    let one := f32.value 0xBF800000
    f32.add .rne (f32.value (f32.mul .rne x x)) one = 0x3A000000 ∧ f32.fused .rne (x.times x) one = 0x3A000400 := by decide +kernel
/-- spec/10 R200: the example of a top-k merge. -/
theorem test_top_k :
    topMerge false false 3 [(0x3F800000, 5), (0x40400000, 2)]
      (topRow false (BitVec.ofNat 48 (0x7 * 2 ^ 16 + 0xFFFF)) [0x40400000, 0x80000000, 0x7FC00000] 16 0)
      = [(0x80000000, 17), (0x3F800000, 5), (0x40400000, 2)] := by decide +kernel
/-- spec/10: 16,777,217 becomes 16,777,216. -/
theorem test_int_to_float : convertElem .rne false 0 5 16777217 = 0x4B800000 := by decide +kernel
/-- spec/03 R58: SST sets its line FULL, and the line's other bytes stay. -/
theorem test_store_fills_line :
    let s := (scalarState.wS 1 0x88).modMember 0 fun m => { m with line := [(1, 0)], pad := [(0x80, 9)] }
    (match exec (.sstD 2 1 0) (s.wS 2 0x0102030405060708) with
      | .next t => (t.member 0).lineSt 0x80 == 1 && (t.member 0).pad.get 0 0x80 == 9 && (t.member 0).pad.get 0 0x88 == 8 && (t.member 0).pad.get 0 0x8F == 1
      | _ => false) = true := by decide +kernel
/-- spec/16 R283: the entry of STRAP 5. -/
theorem test_trap_entry :
    (match exec (.strap 5) (scalarState.modGang 0 fun g => { g with haddr := 0x200000 }) with
      | .next t => t.tm.pc == 0x200000 && t.tm.epc == 0x100004 && t.tm.hstat == 0x50101
      | _ => false) = true := by decide +kernel
/-- spec/04 R100: a sum over 32 lanes of `%lane`-like values 0 to 31. -/
theorem test_fold : foldLanes .rne 0 0 (fun l => BitVec.ofNat 32 l) (List.range 32) = some 496 := by decide +kernel
/-- spec/18 R317: the first step after power-good is the boot. -/
theorem test_reset_boots : step State.reset = exec .powerGood State.reset := by rfl

/-! ## Witnesses: each statement's hypotheses hold together in a concrete state -/

theorem witness_ScalarAluResults : Quiet scalarState [6, 7, 5] ∧ Quiet scalarState [0, 63, 63] ∧
    bits 0x02188290 25 7 = 0x01 ∧ bits 0x02188290 0 7 = 0x10 ∧ bits 0x02188290 7 6 ≠ 0 := by unfold Quiet; decide
theorem witness_ScalarMulDivResults :
    let s := (scalarState.wS 6 (-8)).wS 7 3
    Quiet s [6, 7, 5] ∧ s.rS 7 ≠ 0 ∧ Quiet scalarState [6, 7, 5] ∧ scalarState.rS 7 = 0 := by unfold Quiet; decide
theorem witness_ScalarImmediateResults : Quiet scalarState [6, 5] := by unfold Quiet; decide
theorem witness_FieldExtractBits : Quiet scalarState [6, 5] ∧ (63 : BitVec 6).toNat + (0 : BitVec 6).toNat + 1 ≤ 64 ∧
    (0 : BitVec 6).toNat + (63 : BitVec 6).toNat + 1 ≤ 64 ∧ bits 0x16000FFF 25 7 = 0x0B := by unfold Quiet; decide
theorem witness_WidenedImmediatePair :
    Quiet scalarState [6, 5] ∧
    (scalarOf 0b0000011_000101_000110_1111111111100 0 = some (.saddi 5 6 0x1FFC) ∧ simmAdmits 0x0628DFFC = true) ∧
    (scalarOf 0b0000100_000101_000110_1111111111100 0 = some (.sandi 5 6 0x1FFC) ∧ simmAdmits 0x082CDFFC = true) ∧
    (scalarOf 0b0000101_000101_000110_1111111111100 0 = some (.sori 5 6 0x1FFC) ∧ simmAdmits 0x0A2CDFFC = true) ∧
    (scalarOf 0b0000110_000101_000110_1111111111100 0 = some (.sxori 5 6 0x1FFC) ∧ simmAdmits 0x0C2CDFFC = true) ∧
    (scalarOf 0b0000111_000101_000110_1111111111100 0 = some (.sslti 5 6 0x1FFC) ∧ simmAdmits 0x0E2CDFFC = true) ∧
    (scalarOf 0b0001000_000101_000110_0000000_111111 0 = some (.sshli 5 6 63) ∧ simmAdmits 0x102CC03F = true) ∧
    (scalarOf 0b0001001_000101_000110_0000000_111111 0 = some (.sshri 5 6 63) ∧ simmAdmits 0x122CC03F = true) ∧
    (scalarOf 0b0001010_000101_000110_0000000_111111 0 = some (.ssrai 5 6 63) ∧ simmAdmits 0x1428C03F = true) ∧
    (9 : BitVec 25) ≠ 0 ∧ simmAdmits 0x0228C380 = false := by unfold Quiet; decide
theorem witness_ControlTransfers :
    (let s := scalarState.wS 1 0x100040
     Quiet s [1, 2] ∧ Quiet s [2, 1] ∧ s.tm.early true 15 = false ∧ s.rS 1 ≠ 1 ∧ Quiet (s.wS 2 1) [2] ∧ (s.wS 2 1).rS 2 = 1) ∧
    Executable (scalarState.wS 1 0x100040) 0x100040 :=
  ⟨by unfold Quiet; decide, by decide, by decide, _, rfl, by decide, by decide⟩
theorem witness_JumpTargetsAreChecked :
    (let s := scalarState.wS 1 0x100002
     Quiet s [1, 0] ∧ (s.rS 1).toNat % 4 ≠ 0) ∧
    (let s := scalarState.wS 1 0x40000000000000
     Quiet s [1, 0] ∧ (s.rS 1).toNat % 4 = 0 ∧ 2 ^ 54 ≤ (s.rS 1).toNat) ∧
    (let s := (withPage scalarState 0x8000 0x8098 0).wS 1 0x8000
     Quiet s [1, 0] ∧ (s.rS 1).toNat % 4 = 0 ∧ (s.rS 1).toNat < 2 ^ 54 ∧
       s.translate (s.teamCore s.cur) s.tg.part 0x8000 = .leaf { bits := 12, dw0 := 0x8098, dw1 := 0 } ∧
       Leaf.x { bits := 12, dw0 := 0x8098, dw1 := 0 } = false) ∧
    (let s := scalarState.wS 1 0x10000000000
     Quiet s [1, 0] ∧ s.translate (s.teamCore s.cur) s.tg.part 0x10000000000 = .absent) := by unfold Quiet; decide
theorem witness_SoftwareTraps :
    (let s := scalarState.modGang 0 fun g => { g with haddr := 0x100040 }
     s.tm.hm = false ∧ s.tg.handler ≠ 0) ∧ (scalarState.tm.hm = false ∧ scalarState.tg.handler = 0) ∧
    (scalarState.modTm fun t => { t with hstat := 0x101 }).tm.hm = true := by decide
theorem witness_TrapReturn :
    (scalarState.modTm fun t => { t with hstat := 0x101, epc := 0x100010 }).tm.hm = true ∧ scalarState.tm.hm = false ∧
    (scalarState.modTm fun t => { t with hstat := 0x101, epc := 0x100011 }).tm.epc.toNat % 4 ≠ 0 ∧
    Executable (scalarState.modTm fun t => { t with hstat := 0x101, epc := 0x100010 }) 0x100010 :=
  ⟨by decide, by decide, by decide, by decide, by decide, _, rfl, by decide, by decide⟩
theorem witness_SpecialRegisters :
    scalarOf 0xB2280884 0 = some (.srd 5 0x011) ∧ Quiet scalarState [5] ∧ scalarState.recording (gangOf scalarState.cur) = false ∧
      scalarState.replaying (gangOf scalarState.cur) = false ∧ (0x004 : BitVec 12).toNat ∉ srdNumbers ∧ (0x008 : BitVec 12) ≠ 0x009 := by
  unfold Quiet; decide
theorem witness_ScalarRegisterFrame :
    registerForm (.sadd 5 6 7) = some (5, [6, 7]) ∧ registerForm .nop = some (0, []) ∧ Quiet scalarState [5, 6, 7] ∧ Quiet scalarState [0] ∧
      exec (.sadd 5 6 7) scalarState = .next ((scalarState.wS 5 0).advance) ∧ exec .nop scalarState = .next scalarState.advance :=
  ⟨by decide, by decide, by unfold Quiet; decide, by unfold Quiet; decide, by rfl, by rfl⟩

theorem witness_ScratchpadLoads :
    (let s := scalarState.wS 1 0x7FFF8
     Quiet s [1, 2] ∧ PadFree s 0x7FFF8 8 0 ∧ Plain s ∧ 0x7FFF8 < s.padSize (gangOf s.cur) ∧ s.padSize (gangOf s.cur) ≤ 0x80000 ∧
       (s.member (s.memberOf s.cur)).lineSt 0x7FFF8 ≠ 0 ∧ (s.member (s.memberOf s.cur)).lineSt 0x7FFF8 ≠ 2) ∧
    (let s := scalarState.modMember 0 fun m => { m with line := [(0, 2), (1, 0)] }
     Quiet s [1, 2] ∧ PadFree s 0 8 0 ∧ PadFree s 128 4 0 ∧ Plain s ∧ (s.member (s.memberOf s.cur)).lineSt 0 = 2 ∧
       (s.member (s.memberOf s.cur)).lineSt 128 = 0) := by unfold Quiet PadFree Plain; decide
theorem witness_ScratchpadStores :
    (let s := scalarState.wS 1 0x7FFFC
     Quiet s [2, 1] ∧ PadFree s 0x7FFFC 4 1 ∧ 0x7FFFC % 4 = 0 ∧ 0x7FFFC % 8 ≠ 0 ∧ 0x7FFFC < s.padSize (gangOf s.cur)) ∧
    scalarOf 0b0100010_000010_000001_1111111111100 0 = some (.sstD 2 1 0x1FFC) ∧ simmAdmits 0x44103FFC = true ∧
    scalarOf 0b0100011_000010_000001_1111111111100 0 = some (.sstW 2 1 0x1FFC) ∧ simmAdmits 0x46103FFC = true ∧
    scalarOf 0b0100000_000010_000001_1111111111100 0 = some (.sldD 2 1 0x1FFC) ∧ simmAdmits 0x40103FFC = true ∧
    scalarOf 0b0100001_000010_000001_1111111111100 0 = some (.sldW 2 1 0x1FFC) ∧ simmAdmits 0x42103FFC = true := by
  unfold Quiet PadFree; decide
theorem witness_LinesMadeEmpty :
    (let s := (scalarState.wS 1 64).wS 2 256
     Quiet s [1, 2] ∧ Quiet s [2, 1] ∧ (s.rS 1).toNat % 128 ≠ 0 ∧ (s.rS 2).toNat % 128 = 0 ∧ (s.rS 2) ≠ 0 ∧ (s.rS 0) = 0) ∧
    (let s := (scalarState.wS 1 0x7FF80).wS 2 128
     Quiet s [1, 2] ∧ (s.rS 1).toNat + (s.rS 2).toNat ≤ s.padSize (gangOf s.cur) ∧ s.tm.wait = none ∧
       (s.member (s.memberOf s.cur)).spHit (s.rS 1).toNat (s.rS 2).toNat 1 .own none = none) ∧
    (let s := (scalarState.wS 1 0x7FF80).wS 2 256
     Quiet s [1, 2] ∧ s.padSize (gangOf s.cur) < (s.rS 1).toNat + (s.rS 2).toNat) := by unfold Quiet; decide
theorem witness_ConstantLoads :
    let s := (scalarState.modGang 0 fun g => { g with constb := 0x100000, consts := 4096 }).wS 1 4088
    Quiet s [1, 2] ∧ s.tm.fences = [] ∧ Plain s ∧ (s.rS 1).toNat % 8 = 0 ∧ (s.rS 1).toNat < s.tg.consts ∧
      (s.constRead (s.teamCore s.cur) s.tg.part (s.tg.constb + s.rS 1).toNat).2 = .value 0 false := by unfold Quiet Plain; decide
theorem witness_ConstantLoads_denied :
    let s := ((withPage scalarState 0x100000 0x100080 0).modGang 0 fun g => { g with constb := 0x100000, consts := 4096 })
    Quiet s [1, 2] ∧ s.tm.fences = [] ∧ Plain s ∧
      (s.constRead (s.teamCore s.cur) s.tg.part (s.tg.constb + s.rS 1).toNat).2 = .denied := by unfold Quiet Plain; decide
theorem witness_TokenWaitsAndStates :
    (let s := (withTok scalarState 31 .done).wS 1 0x80000000
     Quiet s [1, 2, 3] ∧ Plain s ∧ s.tm.wait = none ∧ ∀ n < 32, ((s.rS 1).truncate 32 : W32).getLsbD n = true → tokenSt s n = .done) ∧
    (let s := (withTok (withTok scalarState 0 .done) 31 .poisoned).wS 1 0x80000001
     Quiet s [1, 2, 3] ∧ (∀ n < 32, ((s.rS 1).truncate 32 : W32).getLsbD n = true → tokenSt s n = .done ∨ tokenSt s n = .poisoned) ∧
       tokenSt s 31 = .poisoned ∧ (∀ n < 31, ((s.rS 1).truncate 32 : W32).getLsbD n = true → tokenSt s n = .done) ∧
       s.takes s.cur .waitPoison = false ∧ (s.modGang 0 fun g => { g with haddr := 0x3C0000000100040 }).takes s.cur .waitPoison = true ∧
       (s.modGang 0 fun g => { g with haddr := 0x3C0000000100040 }).takes s.cur .waitExpired = true) ∧
    (let s := (withTok scalarState 5 .pending).wS 1 0x20
     Quiet s [1, 2, 3] ∧ s.tm.wait = none ∧ tokenSt s 5 = .pending ∧ s.tg.ttryi ≠ 0 ∧ s.rS 2 = 0 ∧ (s.wS 2 9).rS 2 ≠ 0 ∧
       s.takes s.cur .waitExpired = false ∧ (∀ n < 32, (0x20 : W32).getLsbD n = true → tokenSt s n = .pending ∨ tokenSt s n = .free)) ∧
    (let s := withWait scalarState { obj := .tokens 0, since := 0, limit := some 5, phase := 0, result := some 0 }
     Quiet s [1, 2, 3] ∧ Plain s ∧ (s.rS 1).truncate 32 = (0 : W32) ∧ s.takes s.cur .waitExpired = false) := by
  refine ⟨?_, ?_, ?_, ?_⟩ <;> (unfold Quiet; try unfold Plain) <;> decide
theorem witness_BarrierWords :
    (let s := scalarState.modGang 0 fun g => { g with groups := [(7, 1)], bars := [(15, { Bar.blank with bound := some 7 })] }
     s.tm.wait = none ∧ s.tg.unapplied 0 = false ∧ s.tg.belongs 15 0 = true ∧ s.tg.belongs 14 0 = false ∧ Released s ∧
       (s.tg.bar 15).arrivals.getLsbD 0 = false ∧ (s.tg.bar 15).arrivals = 0 ∧ Quiet s [5]) ∧
    (let s := scalarState.modGang 0 fun g => { g with groups := [(7, 3)], bars := [(15, { Bar.blank with bound := some 7, arrivals := 1, last := [(0, 0, false)] })] }
     s.tm.wait = none ∧ s.tg.unapplied 0 = false ∧ s.tg.belongs 15 0 = true ∧ Released s ∧ (s.tg.bar 15).arrivals.getLsbD 0 = true ∧
       (s.tg.bar 15).last.find? 0 = some ((s.tg.bar 15).phase, false)) ∧
    (let s := scalarState.modGang 0 fun g => { g with groups := [(7, 1)], bars := [(15, { Bar.blank with bound := some 7, phase := 1, last := [(0, 0, false)] })] }
     s.tm.wait = none ∧ s.tg.unapplied 0 = false ∧ s.tg.belongs 15 0 = true ∧ (s.tg.bar 15).last.find? 0 = some (0, false) ∧
       (0 : W32) ≠ (s.tg.bar 15).phase ∧ (s.tg.bar 15).poisoned.contains 0 = false) ∧
    (let s := scalarState.modGang 0 fun g => { g with haddr := 0x3C0000000100040, groups := [(7, 1)], bars := [(15, { Bar.blank with bound := some 7, phase := 1, poisoned := [0], last := [(0, 0, false)] })] }
     s.tg.belongs 15 0 = true ∧ (s.tg.bar 15).poisoned.contains 0 = true ∧ s.takes s.cur .poisonRead = true) ∧
    (withWait scalarState { obj := .barrier 15, since := 0, limit := none, phase := 1, result := some 0 }).tm.wait.isSome = true := by
  unfold Quiet Released; decide +kernel
theorem witness_BarrierUnit :
    (let x : Gang := { Gang.blank with groups := [(7, 1)], bars := [(15, { Bar.blank with bound := some 7 })], bevents := [{ mem := 0, kind := .arrive 15 false, after := [] }] }
     x.group 7 &&& ~~~((x.bar 15).arrivals ||| 1 <<< 0) = 0) ∧
    (let x : Gang := { Gang.blank with groups := [(7, 3)], bars := [(15, { Bar.blank with bound := some 7 })], bevents := [{ mem := 0, kind := .arrive 15 false, after := [] }] }
     x.group 7 &&& ~~~((x.bar 15).arrivals ||| 1 <<< 0) ≠ 0) ∧
    (let s := withWait scalarState { obj := .barrier 15, since := 0, limit := none, phase := 2, result := none }
     teamNum s.arg.x ≠ 256 ∧ (s.team s.arg.x).wait.isSome = true ∧ (0 : W32) = ((s.gang 0).bar 15).phase ∧ (1 : W32) ≠ ((s.gang 0).bar 15).phase) := by
  decide +kernel
theorem witness_EventSignals :
    let s := scalarState.wS 1 0xFFFF
    Quiet s [1] ∧ s.parts.find? s.tg.part = some fetchPart ∧ fetchPart.cfg.ev0 ≤ (s.rS 1).toNat % 2 ^ 16 ∧
      (s.rS 1).toNat % 2 ^ 16 ≤ fetchPart.cfg.ev1 ∧ Released s ∧ Plain s ∧
      { fetchPart.cfg with ev1 := 7 }.ev1 < (s.rS 1).toNat % 2 ^ 16 := by unfold Quiet Released Plain; decide
theorem witness_AsynchronousIssue :
    (let s := (scalarState.wS 1 0x100008).wS 2 7
     Quiet s [3, 1, 2] ∧ tokenSt s 31 ≠ .pending ∧ (s.rS 1).toNat % widthOf false = 0 ∧ (s.rS 1).toNat < 2 ^ 54 ∧
       tokenSt (withTok s 31 .pending) 31 = .pending) ∧
    (∀ l, scalarState.translate 0 0 0x100008 = .leaf l → l.loads = true ∧ l.stores = true) ∧
    (let s := (copyState.wS 1 0x100040).wS 2 0xFFFF
     Quiet s [3, 1, 2] ∧ BlockWordOk s (s.rS 1) 64 64 ∧ BlockWordOk s (s.rS 1) 32 32 ∧
       ((s.member (s.memberOf s.cur)).queues.get [] 3).length < 16 ∧ (s.rS 1).toNat % 16 = 0 ∧ s.rS 2 ≠ 0 ∧ (s.rS 2).toNat < 2 ^ 16) ∧
    (let s := (copyState.wS 1 0x3FFF).wS 2 (0x40000000000000 + 0x7FFC0)
     Quiet s [3, 1, 2] ∧ s.parts.find? s.tg.part = some fetchPart ∧ (s.rS 1).toNat < 2 ^ 14 ∧
       fetchPart.cfg.slot0 ≤ (s.rS 1).toNat % 2 ^ 12 ∧ (s.rS 1).toNat % 2 ^ 12 ≤ fetchPart.cfg.slot1 ∧ BlockWordOk s (s.rS 2) 64 64) := by
  refine ⟨by unfold Quiet; decide, ?_, by unfold Quiet BlockWordOk; decide, by unfold Quiet BlockWordOk; decide⟩
  intro l h
  obtain rfl : l = { bits := 39, dw0 := 0xB8, dw1 := 0 } := by
    have e : scalarState.translate 0 0 0x100008 = .leaf { bits := 39, dw0 := 0xB8, dw1 := 0 } := by decide
    rw [e] at h; cases h; rfl
  decide
theorem witness_BlockWordChecks :
    Quiet copyState [3, 1] ∧ bits (2 ^ 63) 58 6 ≠ 0 ∧ bits (2 * 2 ^ 54) 58 6 = 0 ∧ 1 < bits (2 * 2 ^ 54) 54 4 ∧
    scalarState.tm.copy = false ∧ copyState.tm.copy = true ∧ copyState.padSize (gangOf copyState.cur) < 0x7FFC0 + 128 ∧
    (let s := (copyState.wS 1 64).modMember 0 fun m => { m with queues := [(3, List.replicate 16 1)] }
     BlockWordOk s (s.rS 1) 64 64 ∧ tokenSt s 9 ≠ .pending ∧ 16 ≤ ((s.member (s.memberOf s.cur)).queues.get [] 3).length ∧ s.tm.wait = none) := by
  unfold Quiet BlockWordOk; decide
theorem witness_PhaseBarrierIssue :
    (let s := (scalarState.wS 1 0x100010).wS 2 (0x3FFFFFF)
     Quiet s [3, 1, 2] ∧ BarrierWordOk s (s.rS 1) ∧ pbSpace (s.rS 1) = 0 ∧ 1 ≤ bits (s.rS 2).toNat 0 24 ∧ bits (s.rS 2).toNat 27 37 = 0 ∧
       bits (s.rS 2).toNat 24 3 = 3 ∧ (s.rS 2).toNat < 2 ^ 35 ∧ Released s ∧ tokenSt s 8 = .free ∧ tokenSt (withTok s 8 .done) 8 ≠ .free) ∧
    (let s := (scalarState.wS 1 (0x80000000000000 + 0x7FFF0)).wS 2 1
     Quiet s [3, 1, 2] ∧ BarrierWordOk s (s.rS 1) ∧ pbSpace (s.rS 1) = 2 ∧ bits (s.rS 2).toNat 24 3 = 0) := by
  unfold Quiet BarrierWordOk Released; decide
/-- A phase barrier at 0x40 of the scratchpad: EXPECT 1, one arrival awaited, the phase and POIS as given, SCOPE 0 (spec/12 R218). -/
def barrierAt (phase : Nat) (pois : Bool) : State :=
  (scalarState.wS 1 (0x40000000000000 + 0x40)).modMember 0 fun m =>
    m.setBytes 0x40 (wordBytes [BitVec.ofNat 64 (phase + 2 ^ 32 + pois.toNat * 2 ^ 59 + 2 ^ 60), BitVec.ofNat 64 (2 ^ 36)])
theorem witness_PhaseWaits :
    (Quiet (barrierAt 0 false) [1, 2, 3] ∧ BarrierWordOk (barrierAt 0 false) ((barrierAt 0 false).rS 1) ∧ Plain (barrierAt 0 false) ∧
      (barrierAt 0 false).tm.wait = none ∧ pbSpace ((barrierAt 0 false).rS 1) = 1) ∧
    (∀ x ∈ [(0, false, (0 : W32), 0), (1, false, 0, 1), (2, false, 0, 2), (1, true, 0, 1), (0, false, 1, 2 ^ 32 - 1), (2 ^ 31, false, 0, 2 ^ 31)],
      let s := barrierAt x.1 x.2.1
      let b := s.pbPad (s.memberOf s.cur) (pbAddr (s.rS 1))
      (b.phase - x.2.2.1).toNat = x.2.2.2 ∧ b.pois = x.2.1 ∧ b.init = true ∧ b.scope = 0 ∧ (s.member 0).lineSt 0x40 ≠ 2) ∧
    (let s := scalarState.wS 1 0x40000000000000
     BarrierWordOk s (s.rS 1) ∧ (s.pbPad (s.memberOf s.cur) 0).init = false) ∧
    ((barrierAt 1 true).modGang 0 fun g => { g with haddr := 0x3C0000000100040 }).takes 0 .waitPoison = true := by
  unfold Quiet BarrierWordOk Plain; decide

/-- A lane block with the number `i`, waiting for nothing. -/
def blockAt (i : Nat) : Block :=
  { disp := 0, idx := i, tok := 0, set := 0, waiting := 0, pois := none, snap := [], later := [], unsure := [], after := [], budget := 32 }
theorem witness_LaneBlockDispatch :
    (Quiet scalarState [3, 1] ∧ scalarState.tm.copy = false ∧ 1023 < scalarState.tm.lanes ∧ scalarState.tm.lanes ≤ 1024 ∧
      scalarState.tm.queued < 8 ∧ tokenSt scalarState 31 ≠ .pending ∧ scalarState.tm.dirty = [] ∧ scalarState.tm.loads = []) ∧
    (let s := scalarState.modTm fun t => { t with queue := List.replicate 8 (.block (blockAt 0)) }
     Quiet s [3, 1] ∧ 8 ≤ s.tm.queued ∧ s.tm.wait = none) ∧ copyState.tm.copy = true := by unfold Quiet; decide
theorem witness_FormatAndBudget :
    (Quiet copyState [1, 2] ∧ copyState.tm.copy = true) ∧
    (Quiet scalarState [1, 2] ∧ scalarState.tm.copy = false ∧ scalarState.tm.lanesIdle = true ∧ scalarState.tm.wait = none ∧
      (scalarState.rS 1).toNat = 0) ∧
    (let s := scalarState.modTm fun t => { t with queue := [.block (blockAt 0)] }
     s.tm.copy = false ∧ s.tm.lanesIdle = false) ∧
    (let s := (scalarState.modTm fun t => { t with budget := 31, launchBudget := 31 }).wS 1 1
     Quiet s [1, 2] ∧ s.tm.budget + (s.rS 1).toNat ≤ 32 ∧ (s.rS 1).toNat ≠ 0 ∧ s.hopeless s.cur 1 = false ∧
       (s.member (s.memberOf s.cur)).vq = [] ∧ s.tm.units 1 ≤ s.freeUnits (gangOf s.cur) s.tm.core ∧ 32 < s.tm.budget + 2) ∧
    (let s := (scalarState.modTm fun t => { t with wcode := 5, budget := 16, launchBudget := 16 }).modGang 0 fun g => { g with lanesU := 32 }
     s.tm.copy = false ∧ s.tm.wait = none ∧ s.hopeless s.cur 16 = true) ∧
    (let s := (((scalarState.modTm fun t => { t with wcode := 4, budget := 16, launchBudget := 16 }).setTeam 1 { Team.blank with wcode := 4, budget := 32 }).modGang 0
        fun g => { g with nteams := 2, lanesU := 32 })
     s.hopeless s.cur 8 = false ∧ s.freeUnits (gangOf s.cur) s.tm.core < s.tm.units 8) := by
  unfold Quiet; decide +kernel
/-- A struck watch entry of set 2 for lanes 0 and 2. -/
def struckEntry : WatchE :=
  { id := 1, st := .struck, set := 2, isSealed := false, born := 0, line := 0, version := 0, epoch := 0, mask := 5, page := 0,
    struckSeal := false, answer := none, rwc := 0, disp := 0, home := 0, op := 0 }
theorem witness_FencesAndChecks :
    (Released scalarState ∧ scalarState.fenceCover 1 = [] ∧ scalarState.fenceCover 3 = []) ∧
    (let s := { scalarState with ops := [(1, { Op.blank with kind := .sldg false })] }
     Released s ∧ s.fenceCover 0 ≠ [] ∧ s.fenceCover 3 ≠ []) ∧
    (let s := scalarState.modTm fun t => { t with watch := [struckEntry] }
     s.tm.lanesIdle = true ∧ s.tm.watchAny .unresolved = false ∧ s.tm.watchAny .struck = true ∧ s.tm.struckLanes 2 ≠ 0 ∧
       s.tm.struckLanes 1 = 0 ∧ (s.tm.watch.any fun e => e.set == 2 && e.st == .unresolved) = false) ∧ Plain scalarState := by
  unfold Released Plain; decide +kernel
theorem witness_EndOfTeam :
    (Released scalarState ∧ scalarState.tm.pendingSet = 0 ∧ scalarState.tg.hasSeq = true ∧ scalarState.tg.halted = false) ∧
    ((withTok scalarState 4 .pending).tm.pendingSet ≠ 0 ∧ (withTok scalarState 4 .pending).tm.wait = none) ∧
    scalarState.debugged 0 = false ∧
    (let s := { scalarState with parts := [(0, { fetchPart with session := some { ctx := 0, step := none, replay := none, dump := [] } })] }
     s.debugged 0 = true ∧ s.replaying 0 = false ∧ s.ctxs.find? 0 = some fetchCtx ∧ fetchCtx.st ≠ .ended) := by
  unfold Released; decide +kernel
theorem witness_FatalFaultsAndTheirRecords :
    (let p : Part := { fetchPart with heldF := List.replicate 255 [] }
     let s := { scalarState with parts := [(0, p)] }
     0 < kMisaligned ∧ kMisaligned < 256 ∧ s.replaying 0 = false ∧ s.ctxs.find? 0 = some fetchCtx ∧ fetchCtx.st ≠ .ended ∧
       s.parts.find? 0 = some p ∧ p.heldF ≠ [] ∧ p.heldF.length < 256) ∧
    (fetchPart.heldF = [] ∧ scalarState.ringFree fetchPart.cfg.faultq 31 = true) ∧
    (scalarState.setBytes fetchPart.cfg.faultq [31]).ringFree fetchPart.cfg.faultq 31 = false ∧
    256 ≤ ({ fetchPart with heldF := List.replicate 256 [] } : Part).heldF.length := by decide +kernel
theorem witness_CycleReadsAreJournalled :
    (let s := scalarState.modGang 0 fun g => { g with record := true }
     Quiet s [1] ∧ s.recording 0 = true) ∧
    (let s := { scalarState with
       parts := [(0, { fetchPart with session := some { ctx := 0, step := none, replay := some 0, dump := [] } })]
       replayJ := [(0, [{ agent := .scalar 0, count := 0, val := [9] }])] }
     Quiet s [1] ∧ s.replaying 0 = true ∧ s.replayJ.get [] 0 = { agent := .scalar s.cur, count := s.tm.rwc, val := [9] } :: []) := by
  unfold Quiet; decide +kernel

theorem witness_LaneReady (f : LaneF) (regs : List Nat) : LaneReady laneState (blockAt 0) f regs :=
  ⟨rfl, rfl, rfl, ⟨rfl, rfl⟩, ⟨rfl, rfl⟩, fun _ _ => ⟨by show LinkSt.idle ≠ .streaming; decide, rfl⟩, .inr (by decide), fun _ _ h => h, by unfold Plain; decide⟩
theorem witness_activeLanes : activeLanes laneState LaneF.plain = List.range 32 := by decide +kernel
theorem witness_LaneIntegerResults : isReg (255 : BitVec 9).toNat ∧ isReg (287 : BitVec 9).toNat ∧
    LaneReady laneState (blockAt 0) { LaneF.plain with dst := 255, sa := 255, sb := 287 }
      (laneRegs 0x000 { LaneF.plain with dst := 255, sa := 255, sb := 287 }) :=
  ⟨by unfold isReg; decide, by unfold isReg; decide, witness_LaneReady _ _⟩
theorem witness_LaneFloatResults :
    (let f : LaneF := { LaneF.plain with dst := 263, sa := 1, sb := 255, ch := true }
     LaneReady laneState (blockAt 0) f (laneRegs 0x043 f) ∧ laneState.floatCode f ≠ 3 ∧ laneState.floatCode f = 0 ∧
       256 ≤ f.dst.toNat ∧ f.dst.toNat < 264) ∧
    (let f : LaneF := { LaneF.plain with dst := 255, sa := 1, sb := 2, md := 0x80 }
     laneState.floatCode f ≠ 3 ∧ isReg f.dst.toNat ∧ ∀ sp, laneSpec 0x040 = some sp → linkOperand sp f = false ∧ f.ch = false) := by
  refine ⟨⟨witness_LaneReady _ _, ?_, ?_, ?_, ?_⟩, ?_, ?_, ?_⟩
  · decide
  · decide
  · decide
  · decide
  · decide
  · unfold isReg; decide
  · rintro sp ⟨⟩; decide
theorem witness_ExactResultsAreNotRounded :
    f32 ∈ [f32, f16, b16, e4m3, e5m2] ∧ 0 < 1 ∧ 1 ≤ f32.big ∧ f32.big ≤ f32.big ∧ 0 < e4m3.big := by
  refine ⟨by simp, ?_⟩; decide +kernel
theorem witness_LaneConversionResults :
    (let s := laneState.modMember 0 fun m => { m with fifos := [(7, { Fifo.blank with declared := true, fmt := 5, depth := 1 })] }
     ((s.member (s.memberOf s.cur)).fifos.get .blank 7).declared = true ∧
       ((s.member (s.memberOf s.cur)).fifos.get .blank 7).cbld = none ∧ s.tm.running = some (blockAt 0)) ∧
    ((laneState.member (laneState.memberOf laneState.cur)).fifos.get .blank 7).declared = false ∧
    formatBits ({ LaneF.plain with sc := 0x10 }).dfmt = 16 ∧ formatBits ({ LaneF.plain with sc := 0xA6 }).dfmt = 8 := by decide +kernel
theorem witness_CrossLaneResults : (255 : BitVec 9).toNat < 256 ∧ 288 ≤ (288 : BitVec 9).toNat ∧ (351 : BitVec 9).toNat < 352 := by decide
theorem witness_FoldsRunInLaneOrder : foldLanes .rne 0 0 (fun l => BitVec.ofNat 32 l) [3] = some 3 ∧ 1 < 2 ∧ 5 < 6 := by decide
/-- A team whose reconvergence stack holds these entries. -/
def withStack (l : List StackE) : State := laneState.modTm fun t => { t with stack := l }
def entryOf (k : StackKind) (cont : Mask) : StackE :=
  { kind := k, mask := BitVec.allOnes 1024, fmt := 0, start := 0, block := 0, cont := cont, mark := 1 }
theorem witness_Divergence :
    (laneState.tm.stack.length < laneState.tm.depth ∧ laneState.tm.stack = []) ∧
    (withStack (List.replicate 32 (entryOf .ifk 0))).tm.depth ≤ (withStack (List.replicate 32 (entryOf .ifk 0))).tm.stack.length ∧
    (withStack [entryOf .ifk 0]).tm.stack = entryOf .ifk 0 :: [] ∧ (withStack [entryOf .elsek 0]).tm.stack = entryOf .elsek 0 :: [] ∧
    (withStack [entryOf .loop 0]).tm.stack = entryOf .loop 0 :: [] ∧
    ((withStack [entryOf .ifk 0]).tm.stack.all fun e => e.kind != .loop) = true ∧
    (entryOf .loop 0).block = (blockAt 0).disp ∧ (withStack [entryOf .loop 0]).tm.getM 0 ||| (0 : Mask) ≠ 0 ∧
    ((withStack [entryOf .loop 0]).modTm fun t => { t with m := [(0, 0)] }).tm.getM 0 ||| (0 : Mask) = 0 := by decide +kernel
theorem witness_EarlyComparesAndTrims :
    (let f : LaneF := { LaneF.plain with dst := 287, sa := 263, sb := 1, md := 0x2C }
     256 ≤ f.sa.toNat ∧ f.sa.toNat < 264 ∧ laneState.floatCode f = 0 ∧ f.up3 < 6 ∧ f.md.getLsbD 2 = true) ∧
    (256 : BitVec 9).toNat < 264 := by decide
/-- 5.5 streams behind the digits 2, -2 (spec/20 R328), and 1.0 is complete: the one is above the other (spec/20 R334). -/
theorem witness_EarlyComparesAndTrims_streams :
    let x : Link := { Link.blank with st := .streaming, hdr := true, digits := [2, 6], value := 0x40B00000 }
    let y : Link := { x with hdr := true, digits := [], value := 0x3F800000 }
    x.InReach ∧ y.InReach ∧ Link.blank.InReach ∧ x.digits.length < 13 ∧ decideKnown 4 x.possible y.possible = some true ∧
      decideKnown 0 x.possible x.possible = none := by
  unfold Link.InReach; decide +kernel
theorem witness_LaneMemoryIssue :
    (let s := laneState.modTm fun t => { t with s := [(1, 0x100000)], running := some { blockAt 0 with snap := [(1, 0x100000)] } }
     let f : LaneF := { LaneF.plain with dst := 8, sa := 289, sc := 31 }
     f.order < 2 ∧ s.tm.recon = [] ∧ s.ops = [] ∧ s.sampleN = 0 ∧ tokenSt s 31 ≠ .pending ∧
       (∀ l ∈ activeLanes s f, s.addrFault f (s.tm.laneAddr { blockAt 0 with snap := [(1, 0x100000)] } f l) = none) ∧
       activeLanes s f ≠ [] ∧ (s.core (s.teamCore s.cur)).near = []) ∧
    (∀ r ∈ LaneF.dstCodes { LaneF.plain with dst := 252, md := 0x20 }, r < 8 * (blockAt 0).budget) ∧
    (let s := laneState.modTm fun t => { t with m := [(0, 0)] }
     activeLanes s LaneF.plain = []) ∧
    (let f : LaneF := { LaneF.plain with dst := 8, sa := 289, md := 0x40, imm := 0x7FFFD }
     activeLane laneState f 0 = true ∧ laneState.addrFault f (laneState.tm.laneAddr (blockAt 0) f 0) = some kMisaligned) ∧
    (let f : LaneF := { LaneF.plain with dst := 8, sa := 289, md := 0x40, imm := 0x80000 }
     f.hi2 = 1 ∧ laneState.tm.laneAddr (blockAt 0) f 0 % f.accessN = 0 ∧
       laneState.addrFault f (laneState.tm.laneAddr (blockAt 0) f 0) = some kOutOfPart) := by decide +kernel

theorem witness_MatrixSequencerWords :
    (seqState.sg.nreg 15 = 0 ∧ bits 0 12 1 = 0 ∧ bits 0x1000 12 1 = 1 ∧ bits 0x1800 11 2 = 3 ∧ 2 ≤ bits 0x1000 11 2 ∧ bits 0xFFF 11 2 = 1 ∧
      (∀ i ∈ seqState.sg.minstrs, i.isOver = true) ∧ seqState.sg.consts ≤ 4 * bits 0xFFF 0 11 ∧ SeqPlain seqState ∧ seqState.sg.nteams ≤ bits 1 0 8 ∧
      bits 0 0 8 < seqState.sg.nteams ∧ bits 0x2000 13 1 = 1 ∧ ((seqState.team 0).getT 31).st = .free ∧ seqState.sg.minstrs = [] ∧
      (∃ u ∈ seqState.teamsOf seqState.curGang, (seqState.team u).exited = false)) ∧
    (let s := seqState.modGang 0 fun g => { g with constb := 0x100000, consts := 8192, n := [(15, 1)] }
     s.sg.nreg 15 ≠ 0 ∧ 4 * bits 0xFFF 0 11 < s.sg.consts ∧ SeqPlain s ∧
       (s.constRead (s.coreNum s.curGang 0) s.sg.part (s.sg.constb + BitVec.ofNat 64 (4 * bits 0xFFF 0 11)).toNat).2 = .value 0 false) ∧
    (let s := withTok seqState 31 .pending
     ((s.team 0).getT 31).st ≠ .free) ∧
    (let s := seqState.modTm fun t => { t with tok := [(31, { Tok.pending with claimed := true })] }
     ((s.team 0).getT 31).st = .pending ∧ ((s.team 0).getT 31).claimed = true) := by
  unfold SeqPlain; decide +kernel
theorem witness_MatrixBarriers :
    (let s := seqState.modGang 0 fun g => { g with groups := [(7, 1 <<< 256)], bars := [(15, { Bar.blank with bound := some 7 })] }
     let f : MatF := { MatF.plain with bw := 31 }
     SeqPlain s ∧ f.bw.getLsbD 4 = true ∧ s.sg.swait = none ∧ s.sg.unapplied 256 = false ∧ (∀ i ∈ s.sg.minstrs, i.ba ≠ some 15) ∧
       s.sg.belongs 15 256 = true ∧ s.sg.belongs 14 256 = false ∧ (s.sg.bar 15).last.find? 256 = none ∧
       ArriveOk s { MatF.plain with ba := 31 } ∧ ¬ ArriveOk s { MatF.plain with ba := 30 }) ∧
    (let s := seqState.modGang 0 fun g => { g with groups := [(7, 1 <<< 256)], bars := [(15, { Bar.blank with bound := some 7, phase := 1, last := [(256, 0, false)] })] }
     (s.sg.bar 15).last.find? 256 = some (0, false) ∧ (0 : W32) ≠ (s.sg.bar 15).phase) ∧
    (let s := seqState.modGang 0 fun g => { g with swait := some { obj := .barrier 15, since := 0, limit := none, phase := 2, result := some 0 } }
     SeqOpen s { MatF.plain with bw := 31 }) := by
  refine ⟨?_, ?_, .inr ⟨_, _, rfl, rfl⟩⟩
  · unfold SeqPlain ArriveOk; decide +kernel
  · decide +kernel
/-- A gang of one core whose FIFOs 0 and 1 hold one FP16 entry each: every element 1.0, and every element 2.0. -/
def fedState : State :=
  let fifo (c : Nat) : Fifo :=
    { Fifo.blank with declared := true, fmt := 0, depth := 1, reserved := 1, entries := [(0, { elems := List.replicate 256 c, got := 256, landed := true, pois := false, origin := 0 })] }
  seqState.modMember 0 fun m => { m with fifos := [(0, fifo 0x3C00), (1, fifo 0x4000)] }
theorem witness_MatrixWordsIssue :
    (SeqPlain seqState ∧ ArriveOk seqState MatF.plain ∧ SeqOpen seqState MatF.plain ∧ TileThere seqState 255 ∧ ¬ FifosSuit seqState MatF.plain ∧
      seqState.accept.getLsbD 3 = true ∧ EpiOk seqState { MatF.plain with c := 255 } ∧
      (seqState.sg.nreg 0).toNat % 16 = 0 ∧ (seqState.sg.nreg 0).toNat + 272 ≤ seqState.padSize seqState.curGang) ∧
    (FifosSuit fedState { MatF.plain with fb := 1 } ∧ TileThere fedState 255 ∧ fedState.fifoOn 1 = true ∧ fedState.fifoOn 7 = false) ∧
    (let s := fedState.modMember 0 fun m => { m with stopped := true }
     EnginesHeld s) ∧
    (let s := seqState.modGang 0 fun g => { g with acc := 15, n := [(0, 0x7FFF0), (1, 8)] }
     ¬ TileThere s 255 ∧ (s.sg.nreg 1).toNat % 16 ≠ 0 ∧ s.padSize s.curGang < (s.sg.nreg 0).toNat + 272) := by
  refine ⟨?_, ?_, ?_, ?_⟩
  · refine ⟨by unfold SeqPlain; decide +kernel, by unfold ArriveOk; decide, .inl (by decide), ?_⟩
    unfold TileThere FifosSuit EpiOk TileThere; decide +kernel
  · unfold FifosSuit TileThere; decide +kernel
  · unfold EnginesHeld; decide +kernel
  · unfold TileThere; decide +kernel
theorem witness_MatrixEngineResults :
    EngineReady fedState { MatF.plain with fb := 1, c := 255 } ∧
    (FifosSuit fedState { MatF.plain with fb := 1, c := 255 } ∧ TileThere fedState 255 ∧
      (((fedState.member 0).fifo 0).head).isSome = true ∧ (((fedState.member 0).fifo 1).head).isSome = true) ∧
    (fedState.accept.getLsbD 3 = true ∧ EpiOk fedState { MatF.plain with c := 255 } ∧ EpiOk fedState { MatF.plain with c := 255, epi := 2, imm := 1 <<< 4 } ∧
      (∀ j < 272, (fedState.member 0).lineSt j ≠ 0) ∧ (fedState.member 0).spHit 0 272 0 .matrix (fedState.member 0).mskip = none ∧
      (∀ j < 1, ∃ e, ((fedState.member 0).fifo 0).entries.find? (((fedState.member 0).fifo 0).popped + BitVec.ofNat 32 j).toNat = some e ∧ e.landed = true)) := by
  refine ⟨⟨by unfold SeqPlain; decide +kernel, .inl (by decide), by unfold ArriveOk; decide, by decide, by decide, by decide +kernel, by decide⟩, ?_, ?_⟩
  · unfold FifosSuit TileThere; decide +kernel
  · refine ⟨by decide +kernel, ?_, ?_, by decide +kernel, by decide +kernel, ?_⟩
    · unfold EpiOk TileThere; decide +kernel
    · unfold EpiOk TileThere; decide +kernel
    · intro j h
      obtain rfl : j = 0 := by omega
      exact ⟨_, rfl, rfl⟩

/-- A running device, negotiated, in a pod, with CMD as given. -/
def managed (cmd : List W64) : State :=
  { State.reset with status := 1, power := .running, accept := Config.offer, pod := some 0, cmd := cmd ++ List.replicate (8 - cmd.length) 0 }
/-- The same with partition 0, its context 0 and its gang 0, and a debug session that has stopped the context. -/
def debugging (cmd : List W64) : State :=
  { scalarState with
    status := 1
    cmd := cmd ++ List.replicate (8 - cmd.length) 0
    ctxs := [(0, { fetchCtx with st := .stopped, halt := true })]
    parts := [(0, { fetchPart with session := some { ctx := 0, step := none, replay := none, dump := [] } })] }
theorem witness_ManagementProtocol :
    (managementCode .setPowerCap = some 7 ∧ cmdCode (managed [7]).cmd = 7 ∧ (managed [7]).run = none ∧ (managed [7]).mode = 1 ∧
      bits (listGet 0 (managed [7]).cmd 0).toNat 8 56 = 0 ∧ bits (listGet 0 (managed [0x107]).cmd 0).toNat 8 56 ≠ 0 ∧
      { managed [7] with status := 0 }.mode ≠ 1 ∧ { managed [7] with run := some ([7], 0, []) }.run.isSome = true ∧
      { managed [7] with run := some ([7], 0, []) }.cmdOver [7] = true ∧ { managed [2] with run := some ([2], 0, []) }.cmdOver [2] = true) ∧
    (let s := { scalarState with status := 1, run := some ([2, 0, 0, 0, 0, 0, 0, 0], 0, []) }
     s.cmdOver [2, 0, 0, 0, 0, 0, 0, 0] = false) ∧
    (listedCode 0 = false ∧ listedCode 10 = false ∧ listedCode 0x0F = false ∧ listedCode 0x1C = false ∧ Commanded (managed [0x1C]) 0x1C) ∧
    (0x100 ≤ 0x138 ∧ 0x138 < 0x140 ∧ 0x138 % 8 = 0 ∧ { managed [] with status := 0 }.power ≠ .recovery ∧ { managed [] with status := 0 }.mode ≠ 1) ∧
    ((0x1000000000 : W64).toNat % 2 ^ 36 = 0 ∧ { managed [] with status := 2 }.mode = 2 ∧ (managed []).accept.getLsbD 0 = true ∧
      (∀ j < 128, (managed []).accept.getLsbD j = true → (managed []).offer.getLsbD j = true) ∧ (State.reset).accept.getLsbD 0 = false) ∧
    ({ managed [10] with status := 3 }.mode = 3 ∧ cmdCode { managed [10] with status := 3 }.cmd = 10) := by
  unfold Commanded; decide +kernel
/-- The doublewords of a configuration block for quad 1 and the second GiB of HBM4E (spec/18 R310). -/
def configWords : List W64 :=
  [2, 0, 0x40000000, 0x40000000, 0, 0, 0x40000000, 0x40001000, 0x40002000, 0x40003000, 0x40004000, 0x40005000, 0x40006000, 0x1000,
   0x0007000700070007, 0x0000006400070007, 0x0000271000000064] ++ List.replicate 15 0
theorem witness_ManagementCommands :
    (let s := (managed [1, 7, 0x100]).setBytes 0x100 (wordBytes configWords)
     Commanded s 1 ∧ argOf s 1 < 8 ∧ argOf s 2 % 256 = 0 ∧ physOk (argOf s 2) = true ∧
       cfgOk (s.memBytes (argOf s 2) 256) (s.accept.getLsbD 1) = true ∧ s.parts.find? (argOf s 1) = none) ∧
    (let s := (({ managed [1, 7, 0x100] with parts := [(0, { fetchPart with cfg := readCfg (wordBytes configWords) })] }).setBytes 0x100 (wordBytes configWords))
     ∃ q ∈ s.parts, q.2.cfg.overlaps (readCfg (s.memBytes (argOf s 2) 256)) = true) ∧
    (let s := { managed [2, 0] with parts := [(0, fetchPart)] }
     Commanded s 2 ∧ argOf s 1 < 8 ∧ s.parts.find? (argOf s 1) = some fetchPart ∧ s.ctxsOf (argOf s 1) = []) ∧
    (let s := managed [3, 4095, 0x3FFFFFFFFFFFFF, 0x3FFF000]
     Commanded s 3 ∧ s.pod ≠ none ∧ argOf s 1 < 4096 ∧ bits (argOf s 2) 54 10 = 0 ∧ bits (argOf s 3) 26 38 = 0 ∧ bits (argOf s 3) 0 12 = 0) ∧
    ({ managed [3] with pod := none }.pod = none ∧ Commanded { managed [3] with pod := none } 3 ∧ Commanded { managed [4] with pod := none } 4) ∧
    (let s := managed [4, 4095, 0x1000, 0x1000, 0xFFFF, 7]
     Commanded s 4 ∧ argOf s 1 < 4096 ∧ windowOk [0x1000, 0x1000, 0xFFFF, 7] = true) ∧
    (Commanded (managed [5, 4095]) 5 ∧ Commanded (managed [6, 4095]) 6 ∧ ((managed [6, 4095]).slots.get Slot.blank 4095).st ≠ .latched ∧
      ({ managed [6, 4095] with slots := [(4095, { st := .latched, op := 0, refused := false })] }.slots.get Slot.blank 4095).st = .latched ∧
      4096 ≤ argOf (managed [6, 4096]) 1) ∧
    (Commanded (managed [7, 1200]) 7 ∧ 1200 ≤ argOf (managed [7, 1200]) 1 ∧ argOf (managed [7, 3200]) 1 ≤ 3200 ∧ argOf (managed [7, 1199]) 1 < 1200 ∧
      3200 < argOf (managed [7, 3201]) 1) := by unfold Commanded; decide +kernel
theorem witness_ManagementCommands_tables :
    (let s := managed [8, 1023, 0xBFFFFFF000]
     Commanded s 8 ∧ argOf s 1 < 1024 ∧ physOk (argOf s 2) = true ∧ physOk (argOf s 2 + 2047) = true) ∧
    (let s := managed [9, 0x1000, 0x1000]
     Commanded s 9 ∧ argOf s 2 = 2 ^ 12 ∧ argOf s 1 % 4096 = 0 ∧ physOk (argOf s 1) = true ∧ physOk (argOf s 1 + argOf s 2 - 1) = true) ∧
    (let s := managed [9, 0x1001, 0x2000000]
     Commanded s 9 ∧ argOf s 1 % 4096 ≠ 0 ∧ 2 ^ 24 < argOf s 2) := by unfold Commanded; decide +kernel
theorem witness_DebugCommands :
    (let s := debugging [0x13, 0, 0]
     s.sessions = [(0, { ctx := 0, step := none, replay := none, dump := [] })] ∧ (s.parts.find? 0).isSome = true ∧ (s.ctxs.find? 0).isSome = true ∧
       Commanded s 0x13 ∧ argOf s 1 < 2 ^ 20 ∧ (s.gangs.find? 0).isSome = true ∧ argOf s 2 < (s.gang 0).nteams ∧ (s.gang 0).st = .resident ∧
       (s.team 0).exited = false) ∧
    ({ debugging [0x12] with ctxs := [(0, fetchCtx)] }.ctxs.find? 0 = some fetchCtx ∧ fetchCtx.halt = false ∧ fetchCtx.st ≠ .ended) ∧
    (Commanded (debugging [0x11]) 0x11 ∧ Commanded (debugging [0x14]) 0x14) ∧
    (let s := debugging [0x15, 0, 3, 0x7F_00_E0_00_80]
     Commanded s 0x15 ∧ argOf s 1 < Config.cores ∧ argOf s 2 < 4 ∧ bits (argOf s 3) 24 8 = 0 ∧ bits (argOf s 3) 40 24 = 0 ∧
       bits (argOf s 3) 0 21 % 2 ^ bits (argOf s 3) 21 3 = 0 ∧ s.heldBy 0 (argOf s 1) = some 0) ∧
    (let s := debugging [0x16, 0, 7, 0, 7]
     Commanded s 0x16 ∧ argOf s 1 < 128 ∧ argOf s 2 < 8 ∧ bits (argOf s 4) 0 6 = 7 ∧ homedAt (sliceOf 0 0) (argOf s 3) (bits (argOf s 4) 0 6) = true) ∧
    (let s := debugging [0x17, 0x10000000, 0x100000]
     Commanded s 0x17 ∧ argOf s 2 % 2 ^ 20 = 0 ∧ fetchPart.cfg.holds (argOf s 1) (argOf s 2) = true ∧ 0x80000 % 2 ^ 20 ≠ 0) ∧
    (let s := (debugging [0x18, 0]).modGang 0 fun g => { g with record := true }
     Commanded s 0x18 ∧ argOf s 1 < 2 ^ 20 ∧ (s.gang 0).record = true) ∧
    (let s := debugging [0x19, 0, 0, 0]
     Commanded s 0x19 ∧ argOf s 3 < 2 ^ 32 ∧ s.ckpts.get [] 0 = []) ∧
    (let i : Image := { kind := 3, gangKey := 0, gang := fetchGang, teams := [], members := [], ops := [], journal := [] }
     let s := { debugging [0x19, 0, 0, 0, 0] with ckpts := [(0, [i])] }
     (s.ckpts.get [] 0).find? (fun j => j.gang.interval.toNat == argOf s 3) = some i ∧ (s.ckpts.get [] 0).getLast? = some i ∧
       (s.gang 0).suspended = false ∧ untilCount 0 (argOf s 4) (s.orders.get [] 0) = some []) ∧
    (let s := debugging [0x1A, 24, 0x10000000, 4096]
     Commanded s 0x1A ∧ 4 ≤ argOf s 1 ∧ argOf s 1 ≤ 24 ∧ argOf s 3 = 2 ^ 12 ∧ physOk (argOf s 2) = true ∧ physOk (argOf s 2 + argOf s 3 - 1) = true) ∧
    (let s := debugging [0x1B, 0, 7, 9]
     Commanded s 0x1B ∧ (s.core (argOf s 1)).issuing = some 0 ∧ s.heldBy (ctxOf 0) (argOf s 1) = some 0) := by
  refine ⟨?_, ?_, ?_, ?_, ?_, ?_, ?_, ?_, ?_, ?_, ?_⟩ <;> (try unfold Commanded) <;> decide +kernel
theorem witness_DebugCommands_attach :
    let s := { debugging [0x10, 1, 255] with parts := [(0, { fetchPart with session := some { ctx := 0, step := none, replay := none, dump := [] } }), (1, fetchPart)], ctxs := [(0, fetchCtx), (511, fetchCtx)] }
    Commanded s 0x10 ∧ argOf s 1 < 8 ∧ argOf s 2 < 256 ∧ s.parts.find? (argOf s 1) = some fetchPart ∧ fetchPart.session = none ∧
      (s.ctxs.find? (argOf s 1 * 256 + argOf s 2)).isSome = true ∧ s.sessions.length = 1 ∧ argOf (debugging [0x10, 0, 255]) 1 = 0 := by
  unfold Commanded; decide +kernel

/-- A step of the machine with these operands. -/
def withArg (s : State) (a : Args) : State := { s with arg := a }
theorem witness_HostAccess :
    (let s := withArg { managed [] with parts := [(0, fetchPart)] } { Args.none with x := 8, y := 0xFFFFFFFFF, data := [1] }
     s.aperture 8 = some (0, 2 ^ 36) ∧ s.arg.y + s.arg.data.length ≤ 2 ^ 36 ∧ (∀ i < s.arg.data.length, physOk (0 + s.arg.y + i) = true) ∧
       (∀ q ∈ s.parts, ∀ r ∈ [q.2.cfg.subq, q.2.cfg.compq + 4, q.2.cfg.faultq + 4, q.2.cfg.prs],
         r + 4 ≤ 0 + s.arg.y ∨ 0 + s.arg.y + s.arg.data.length ≤ r)) ∧
    (let s := withArg (managed []) { Args.none with x := 7, u := 2, z := 8 }
     s.aperture s.arg.x = none ∧ s.arg.u = 2 ∧ s.arg.x < 8 ∧ (s.parts.find? s.arg.x).isSome = false) ∧
    (let s := withArg (managed []) { Args.none with x := 8, u := 2, z := 8, y := 2 ^ 36 - 4 }
     s.aperture s.arg.x = some (0, 2 ^ 36) ∧ ∀ i < s.arg.z, s.arg.y + i < 2 ^ 36 → physOk (0 + s.arg.y + i) = true) ∧
    (let s := withArg { managed [] with parts := [(0, fetchPart)] } { Args.none with x := 0 }
     s.parts.find? s.arg.x = some fetchPart ∧ fetchPart.state = 1 ∧ s.ctxsOf s.arg.x = []) ∧
    (let s := withArg { managed [] with parts := [(0, { fetchPart with state := 3 })] } { Args.none with x := 0 }
     s.parts.find? s.arg.x = some { fetchPart with state := 3 } ∧ s.ctxsOf s.arg.x = [] ∧ s.tfaults = [] ∧
       { s with ctxs := [(0, fetchCtx)] }.ctxsOf s.arg.x ≠ []) := by decide +kernel
/-- Whether the flash holds a good bundle is the implementation's (log entry 11): one of the two clauses of a boot applies. -/
theorem witness_PowerAndBoot (p : Prop) :
    (p ∨ ¬ p) ∧ State.reset.power = .boot ∧ State.reset.arg.ok = false ∧ State.reset.flashCfg = [] ∧
    (withArg State.reset { Args.none with ok := true }).arg.ok = true ∧ { State.reset with power := .off }.power = .off ∧ (managed []).power = .running ∧
    { State.reset with power := .heldReset }.power = .heldReset ∧
    (let s := withArg (managed []) { Args.none with x := 1, y := 2950, z := 340, u := 99 }
     s.arg.x < 2 ∧ settingsOk s.arg.y s.arg.z s.arg.u = true ∧ s.arg.y ≤ (s.die s.arg.x).mhz ∧ s.arg.u ≤ (s.die s.arg.x).limit ∧ s.traceS = 0) ∧
    (let s := withArg { managed [] with dies := [(1, { mhz := 2950, mv := 340, limit := 99, causes := [4] })] }
       { Args.none with x := 1, y := 4, z := 3000, u := 350, v := 100 }
     s.arg.x < 2 ∧ s.arg.y ∈ (s.die s.arg.x).causes ∧ settingsOk s.arg.z s.arg.u s.arg.v = true ∧ (s.die s.arg.x).mhz ≤ s.arg.z ∧
       (s.die s.arg.x).limit ≤ s.arg.v) := ⟨Classical.em p, by decide +kernel⟩
/-- A device of a pod, with window 7 of partition 0: the second MiB, read and write for every device; and its arguments. -/
def windowed (a : Args) : State :=
  withArg { scalarState with status := 1, pod := some 0, windows := [(7, ([0x100000, 0x100000, 0xFFFF, 7], false))] } a
def pageOf : Leaf := { bits := 39, dw0 := 0xB8, dw1 := 0 }
/-- A segment at the last line of the window. -/
def lastLine : Args := { Args.none with x := 3, y := 0, z := 7, u := 0xFFF80, v := 9, data := List.replicate 128 1, list := [128] }
theorem witness_PeerPage : PeerPage (windowed lastLine) 128 true pageOf 0x1FFF80 ∧ PeerPage (windowed lastLine) 128 false pageOf 0x1FFF80 :=
  ⟨⟨by decide, rfl, rfl, by decide, by decide +kernel, by decide, by decide, fun _ => by decide, by decide, by decide +kernel⟩,
    ⟨by decide, rfl, rfl, by decide, by decide +kernel, by decide, by decide, nofun, by decide, by decide +kernel⟩⟩
/-- An operation of the team in flight, number 1. -/
def withOp (s : State) (x : Op) : State := { s with ops := [(1, x)], nextOp := 2 }
def vrefOp : Op := { Op.blank with kind := .vref, started := true }
def copyOp : Op := { Op.blank with kind := .copy, started := true }
/-- A request, number 0. -/
def reqOf (st : ReqSt) : Req :=
  { id := 0, addr := 0x100000, n := 4, data := [1, 2, 3, 4], cmp := [], pois := false, count := 0, stage := 0, dst := 0, st := st, cause := 0 }
theorem witness_FabricEvents_segments :
    ((windowed lastLine).incoming = [] ∧ (windowed lastLine).windows.find? 7 = some ([0x100000, 0x100000, 0xFFFF, 7], false) ∧
      (windowed lastLine).windows.find? 8 = none ∧ 0 < (windowed lastLine).arg.data.length ∧
      (windowed lastLine).arg.u % 128 + (windowed lastLine).arg.data.length ≤ 128 ∧ (windowed lastLine).arg.marks.length ≤ 128 ∧
      (windowed lastLine).arg.slot = none ∧ (windowed lastLine).pod = some 0 ∧ 0 ∉ (windowed lastLine).arg.list ∧ (windowed lastLine).ecc = []) ∧
    ((windowed { lastLine with u := 0xFFF81 }).windowCheck 3 0 7 0xFFF81 128 true ≠ 0 ∧
      (windowed { lastLine with slot := some 4095 }).arg.slot = some 4095 ∧ (windowed { lastLine with list := [0] }).arg.list = [0]) ∧
    (windowed { lastLine with list := [128, 5] }).arg.list[1]? = some 5 ∧ pageOf.isSealed = false ∧
    (windowed lastLine).windowCheck 3 0 7 0xFFF80 128 false = 0 ∧
    ((windowed lastLine).pagesOf 0 (128 / 4096 + 2) 0x1FFF80 (0x1FFF80 + 128)).isSome = true := by decide +kernel
theorem witness_FabricEvents_answers :
    (let s := withArg (withOp { managed [] with outbox := [{ code := 6, dev := 3, win := 7, off := 0, data := [], marks := [], slot := none, tag := 1, arg := 0 }] } vrefOp)
        { Args.none with x := 1, y := 0, z := 8 }
     s.ops.find? 1 = some vrefOp ∧ vrefOp.kind = .vref ∧ vrefOp.started = true ∧ vrefOp.reqs = [] ∧ (s.sent 1 0).isSome = true ∧ 1 ≤ s.arg.z ∧ s.arg.z ≤ 8 ∧
       vrefOp.cause = 0) ∧
    (let s := withArg (withOp scalarState { vrefOp with snap := [0x100000, 0x80] }) { Args.none with x := 1 }
     (s.pagesOf (s.gang 0).part (0x80 / 4096 + 1) 0x100000 (0x100000 + 0x80)).isSome = true) ∧
    (let s := withArg (withOp scalarState { copyOp with reqs := [{ reqOf .port with stage := 3 }] }) { Args.none with x := 1, y := 0 }
     (s.req 1 0).isSome = true ∧ s.arg.u ≠ 1 ∧ s.answerEarly 1 0 = false ∧ copyOp.isPb = false ∧ { copyOp with kind := .parr }.isPb = true) ∧
    (let x : Op := { copyOp with reqs := [reqOf .ready, { reqOf .port with id := 1, stage := 3 }] }
     let s := withArg (withOp scalarState x) { Args.none with x := 1, y := 1 }
     (s.req 1 1).isSome = true ∧ s.answerEarly 1 1 = true) ∧
    (let x : Op := { copyOp with snap := [5 * 2 ^ 33, 0, 0, 0, 0, 0, 0, 0], list := [4, 9] }
     x.kind = .copy ∧ x.started = true ∧ x.snap ≠ [] ∧ x.answered = false ∧ 9 ∈ x.list ∧ (∀ e ∈ x.neg, e.1 ≠ 9) ∧
       x.commit.contains (2 ^ 43 + 9) = false ∧ { x with commit := [2 ^ 43 + 4] }.commit.contains (2 ^ 43 + 4) = true) := by decide +kernel

theorem witness_FabricEvents_barriers :
    (let x : Op := { copyOp with snap := [0, 5 * 2 ^ 54, 0, 0, 0, 0, 0, 0], list := [4, 9] }
     x.blk.dspace = 5) ∧
    (let s := (windowed { lastLine with list := [0, 1] }).setBytes 0x1FFF80 (wordBytes [BitVec.ofNat 64 (2 ^ 32 + 3 * 2 ^ 56 + 2 ^ 60), BitVec.ofNat 64 (2 ^ 36)])
     s.arg.list[1]? = some 1 ∧ s.arg.ok = false ∧ s.arg.u % 16 = 0 ∧ (s.pbMem 0x1FFF80).init = true ∧
       scopeSuits false (s.pbMem 0x1FFF80).scope = true ∧ s.marked (0x1FFF80 / 64) = false ∧ (s.pbMem 0x1FFF80).held = [] ∧
       (s.pbMem 0x1FFF80).pending = 1 ∧ (s.pbMem 0x1FFF80).balance = 0) ∧
    (let s := withWait (withPage { scalarState with arg := { Args.none with x := 6, z := 9, u := 0x3010, w := 1 } } 0x8000 0x3098 0x1802480000)
       { obj := .phaseBar 0x8010, since := 0, limit := none, phase := 1, result := none }
     s.teams.find? 0 = some (s.team 0) ∧ s.pbLook 0 0x8010 0 = .remote s.arg.x s.arg.z s.arg.u) ∧
    (0 < Config.ports ∧ ((managed []).ports.get Port.blank 0).failed = 0 ∧
      ({ managed [] with ports := [(0, { up := true, lanes := 4, failed := 0, penura := false })] }.ports.get Port.blank 0).up = true) := by
  decide +kernel
theorem witness_FabricEvents_slots :
    let m : Msg := { code := 0, dev := 3, win := 7, off := 0, data := [], marks := [], slot := none, tag := 5, arg := 4 }
    let c : Inc := { dev := 3, win := 7, tag := 5, slot := some 4095, mcast := false, open_ := [], last := true, cause := 0, off := 0, held := some m }
    let s := { managed [] with incoming := [c], arg := { Args.none with x := 4095, y := 3, z := 5 } }
    let armed := { withOp s { Op.blank with kind := .trig } with slots := [(4095, { st := .armed, op := 1, refused := false })] }
    (s.arg.u ≠ 1 ∧ s.incoming = [c] ∧ c.dev = s.arg.y ∧ c.tag = s.arg.z ∧ c.slot = some s.arg.x ∧ c.held = some m ∧ c.mcast = false ∧
      (s.slots.get Slot.blank s.arg.x).st = .idle) ∧
    ({ s with slots := [(4095, { st := .latched, op := 0, refused := false })] }.slots.get Slot.blank 4095).st = .latched ∧
    ((armed.slots.get Slot.blank 4095).st = .armed ∧ armed.ops.find? 1 = some { Op.blank with kind := .trig }) ∧
    (let t := withArg (withOp scalarState { Op.blank with kind := .trig, failed := true }) { Args.none with y := 1, u := 1 }
     t.arg.u = 1 ∧ (t.ops.find? t.arg.y).isSome = true ∧ t.opLive { Op.blank with kind := .trig, failed := true } = true ∧
       ((t.member 0).queues.get [] 0).length < 16) := by decide +kernel
theorem witness_SchedulerEvents_signals :
    ({ State.reset with ops := [(1, Op.blank)] }.allOver [1] = false ∧ (scalarState.allOver [] = true ∧ scalarState.arg.y = 0 ∧ scalarState.arg.slot = none) ∧
      (∀ c ∈ scalarState.ctxs, ∀ w ∈ c.2.waits, w.name = scalarState.arg.x → waitMet (scalarState.evt.get 0 0 + 1) w.target = false)) ∧
    (let w : EvWait := { name := 0, target := 1, order := 0 }
     let x : Ctx := { fetchCtx with st := .waiting, waits := [w] }
     let s := { scalarState with ctxs := [(0, x)] }
     s.ctxs = [(0, x)] ∧ x.waits = [w] ∧ w.name = s.arg.x ∧ waitMet (s.evt.get 0 s.arg.x + 1) w.target = true ∧ x.batch = false ∧ x.signalOnly = false) ∧
    (let s := withArg { scalarState with ctxs := [(0, { fetchCtx with halt := true })] } { Args.none with y := 1 }
     s.arg.y = 0 + 1 ∧ s.ctxs.find? 0 = some { fetchCtx with halt := true }) ∧
    (let s := withArg { scalarState with ctxs := [] } { Args.none with w := 32 }
     s.parts.find? s.arg.x = some fetchPart ∧ fetchPart.puts = [] ∧ fetchPart.cfg.subq + 8 ≤ fetchPart.cfg.compq ∧ fetchPart.heldC = [] ∧
       31 < ((32 : W32) - s.mem32 (fetchPart.cfg.subq + 4)).toNat ∧ (s.mem32 fetchPart.cfg.compq - s.mem32 (fetchPart.cfg.compq + 4)).toNat < 62) ∧
    (let ws : List W64 := [2, 0, 0, 0, 0, 0, 0, 0]
     ws.length = 8 ∧ (ws.headD 0).toNat % 256 = 2 ∧ ((scalarState.setBytes fetchPart.cfg.compq [62]).mem32 fetchPart.cfg.compq - 1).toNat < 62) := by
  decide +kernel
/-- An image of a gang of one core with one team. -/
def smallImage : Image :=
  { kind := 0, gangKey := 0, gang := { Gang.blank with cores := [0], nteams := 1, lanesU := 1, scratch := 1, acc := 1, haddr := 0 }, teams := [(0, Team.blank)],
    members := [(0, Member.blank)], ops := [], journal := [] }
def waitingCtx : Ctx := { fetchCtx with placed := 0 }
/-- A launch of one gang that the Scheduler has taken up. -/
def placing : State := { scalarState with ctxs := [(0, waitingCtx)], gangs := [], teams := [], members := [], cores := [], images := [(blankKey 0, smallImage)] }
theorem witness_Placeable : Placeable placing 0 0 fetchPart waitingCtx smallImage :=
  ⟨by decide, by decide, by decide, by decide, by decide, by decide, by decide, by decide +kernel, by decide⟩
theorem witness_SchedulerEvents_resume :
    (let pt : Part := { fetchPart with puts := [32] }
     let s := withArg { scalarState with ctxs := [], parts := [(0, pt)] } { Args.none with x := 0 }
     s.parts.find? s.arg.x = some pt ∧ pt.cfg.subq + 8 ≤ pt.cfg.compq ∧ pt.state = 1 ∧ s.power = .running ∧ pt.heldC = [] ∧
       (s.mem32 pt.cfg.compq - s.mem32 (pt.cfg.compq + 4)).toNat < 62 ∧ 31 < ((32 : W32) - s.mem32 (pt.cfg.subq + 4)).toNat) ∧
    (let pt : Part := { fetchPart with puts := [31], taken := 31 }
     ((31 : W32) - scalarState.mem32 (pt.cfg.subq + 4)).toNat ≤ 31 ∧ pt.taken = 31) ∧
    (let pt : Part := { fetchPart with puts := [1], taken := 0 }
     let s := withArg { scalarState with ctxs := [], parts := [(0, pt)] } { Args.none with x := 0 }
     let r := s.subRecord pt.cfg.subq (s.mem32 (pt.cfg.subq + 4))
     (1 : W32) = s.mem32 (pt.cfg.subq + 4) + 1 ∧ pt.taken = s.mem32 (pt.cfg.subq + 4) ∧
       (s.verify 0 pt r (if r.signalOnly then none else some (s.readImage 0 r.image))).isSome = true) := by
  decide +kernel
theorem witness_SchedulerEvents_placement :
    placing.gangs = [] ∧ (placing.freeSet fetchPart smallImage.size).isSome = true ∧
    (let s := { placing with parts := [(0, { fetchPart with cfg := { fetchPart.cfg with quadsB := 0 } })] }
     s.freeSet { fetchPart with cfg := { fetchPart.cfg with quadsB := 0 } } smallImage.size = none ∧ scalarState.gangDone 0 = false ∧ s.ns - waitingCtx.since ≤ fetchPart.cfg.preempt * 1000) := by
  decide +kernel
theorem witness_SchedulerEvents_preEmption :
    let pt : Part := { fetchPart with cfg := { fetchPart.cfg with quadsB := 1 } }
    let four : Image := { smallImage with members := [(0, Member.blank), (1, Member.blank), (2, Member.blank), (3, Member.blank)] }
    let x : Ctx := { waitingCtx with prio := 1 }
    let s := { placing with
      parts := [(0, pt)], ctxs := [(0, x), (1, { fetchCtx with num := 1 })], ns := 100001, images := [(blankKey 0, four)]
      gangs := [(gangKey 1 0, { fetchGang with ctx := 1 })], teams := [(teamKey (gangKey 1 0) 0, fetchTeam false)],
      cores := [(0, { CoreHw.blank with issuing := some (gangKey 1 0) })] }
    s.parts.find? s.arg.x = some pt ∧ (s.placeOrder s.arg.x).head? = some (0, false) ∧ s.ctxs.find? 0 = some x ∧ x.places = true ∧ x.placed = 0 ∧ 0 < x.gangs ∧
      x.coresAll = false ∧ s.awayGangs 0 = [] ∧ pt.cfg.preempt * 1000 < s.ns - x.since ∧ four.kind = 0 ∧
      s.chooseVictims pt x.prio four.size = some ([0, 1, 2, 3], [gangKey 1 0]) ∧ gangKey 1 0 ≠ gangKey 0 0 := by decide +kernel
theorem witness_SchedulerEvents_times :
    (let s := scalarState.modGang 0 fun g => { g with st := .spilling }
     (s.gang s.arg.x).st = .spilling ∧ (scalarState.gang 0).st ≠ .spilling) ∧
    (let s := withArg (withOp scalarState { Op.blank with kind := .vst, reqs := [reqOf (.home 1)] }) { Args.none with y := 1, z := 0 }
     (s.req 1 0).isSome = true ∧ s.arg.ok = false ∧ (s.gang s.arg.x).image = 0 ∧ (s.gang s.arg.x).awaits ≤ 1) ∧
    (let x : Ctx := { fetchCtx with deadline := 5, halt := true }
     let s := { scalarState with ctxs := [(0, x)], ns := 5000 }
     s.ctxs.find? s.arg.x = some x ∧ x.st ≠ .ended ∧ x.fatal = false ∧ x.missed = false ∧ x.since + x.deadline * 1000 ≤ s.ns ∧ 4999 < x.since + x.deadline * 1000) ∧
    (let s := { scalarState with ctxs := [(0, { fetchCtx with st := .waiting })] }
     s.parts.find? s.arg.x = some fetchPart ∧ s.arg.z ≤ s.ns ∧ (∀ c ∈ s.ctxs, c.2.st ≠ .eligible)) ∧
    (let s := withWait scalarState { obj := .tokens 1, since := 0, limit := none, phase := 0, result := none }
     s.ctxs = [(0, fetchCtx)] ∧ partOf 0 = s.arg.x ∧ fetchCtx.st = .eligible ∧ fetchCtx.halt = false ∧ fetchCtx.fatal = false ∧ s.gangsOf 0 = [0] ∧
       (s.gang 0).st = .resident ∧ (∀ e ∈ s.waitEntries 0, e.agent ≠ 4 ∧ e.agent ≠ 6) ∧ deadlocked (s.waitEntries 0) ≠ []) := by decide +kernel

theorem witness_OperationEvents_starts :
    (let x : Op := { Op.blank with waiting := 1 }
     let s := withArg (withOp scalarState x) { Args.none with x := 1 }
     s.ops.find? 1 = some x ∧ x.started = false ∧ x.isLane = false ∧ x.kind ≠ .copy ∧ x.kind ≠ .mepi ∧ x.kind ≠ .credit ∧ x.waiting ≠ 0 ∧
       (∀ q ∈ x.reqs, q.id ≠ snapId)) ∧
    (let x : Op := { Op.blank with kind := .seal, pois := some (5, 0) }
     let s := withOp scalarState x
     x.waiting = 0 ∧ s.allOver x.after = true ∧ s.opFresh x = true ∧ x.pois = some (5, 0) ∧ x.kind.runsPoisoned = false ∧
       s.opFresh { x with kind := .parr, pois := none } = true ∧ { x with kind := .parr, pois := none }.isPb = true) ∧
    (let x : Op := { Op.blank with kind := .vld, reqs := [reqOf .done] }
     x.isLane = true ∧ x.allDone = true ∧ x.kind ≠ .vprf) ∧
    (let x : Op := { Op.blank with kind := .sstg true, reqs := [reqOf .done] }
     x.reqs = [reqOf .done] ∧ x.isScalar = true ∧ (reqOf .done).st = .done) := by decide +kernel
/-- Core 0 holds the translation of every address below 512 GiB. -/
def translated (s : State) : State := s.modCore 0 fun c => { c with tlb := [{ part := 0, vpage := 0, bits := 39, dw0 := 0xB8, dw1 := 0 }] }
theorem witness_OperationEvents_load :
    let x : Op := { Op.blank with kind := .sldg true, reg := 63, reqs := [reqOf .ready] }
    let s := translated (withOp scalarState x)
    x.reqs = [reqOf .ready] ∧ s.opLive x = true ∧ s.clear 1 x (reqOf .ready) = true ∧ s.replaying (gangOf x.team) = false ∧
      (reqOf .ready).addr < 2 ^ 54 ∧ s.lookup (s.opCore x) (s.gang x.gang).part (reqOf .ready).addr = some pageOf ∧ pageOf.loads = true ∧ s.ecc = [] ∧
      s.markedRange (pageOf.pa (reqOf .ready).addr) 4 = false ∧ 0 < x.reg ∧ x.reg < 64 ∧
      ((s.team x.team).loads.any fun e => e.op == 1 && e.clob) = false := by decide +kernel
/-- A constant copy of 128 bytes to scratchpad address 0x100, whose block stands at 0x2000 of the scratchpad (spec/08 R155). -/
def copyWords : List W64 :=
  [6 * 2 ^ 54, 1 * 2 ^ 54 + 0x100, 2 ^ 32 + 2 ^ 16 + 0x80, 0, 0, 0, 0, 0]
theorem witness_OperationEvents_copy :
    let x : Op := { Op.blank with kind := .copy, a := 0x40000000002000 }
    let s := (withOp scalarState x).modMember 0 fun m => { m.setBytes 0x2000 (wordBytes copyWords) with queues := [(0, [1])] }
    (x.started = false ∧ s.queueHead 1 x = true ∧ s.opFresh x = true ∧ x.waiting = 0 ∧ s.allOver x.after = true ∧ x.pois = none ∧
      (match s.snapBlock 1 x x.a with
       | .words l t => l == copyWords && t.ops == s.ops && (t.checkBlk { x with snap := l } { x with snap := l }.blk).isNone && { x with snap := l }.blk.dspace != 5
       | _ => false) = true) ∧
    (let y : Op := { x with started := true, snap := copyWords }
     y.finished = false ∧ y.failed = false ∧ y.segId y.pos = 2 ^ 48 ∧ y.outstanding < 32 ∧ s.opFresh y = true ∧ y.pos < y.blk.total ∧ y.pos < 2 ^ 48 ∧
       y.commit.contains y.pos = false ∧ y.blk.elem y.pos = .const false ∧ y.blk.dspace = 1 ∧ y.blk.rop = 0 ∧ s.sampleN = 0 ∧
       (s.member y.member).spHit (y.blk.dst y.pos) (y.blk.run 127 y.pos * y.blk.esize) 1 .copy none = none) := by decide +kernel
theorem witness_OperationEvents_ends :
    (let x : Op := { copyOp with reqs := [{ reqOf .performed with id := 2 ^ 48 }] }
     let s := withOp scalarState x
     1 < s.nextOp ∧ (s.req 1 (2 ^ 48)).isSome = true ∧ 2 ^ 48 < snapId ∧
       (∀ r ∈ x.reqs, r.id < snapId → r.id ≠ 2 ^ 48 → r.st = .done ∧ segPos r.id ∈ x.applied)) ∧
    (let r : Req := reqOf .ready
     let x : Op := { copyOp with reqs := [r, { reqOf .performed with id := 2 ^ 48 }] }
     (x.reqs.filter fun r => decide (r.id < snapId)).head? = some r ∧ r.id ≠ 2 ^ 48 ∧ r.st ≠ .done) ∧
    (let x : Op := { copyOp with failed := true, attempt := 2 }
     let s := withOp scalarState x
     x.failed = true ∧ x.attempt < 3 ∧ x.started = true ∧ s.opLive x = true ∧ (∀ q ∈ x.reqs, q.st = .done ∨ q.open_ = true)) ∧
    { copyOp with finished := true }.finished = true ∧
    (let x : Op := { Op.blank with kind := .xgat, started := true, snap := [0, 0x1000, 1, 2, 0, 0, 0, 0] }
     let s := withOp scalarState x
     x.finished = false ∧ s.opFresh x = true ∧ s.replaying (x.member / 4) = false ∧ s.replaying x.gang = false ∧ x.pos < x.steps ∧
       (x.stepAt x.pos 1).2 * x.desc.size = 4 ∧ 1 < x.desc.n ∧ 1 ≠ x.desc.rank ∧ 1 ∉ x.list ∧ x.steps ≤ 1) ∧
    (let f : Fifo := { Fifo.blank with declared := true, entries := [(7, { elems := [], got := 0, landed := false, pois := false, origin := 0 })] }
     let s := (withOp scalarState copyOp).modMember 0 fun m => { m with fifos := [(0, f)] }
     (s.member 0).mq = [] ∧ (((s.member 0).fifo copyOp.blk.darg).entries.find? 7).isSome = true) := by decide +kernel
theorem witness_OperationEvents_matrix :
    let i : MInstr := { seq := 0, pc := 0, word := 0, ba := some 15, left := [], ops := [] }
    let s := scalarState.modGang 0 fun g => { g with minstrs := [i], groups := [(7, 1 <<< 256)], bars := [(15, { Bar.blank with bound := some 7 })] }
    (∀ k ∈ s.membersOf s.arg.x, (s.member k).mq = []) ∧ (s.gang s.arg.x).minstrs = [i] ∧ i.isOver = true ∧ i.ba = some 15 ∧
      (s.gang s.arg.x).bevents = [] ∧ (s.gang s.arg.x).belongs 15 256 = true ∧ ((s.gang s.arg.x).bar 15).arrivals.getLsbD 256 = false := by decide +kernel
theorem witness_OperationEvents_links :
    (∀ h ∈ [(false, 0), (true, 11), (true, 12)],
      let k : Link := { Link.blank with st := .streaming, hdr := h.1, digits := List.replicate h.2 0, value := 0x40B00000 }
      let s := scalarState.modTm fun t => { t with links := [(0, k)] }
      (s.gang (gangOf s.arg.x)).st = .resident ∧ (s.team s.arg.x).laneStopped = false ∧ ((s.team s.arg.x).stream 0 0) = k ∧ k.pend = false ∧
        (s.team s.arg.x).sourcesReady k 0 = true ∧ (s.team s.arg.x).cmpd = []) ∧
    (let k : Link := { Link.blank with st := .streaming, hdr := true, digits := List.replicate 12 0, value := 0x40B00000 }
     let tm := { scalarState.tm with vs := [(255 * 1024 + 31, k)], v := [(255 * 1024 + 31, k.value)] }
     tm.stream (16 + 255) 31 = k ∧ tm.sourcesReady k 31 = true) ∧ streamsDigits 0x40B00000 = true ∧ streamsDigits 0 = false := by decide +kernel
theorem witness_OperationEvents_lanes :
    (let s := scalarState.modTm fun t => { t with queue := [.block { blockAt 0 with waiting := 1 }] }
     (s.team s.arg.x).laneStopped = false ∧ (s.gang (gangOf s.arg.x)).st = .resident ∧ (s.team s.arg.x).running = none ∧
       (s.team s.arg.x).queue = .block { blockAt 0 with waiting := 1 } :: [] ∧ { blockAt 0 with waiting := 1 }.waiting ≠ 0 ∧ (blockAt 0).waiting = 0 ∧
       s.allOver (blockAt 0).after = true) ∧
    (let s := scalarState.modTm fun t => { t with ended := [blockAt 3] }
     (s.team s.arg.x).ended = blockAt 3 :: [] ∧ (s.team s.arg.x).streamsOver (blockAt 3).disp = true) ∧
    (let w : Wait := { obj := .pool 1, since := 0, limit := none, phase := 0, result := none }
     let s := (withWait (scalarState.modTm fun t => { t with budget := 1 }) w).modMember 0 fun m => { m with vq := [0] }
     (s.member s.arg.x).vq = 0 :: [] ∧ (s.team 0).wait = some w ∧ (s.team 0).units 1 ≤ s.freeUnits (s.arg.x / 4) (s.arg.x % 4) ∧
       (s.modGang 0 fun g => { g with lanesU := 0 }).freeUnits 0 0 < (s.team 0).units 1) ∧
    (let w : Wait := { obj := .tokens 1, since := 0, limit := some 5, phase := 0, result := none }
     let s := { withWait scalarState w with cyc0 := 6 }
     (s.team s.arg.x).wait = some w ∧ (s.team s.arg.x).met w = false ∧ (s.team s.arg.x).stopped = false ∧ w.since + 5 < s.cycleOf (s.teamCore s.arg.x)) ∧
    (let w : Wait := { obj := .phaseBar 0x40000000000040, since := 0, limit := none, phase := 1, result := none }
     (match (withWait (barrierAt 1 false) w).pbLook 0 0x40000000000040 0 with
      | .status v => phaseDone v
      | _ => false) = true ∧
     (match (withWait (barrierAt 0 false) w).pbLook 0 0x40000000000040 0 with
      | .status v => !phaseDone v
      | _ => false) = true) := by decide +kernel

/-- A lane's operation of this kind, with one request at 0x100000 that is ready. -/
def laneOp (k : OpKind) : Op := { Op.blank with kind := k, width := 4, reg := 8, reqs := [reqOf .ready] }
/-- The request 0 of operation 1 is what happens next. -/
def serving (s : State) (x : Op) : State := withArg (translated (withOp s x)) { Args.none with x := 1 }
theorem witness_MemoryEvents_home :
    RequestReady (serving scalarState (laneOp .vst)) (laneOp .vst) (reqOf .ready) ∧
    AtHome (serving scalarState (laneOp .vst)) (laneOp .vst) (reqOf .ready) pageOf Leaf.stores ∧
    AtHome (serving scalarState (laneOp .vamo)) (laneOp .vamo) (reqOf .ready) pageOf Leaf.atomics ∧
    AtHome (serving scalarState (laneOp .vld)) (laneOp .vld) (reqOf .ready) pageOf Leaf.loads ∧
    LoadsOne (serving scalarState (laneOp .vld)) (laneOp .vld) (reqOf .ready) ∧
    ((laneOp .vst).covers (reqOf .ready) ((reqOf .ready).addr / 64) = false ∧ (serving scalarState (laneOp .vamo)).ecc = [] ∧
      (serving scalarState (laneOp .vamo)).markedRange (pageOf.pa 0x100000) 4 = false ∧ (reqOf .ready).data.length = (reqOf .ready).n ∧
      (serving scalarState (laneOp .vld)).ownStore (laneOp .vld) 0 (pageOf.pa 0x100000) 4 = false ∧
      (serving scalarState (laneOp .vld)).nearHit 0 (pageOf.pa 0x100000 / 128) pageOf = none) := by
  refine ⟨⟨?_, ?_, ?_, ?_⟩, ⟨?_, ?_, ?_, ?_⟩, ⟨?_, ?_, ?_, ?_⟩, ⟨?_, ?_, ?_, ?_⟩, ⟨?_, ?_, ?_, ?_⟩, ?_⟩ <;> decide +kernel
/-- A near-cache line with this state. -/
def nearLine (st : NearSt) : NLine :=
  { st := st, version := 5, epoch := 0, bytes := List.replicate 128 7, marks := [false, false], used := 0, slice := 0, filled := 0 }
theorem witness_MemoryEvents_near :
    (let s := (serving scalarState (laneOp .vld)).modCore 0 fun c => { c with near := [(0x2000, nearLine .valid)] }
     s.nearHit 0 (pageOf.pa 0x100000 / 128) pageOf = some (nearLine .valid) ∧ (nearLine .valid).markedIn (pageOf.pa 0x100000) 4 = false) ∧
    (let l : Leaf := { bits := 12, dw0 := 0x100098, dw1 := 0x5800000000000 }
     let s := withArg (withPage (withOp scalarState (laneOp .vld)) 0x100000 l.dw0 l.dw1) { Args.none with x := 1 }
     s.lookup 0 0 0x100000 = some l ∧ l.isSealed = true ∧ l.loads = true ∧ s.nearHit 0 (l.pa 0x100000 / 128) l = none ∧ s.ecc = []) ∧
    (let x : Op := { laneOp .vamo with reqs := [{ reqOf .ready with id := 1 }] }
     let s := withArg (serving scalarState (laneOp .vamo)) { Args.none with x := 1, z := 2, u := 1 }
     let s := { s with ops := [(1, laneOp .vamo), (2, { x with team := 1 })] }
     (s.req s.arg.z s.arg.u).isSome = true ∧ s.arg.x ≠ s.arg.z ∧ s.ripe 1 (laneOp .vamo) (reqOf .ready) = true ∧
       s.ripe 2 { x with team := 1 } { reqOf .ready with id := 1 } = true ∧
       s.mergePair (laneOp .vamo) { x with team := 1 } (reqOf .ready) { reqOf .ready with id := 1 } = true) := by decide +kernel
/-- The same request in a scratchpad, at byte 0x7FFFC of member core 0. -/
def padReq (st : ReqSt) : Req := { reqOf st with addr := 0x7FFFC }
def padOp (k : OpKind) : Op := { laneOp k with md := 0x40, reqs := [padReq .ready] }
theorem witness_MemoryEvents_scratchpad :
    (∀ k ∈ [OpKind.vst, .vld, .vamo, .vrmo],
      let s := serving scalarState (padOp k)
      s.req s.arg.x s.arg.y = some (padOp k, padReq .ready) ∧ s.ripe 1 (padOp k) (padReq .ready) = true ∧ (padReq .ready).count = 0 ∧
        (∀ kind ∈ [0, 1, 2], (s.member 0).spHit 0x7FFFC 4 kind (s.laneClass (padOp k) 0).1 none = none) ∧ (s.member 0).lineSt 0x7FFFC = 1) ∧
    (let s := (serving scalarState (padOp .vld)).modMember 0 fun m => { m with line := [(0x7FFFC / 128, 0)] }
     (s.member 0).lineSt 0x7FFFC = 0 ∧ (padOp .vld).md.getLsbD 0 = false ∧ s.lineWaits (padOp .vld) (padReq .line) = true) ∧
    (serving scalarState (padOp .vld)).lineWaits (padOp .vld) (padReq .line) = false := by decide +kernel
theorem witness_MemoryEvents_translations :
    (let s := withArg (withOp scalarState (laneOp .vld)) { Args.none with x := 1 }
     s.walk 0 0x100000 = .leaf pageOf ∧ s.tfaults = [] ∧ s.parts.find? 0 = some fetchPart ∧ s.ringFree fetchPart.cfg.prq 124 = true ∧
       s.walk 0 0x10000000000 = .absent) ∧
    (let f : TFault := { tag := 1, part := 0, ctx := 0, gang := 0, va := 0x100000, access := 0, op := none, agent := none, since := 0, answer := none }
     let s := { scalarState with tfaults := [f], arg := { Args.none with w := 1 }, ns := 10000000 }
     s.tfault 0 1 = some f ∧ f.answer = none ∧ f.since + 1000 * fetchPart.cfg.ftimeout ≤ s.ns ∧ 9999999 < f.since + 1000 * fetchPart.cfg.ftimeout ∧
       s.tfault 0 2 = none) ∧
    (let f : TFault := { tag := 1, part := 0, ctx := 0, gang := 0, va := 0x100000, access := 0, op := some (1, 0), agent := none, since := 0, answer := none }
     let x : Op := { Op.blank with kind := .sldg true, reqs := [reqOf (.parked 1)] }
     let s := { withOp scalarState x with tfaults := [f], arg := { Args.none with w := 1, ok := true } }
     s.tfault 0 1 = some f ∧ s.ops.find? 1 = some x ∧ x.isScalar = true ∧ x.reqs = [reqOf (.parked 1)] ∧ (reqOf (.parked 1)).st = .parked f.tag) := by
  decide +kernel
theorem witness_MemoryEvents_constants :
    let q : Req := { reqOf .ready with addr := 0x7C }
    let x : Op := { laneOp .vld with md := 0xC0, reqs := [q] }
    let s := { (withOp scalarState x).modCore 0 fun c => { c with cc := [(0, List.replicate 128 3, [false, false])] } with arg := { Args.none with slot := some 1 } }
    s.arg.slot = some 1 ∧ s.req 1 s.arg.z = some (x, q) ∧ s.opLive x = true ∧ s.allOver x.after = true ∧ s.replaying x.gang = false ∧
      ((s.core (s.opCore x)).cc.find? (((s.gang x.gang).constb.toNat + q.addr) / 128)).isSome = true ∧ 0x7C / 128 = (0x7C + q.n - 1) / 128 ∧
      listGet false [false, false] (0x7C % 128 / 64) = false := by decide +kernel
theorem witness_MemoryEvents_barriers :
    let x : Op := { Op.blank with kind := .parr, a := 0x40000000000040, reqs := [reqOf .ready] }
    let s := withArg (withOp (barrierAt 0 false) x) { Args.none with x := 1 }
    s.req 1 0 = some (x, reqOf .ready) ∧ s.opLive x = true ∧ s.allOver x.after = true ∧ s.pbBefore 1 x = false ∧ pbSpace x.a ≠ 0 ∧
      (s.pbPad 0 0x40).init = true ∧ (s.pbPad 0 0x40).scope = 0 ∧ (s.pbPad 0 0x40).held = [] ∧ (s.pbPad 0 0x40).pending = 1 ∧ (s.pbPad 0 0x40).balance = 0 := by
  decide +kernel
theorem witness_MemoryEvents_homes :
    let h : HomeW := { line := 5, off := 124, data := [1, 2, 3, 4], marks := [false], version := 6, await := [0], op := none }
    let s := { (scalarState.modCore 0 fun c => { c with near := [(5, nearLine .valid)] }) with hw := [(3, h)], arg := { Args.none with x := 0, y := 3 } }
    (s.hw.find? 3 = some h ∧ 0 ∈ h.await ∧ s.earlierUpdate 0 3 5 = false ∧ (s.core 0).near.find? 5 = some (nearLine .valid) ∧ (nearLine .valid).filled ≤ 3 ∧
      h.off + h.data.length ≤ (nearLine .valid).bytes.length ∧ { s with hw := [(2, h), (3, h)] }.earlierUpdate 0 3 5 = true) ∧
    (let s := withOp scalarState { laneOp .vst with reqs := [reqOf (.home 3)] }
     (s.req 1 0).isSome = true ∧ (s.gang 0).st = .resident) := by decide +kernel
theorem witness_MemoryEvents_directory :
    let d : Dir := { version := 5, wrap := false, epoch := 0, quads := false, sharers := [0], evict := none }
    let sl (d : Dir) (e : BitVec 16) : State := { scalarState with slices := [(0, { Slice.blank with dir := [(5, d)], epoch := e })], arg := { Args.none with x := 0, y := 5 } }
    (sl d 0).dir 0 5 = some d ∧ (sl { d with evict := some [] } 0xFFFF).dir 0 5 = some { d with evict := some [] } ∧ ((sl d 0).slice 0).epoch ≠ 0xFFFF ∧
      ((sl d 0xFFFF).slice 0).epoch = 0xFFFF ∧ { scalarState with ecc := [(0, none)], parts := [] }.ecc.find? 0 = some none ∧
      ((sl d 0).slice 1).dirFull 5 = none := by decide +kernel
theorem witness_MemoryEvents_watches :
    let e : WatchE := { struckEntry with st := .unresolved, line := 5 }
    let s := { (scalarState.modTm fun t => { t with watch := [e] }) with cyc0 := 64, arg := { Args.none with y := 1 } }
    (s.team s.arg.x).entry s.arg.y = some e ∧ s.replaying (gangOf s.arg.x) = false ∧ s.storeBefore s.arg.x e = false ∧ s.dir e.home e.line = none ∧
      (s.slice e.home).dirFull e.line = none ∧ (s.gang 0).st = .resident ∧ e.born + 64 ≤ s.cycleOf (s.teamCore s.arg.x) ∧
      { e with answer := some true }.answer = some true := by decide +kernel
theorem witness_DebugEvents_halts :
    (∀ a ∈ [Agent.scalar 0, .lane 0, .seq 0, .engines 0],
      let s := { scalarState with ctxs := [(0, { fetchCtx with st := .halting, halt := true })], arg := { Args.none with agent := some a } }
      s.arg.agent = some a ∧ s.halting (agentGang a) = true ∧ (s.team 0).stopped = false ∧ (s.team 0).exited = false ∧ (s.team 0).reached = false ∧
        (s.team 0).wait = none ∧ (s.team 0).laneStopped = false ∧ (s.gang 0).sstopped = false ∧ (s.member 0).stopped = false) ∧
    (let s := scalarState.modTm fun t => { t with stopped := true, laneStopped := true }
     let s := (s.modGang 0 fun g => { g with sstopped := true }).modMember 0 fun m => { m with stopped := true }
     let x : Ctx := { fetchCtx with st := .halting, halt := true }
     let s := { s with ctxs := [(0, x)] }
     s.ctxs.find? s.arg.x = some x ∧ x.st = .halting ∧ s.dumpGangs s.arg.x = [0] ∧
       (∀ g ∈ s.dumpGangs s.arg.x, (s.gang g).st = .resident ∧ s.gangStopped g = true ∧ s.awaited g = false) ∧ s.dumpBefore s.arg.x x = false ∧
       ({ fetchPart with heldC := [[2]] } : Part).heldC ≠ [] ∧ fetchPart.state ≠ 3) ∧
    (scalarState.gangStopped 0 = false ∧ State.reset.mgmtHeld = []) ∧
    (let ws : List W64 := List.replicate 16 1
     let s := { scalarState with parts := [(0, { fetchPart with heldF := [ws] })] }
     ws.length = 16 ∧ (s.mem32 fetchPart.cfg.faultq - 0).toNat < 31) := by decide +kernel
theorem witness_DebugEvents_sessions :
    (let x : Session := { ctx := 0, step := some { team := 0, from_ := 4, hit := false }, replay := none, dump := [] }
     let c : Ctx := { fetchCtx with st := .stopped, halt := true }
     let s := { scalarState with parts := [(0, { fetchPart with session := some x })], ctxs := [(0, c)], l2hits := [(0, 0, 0, 0)] }
     s.stepRun 0 = some { team := 0, from_ := 4, hit := false } ∧ s.ctxs.find? 0 = some c ∧ c.st = .stopped ∧ (s.team 0).rwc ≠ 4 ∧
       (s.team 0).stopped = false ∧ (s.team 0).laneStopped = false ∧ s.l2hits = [(0, 0, 0, 0)] ∧ (s.team 0).exited = false ∧ s.stepBlocked 0 = false ∧ s.sessions = [(0, x)]) ∧
    (let s := scalarState.modGang 0 fun g => { g with record := true, ckCount := 2 ^ 20 }
     s.ctxs.find? 0 = some fetchCtx ∧ (s.gang 0).record = true ∧ (s.gang 0).st = .resident ∧ fetchCtx.fatal = false ∧ fetchCtx.replayed = false ∧
       2 ^ 20 ≤ (s.gang 0).ckCount ∧ s.recording 0 = true) ∧
    (let x : Session := { ctx := 0, step := none, replay := some 0, dump := [] }
     let s := { scalarState with parts := [(0, { fetchPart with session := some x })] }
     s.replaying 0 = true) ∧
    (State.reset.req 0 0 = none ∧ { State.reset with sampleN := 4, sampleS := 4096 }.sampleN ≠ 0) := by decide +kernel
theorem witness_StepRunsDecodedInstruction :
    (let s := State.reset.withFetchWord 32 0x0228C380
     s.power = .running ∧ s.agenda = .agent (.scalar 0) :: [] ∧ s.runs (gangOf 0) = true ∧ (s.team 0).exited = false ∧ (s.team 0).stopped = false ∧
       s.stepOver 0 = false ∧ (s.team 0).reached = false ∧ (s.team 0).deadlineDue = false ∧ (s.team 0).pc.toNat % 4 = 0 ∧
       s.translate (s.teamCore 0) (s.gang (gangOf 0)).part (s.team 0).pc.toNat = .leaf pageOf ∧ pageOf.x = true ∧ pageOf.type = 0 ∧
       scalarOf (s.mem32 (pageOf.pa 0x100000)) 0 = some (.sadd 5 6 7)) ∧
    (let s := State.reset.withFetchWord 96 0x10C500200404030000000000
     s.agenda = .agent (.lane 0) :: [] ∧ (s.team 0).running = some (blockAt 0) ∧ 0 < (s.team 0).lanes ∧ (s.team 0).lcb.toNat % 4096 ≤ 4084 ∧
       (laneOf (BitVec.ofNat 96 (bytesNat (s.memBytes (pageOf.pa 0x100000) 12)))).isSome = true) ∧
    (let s := State.reset.withFetchWord 64 0x0005040000000000
     s.agenda = .agent (.seq 0) :: [] ∧ s.runs 0 = true ∧ (s.gang 0).hasSeq = true ∧ (s.gang 0).halted = false ∧ (s.gang 0).sstopped = false ∧
       (s.gang 0).spc.toNat % 8 = 0 ∧ s.translate (s.coreNum 0 0) (s.gang 0).part (s.gang 0).spc.toNat = .leaf pageOf ∧
       (matrixOf (BitVec.ofNat 64 (bytesNat (s.memBytes (pageOf.pa 0x100000) 8)))).isSome = true) := by decide +kernel
/-- The code of the first clauses as restored, and behind a store to it (spec/01 R11). -/
theorem witness_StepRunsDecodedInstruction_code :
    (let s := State.reset.withFetchWord 32 0x1891A2B4
     (s.codeOld 0 0x100000 8).isEmpty = true ∧ (s.codeOld 0 (pageOf.pa ((s.team 0).pc + 4).toNat) 4).isEmpty = true ∧
       s.translate (s.teamCore 0) (s.gang 0).part ((s.team 0).pc + 4).toNat = .leaf pageOf) ∧
    (let s := (State.reset.withFetchWord 32 0x0228C380).benchStore 2 0x100000 [1, 2]
     (s.codeOld 0 0x100000 4).isEmpty = false ∧ s.stored = 1 ∧ (s.gang 0).codeFrom = 0 ∧ (s.codeOld 0 0x100004 4).isEmpty = true ∧
       s.byteBefore (s.codeOld 0 0x100000 4) 0 0x100001 = 0xC3 ∧ s.byteBefore (s.codeOld 0 0x100000 4) 1 0x100001 = 2) := by decide +kernel
theorem witness_EncodingRoundTrip :
    WellFormed (.sbfx 5 6 true 0 63) = true ∧ (encode (.sbfx 5 6 true 0 63)).isSome = true ∧ WellFormed (.mhalt MatF.plain) = true ∧
      (encode (.mhalt MatF.plain)).isSome = true ∧ WellFormed (.velse LaneF.plain) = true ∧ (encode (.velse LaneF.plain)).isSome = true := by decide +kernel
theorem witness_StepKeepsMemoryCanonical :
    Memory.wf State.reset.mem = true ∧ Sparse.canonical false State.reset.marks = true ∧ Memory.wf scalarState.mem = true := by decide +kernel

end Sys2Proof.Machine.Tests
end

section
/-! SUPPORT. Values of the scalar integer instructions (spec/03 R50 to R53): what the model computes, as numbers. -/

namespace Sys2Proof.Machine

/-! ## Instructions that read registers as they stand -/

section
variable {s : State} {rd ra rb : BitVec 6} {v : W64}

theorem scalar2_gives {f : W64 → W64 → W64} (h : Quiet s [ra, rb, rd]) (hv : f (s.rS ra) (s.rS rb) = v) :
    scalar2 f rd ra rb s = .next (s.wS rd v).advance :=
  hv ▸ withRegs_quiet (rs := [ra, rb]) (ws := [rd]) _ h

theorem scalar1_gives {f : W64 → W64} (h : Quiet s [ra, rd]) (hv : f (s.rS ra) = v) :
    scalar1 f rd ra s = .next (s.wS rd v).advance :=
  hv ▸ withRegs_quiet (rs := [ra]) (ws := [rd]) _ h

end

/-! ## Results of opcode 0x01 (spec/03 R50) -/

section
variable (a b : W64)

theorem Alu.result_shl : Alu.shl.result a b = BitVec.ofNat 64 (a.toNat * 2 ^ (b.toNat % 64)) :=
  congrArg (BitVec.ofNat 64) (Nat.shiftLeft_eq _ _)

theorem Alu.result_shr : Alu.shr.result a b = BitVec.ofNat 64 (a.toNat / 2 ^ (b.toNat % 64)) := by
  rw [← Nat.shiftRight_eq_div_pow, ← BitVec.toNat_ushiftRight, BitVec.ofNat_toNat, BitVec.setWidth_eq]
  rfl

theorem Alu.result_sra : Alu.sra.result a b = BitVec.ofInt 64 (a.toInt / 2 ^ (b.toNat % 64)) := by
  have h := Int.shiftRight_eq_div_pow a.toInt (b.toNat % 64)
  exact BitVec.sshiftRight_eq.trans (by rw [h]; norm_cast)

theorem Alu.result_minS : Alu.minS.result a b = BitVec.ofInt 64 (min a.toInt b.toInt) := by
  by_cases h : a.toInt < b.toInt
  · rw [Int.min_eq_left (Int.le_of_lt h), BitVec.ofInt_toInt]
    exact if_pos (BitVec.slt_iff_toInt_lt.2 h)
  · rw [Int.min_eq_right (Int.not_lt.1 h), BitVec.ofInt_toInt]
    exact if_neg (mt BitVec.slt_iff_toInt_lt.1 h)

theorem Alu.result_maxS : Alu.maxS.result a b = BitVec.ofInt 64 (max a.toInt b.toInt) := by
  by_cases h : a.toInt < b.toInt
  · rw [Int.max_eq_right (Int.le_of_lt h), BitVec.ofInt_toInt]
    exact if_pos (BitVec.slt_iff_toInt_lt.2 h)
  · rw [Int.max_eq_left (Int.not_lt.1 h), BitVec.ofInt_toInt]
    exact if_neg (mt BitVec.slt_iff_toInt_lt.1 h)

theorem Alu.result_minN : Alu.minN.result a b = BitVec.ofNat 64 (min a.toNat b.toNat) := by
  by_cases h : a.toNat < b.toNat
  · rw [Nat.min_eq_left (Nat.le_of_lt h), BitVec.ofNat_toNat, BitVec.setWidth_eq]
    exact if_pos (BitVec.ult_iff_toNat_lt.2 h)
  · rw [Nat.min_eq_right (Nat.not_lt.1 h), BitVec.ofNat_toNat, BitVec.setWidth_eq]
    exact if_neg (mt BitVec.ult_iff_toNat_lt.1 h)

theorem Alu.result_maxN : Alu.maxN.result a b = BitVec.ofNat 64 (max a.toNat b.toNat) := by
  by_cases h : a.toNat < b.toNat
  · rw [Nat.max_eq_right (Nat.le_of_lt h), BitVec.ofNat_toNat, BitVec.setWidth_eq]
    exact if_pos (BitVec.ult_iff_toNat_lt.2 h)
  · rw [Nat.max_eq_left (Nat.not_lt.1 h), BitVec.ofNat_toNat, BitVec.setWidth_eq]
    exact if_neg (mt BitVec.ult_iff_toNat_lt.1 h)

theorem boolWord_eq_ite {c : Bool} {p : Prop} [Decidable p] (h : c = true ↔ p) : boolWord c = if p then 1 else 0 := by
  by_cases hp : p
  · rw [if_pos hp]
    exact if_pos (h.2 hp)
  · rw [if_neg hp]
    exact if_neg (mt h.1 hp)

theorem Alu.result_sltS : Alu.sltS.result a b = if a.toInt < b.toInt then 1 else 0 :=
  boolWord_eq_ite BitVec.slt_iff_toInt_lt

theorem Alu.result_sltN : Alu.sltN.result a b = if a.toNat < b.toNat then 1 else 0 :=
  boolWord_eq_ite BitVec.ult_iff_toNat_lt

theorem Alu.result_seq : Alu.seq.result a b = if a = b then 1 else 0 := boolWord_eq_ite beq_iff_eq

theorem Alu.result_sne : Alu.sne.result a b = if a = b then 0 else 1 :=
  (boolWord_eq_ite bne_iff_ne).trans (ite_not _ _ _)

end

/-- The zero bits above the highest one bit: the value lies between the two powers of two they leave room for. -/
theorem leadingZeros_bounds {w : Nat} (a : BitVec w) :
    leadingZeros a ≤ w ∧ a.toNat < 2 ^ (w - leadingZeros a) ∧ (leadingZeros a < w → 2 ^ (w - 1 - leadingZeros a) ≤ a.toNat) := by
  unfold leadingZeros
  split
  · next h => simp [h]
  · next h =>
    have h0 : a.toNat ≠ 0 := fun h' => h (BitVec.eq_of_toNat_eq h')
    have hw : a.toNat.log2 < w := (Nat.log2_lt h0).2 a.isLt
    refine ⟨by omega, ?_, fun _ => ?_⟩
    · rw [show w - (w - 1 - a.toNat.log2) = a.toNat.log2 + 1 by omega]
      exact Nat.lt_log2_self
    · rw [show w - 1 - (w - 1 - a.toNat.log2) = a.toNat.log2 by omega]
      exact Nat.log2_self_le h0

theorem oneBits_eq_countP {w : Nat} (a : BitVec w) : oneBits a = (List.range w).countP fun i => a.getLsbD i :=
  List.countP_eq_length_filter.symm

theorem execSclz_gives {s : State} {rd ra : BitVec 6} (h : Quiet s [ra, rd]) :
    execSclz rd ra s = .next (s.wS rd (BitVec.ofNat 64 (leadingZeros (s.rS ra)))).advance :=
  scalar1_gives (f := fun a => BitVec.ofNat 64 (leadingZeros a)) h rfl

theorem execSpop_gives {s : State} {rd ra : BitVec 6} (h : Quiet s [ra, rd]) :
    execSpop rd ra s = .next (s.wS rd (BitVec.ofNat 64 ((List.range 64).countP fun i => (s.rS ra).getLsbD i))).advance :=
  scalar1_gives (f := fun a => BitVec.ofNat 64 (oneBits a)) h (congrArg _ (oneBits_eq_countP _))

/-! ## Results of opcode 0x02 (spec/03 R51) -/

section
variable (a b : W64)

theorem MulDiv.result_mul : MulDiv.mul.result a b = BitVec.ofInt 64 (a.toInt * b.toInt) := by
  rw [BitVec.ofInt_mul, BitVec.ofInt_toInt, BitVec.ofInt_toInt]
  rfl

/-- The high half of a 128-bit word that holds a signed number. -/
theorem truncate_shiftRight_ofInt (z : Int) : ((BitVec.ofInt 128 z) >>> 64).truncate 64 = BitVec.ofInt 64 (z / 2 ^ 64) := by
  apply BitVec.eq_of_toNat_eq
  rw [BitVec.truncate_eq_setWidth, BitVec.toNat_setWidth, BitVec.toNat_ushiftRight, BitVec.toNat_ofInt, BitVec.toNat_ofInt,
    Nat.shiftRight_eq_div_pow]
  omega

theorem MulDiv.result_mulhS :
    MulDiv.mulhS.result a b = ((a.signExtend 128 * b.signExtend 128) >>> 64).truncate 64 := by
  rw [BitVec.signExtend, BitVec.signExtend, ← BitVec.ofInt_mul, truncate_shiftRight_ofInt]
  rfl

theorem MulDiv.result_mulhN :
    MulDiv.mulhN.result a b = ((a.zeroExtend 128 * b.zeroExtend 128) >>> 64).truncate 64 := by
  have ha : (a.zeroExtend 128).toNat = a.toNat := BitVec.toNat_setWidth_of_le (by decide)
  have hb : (b.zeroExtend 128).toNat = b.toNat := BitVec.toNat_setWidth_of_le (by decide)
  apply BitVec.eq_of_toNat_eq
  rw [BitVec.truncate_eq_setWidth, BitVec.toNat_setWidth, BitVec.toNat_ushiftRight, BitVec.toNat_mul, ha, hb,
    Nat.shiftRight_eq_div_pow, MulDiv.result, BitVec.toNat_ofNat]
  omega

variable {b}

theorem MulDiv.result_divS (h : b ≠ 0) : MulDiv.divS.result a b = BitVec.ofInt 64 (a.toInt.tdiv b.toInt) := if_neg h
theorem MulDiv.result_divN (h : b ≠ 0) : MulDiv.divN.result a b = BitVec.ofNat 64 (a.toNat / b.toNat) := if_neg h
theorem MulDiv.result_remS (h : b ≠ 0) :
    MulDiv.remS.result a b = BitVec.ofInt 64 (a.toInt - b.toInt * a.toInt.tdiv b.toInt) :=
  (if_neg h).trans (congrArg _ (Int.tmod_def _ _))
theorem MulDiv.result_remN (h : b ≠ 0) : MulDiv.remN.result a b = BitVec.ofNat 64 (a.toNat % b.toNat) := if_neg h

end

/-! ## The field of SBFX (spec/03 R53) -/

/-- Sign extension by the top bit's weight. -/
theorem signExtend_eq_ite {n : Nat} (m : Nat) (x : BitVec (n + 1)) :
    x.signExtend m = if 2 ^ n ≤ x.toNat then BitVec.ofInt m ((x.toNat : Int) - 2 ^ (n + 1)) else BitVec.ofNat m x.toNat := by
  have hp : 2 ^ (n + 1) = 2 ^ n * 2 := Nat.pow_succ 2 n
  rw [BitVec.signExtend, BitVec.toInt_eq_toNat_cond]
  by_cases h : 2 ^ n ≤ x.toNat
  · rw [if_pos h, if_neg (by omega), Int.natCast_pow]
    rfl
  · rw [if_neg h, if_pos (by omega), BitVec.ofInt_natCast]

theorem bfx_eq_extend (sx : Bool) (lo wd : BitVec 6) (a : W64) :
    bfx sx lo wd a = if sx then (a.extractLsb' lo.toNat (wd.toNat + 1)).signExtend 64
      else (a.extractLsb' lo.toNat (wd.toNat + 1)).setWidth 64 := by
  have hf : a.toNat / 2 ^ lo.toNat % 2 ^ (wd.toNat + 1) = (a.extractLsb' lo.toNat (wd.toNat + 1)).toNat := by
    rw [BitVec.extractLsb'_toNat, Nat.shiftRight_eq_div_pow]
  rw [signExtend_eq_ite, ← BitVec.ofNat_toNat]
  unfold bfx
  dsimp only
  rw [hf]
  cases sx <;> simp

theorem getLsbD_bfx (sx : Bool) (lo wd : BitVec 6) (a : W64) {i : Nat} (hi : i < 64) :
    (bfx sx lo wd a).getLsbD i =
      if i ≤ wd.toNat then a.getLsbD (lo.toNat + i) else sx && a.getLsbD (lo.toNat + wd.toNat) := by
  rw [bfx_eq_extend]
  have hf : ((a.extractLsb' lo.toNat (wd.toNat + 1)).setWidth 64).getLsbD i = (decide (i < wd.toNat + 1) && a.getLsbD (lo.toNat + i)) := by
    rw [BitVec.getLsbD_setWidth, BitVec.getLsbD_extractLsb', decide_eq_true hi, Bool.true_and]
  have hs : ((a.extractLsb' lo.toNat (wd.toNat + 1)).signExtend 64).getLsbD i =
      if i < wd.toNat + 1 then decide (i < wd.toNat + 1) && a.getLsbD (lo.toNat + i) else a.getLsbD (lo.toNat + wd.toNat) := by
    rw [BitVec.getLsbD_signExtend, BitVec.msb_eq_getLsbD_last, BitVec.getLsbD_extractLsb', BitVec.getLsbD_extractLsb',
      decide_eq_true hi, Bool.true_and, Nat.add_sub_cancel, decide_eq_true (Nat.lt_succ_self wd.toNat), Bool.true_and]
  by_cases h : i ≤ wd.toNat
  · have hw := Nat.lt_succ_of_le h
    rw [if_pos h]
    cases sx with
    | false => rw [if_neg Bool.false_ne_true, hf, decide_eq_true hw, Bool.true_and]
    | true => rw [if_pos rfl, hs, if_pos hw, decide_eq_true hw, Bool.true_and]
  · have hw : ¬ i < wd.toNat + 1 := mt Nat.le_of_lt_succ h
    rw [if_neg h]
    cases sx with
    | false => rw [if_neg Bool.false_ne_true, hf, decide_eq_false hw, Bool.false_and, Bool.false_and]
    | true => rw [if_pos rfl, hs, if_neg hw, Bool.true_and]

end Sys2Proof.Machine
end

section
/-! SUPPORT. The scalar decoder: what it answers for the words of opcodes 0x01, 0x0B and 0x59, and which words name a special
register (spec/02 R37). -/

namespace Sys2Proof

/-! ## By opcode -/

section
variable {w : BitVec 32} (next : BitVec 32)

theorem decodeScalar_op01 (h : bits w.toNat 25 7 = 0x01) :
    decodeScalar w next = decodeAlu (bits w.toNat 0 7) (fld w.toNat 19 6) (fld w.toNat 13 6) (fld w.toNat 7 6) := by
  simp only [decodeScalar, h]

theorem decodeScalar_op0B (h : bits w.toNat 25 7 = 0x0B) :
    decodeScalar w next = decodeSi 0x0B (fld w.toNat 19 6) (fld w.toNat 13 6) (fld w.toNat 0 13) := by
  simp only [decodeScalar, h]

theorem decodeScalar_op59 (h : bits w.toNat 25 7 = 0x59) :
    decodeScalar w next = decodeSys (bits w.toNat 0 7) (fld w.toNat 19 6) (fld w.toNat 13 6) (fld w.toNat 7 6) := by
  simp only [decodeScalar, h]

end

theorem bits_lt (n lo len : Nat) : bits n lo len < 2 ^ len := Nat.mod_lt _ (Nat.two_pow_pos len)

@[simp] theorem toNat_fld (n lo len : Nat) : (fld n lo len).toNat = bits n lo len := by
  rw [fld, BitVec.toNat_ofNat, Nat.mod_eq_of_lt (bits_lt n lo len)]

/-- A field of a field is a field of the word. -/
theorem bits_bits {lo len len' : Nat} (n : Nat) (h : lo + len ≤ len') : bits (bits n 0 len') lo len = bits n lo len := by
  obtain ⟨k, rfl⟩ := Nat.exists_eq_add_of_le h
  unfold bits
  rw [Nat.pow_zero, Nat.div_one, Nat.add_assoc, Nat.pow_add, Nat.mod_mul_right_div_self, Nat.pow_add, Nat.mod_mul_right_mod]

theorem decodeAlu_count {fn : Nat} (sd sa : BitVec 6) {sb : BitVec 6} (hf : fn = 0x10 ∨ fn = 0x11) (hb : sb ≠ 0) :
    decodeAlu fn sd sa sb = .error .reserved := by
  have hz : (sb == 0) = false := beq_eq_false_iff_ne.2 hb
  rcases hf with rfl | rfl <;> simp only [decodeAlu, permit, hz] <;> rfl

/-! ## Which words name a special register -/

/-- The scalar register and the special register's number that an SRD or an SWR names. -/
def Instr.special : Instr → Option (BitVec 6 × BitVec 12)
  | .srd rd num => some (rd, num)
  | .swr rd num => some (rd, num)
  | _ => none

/-- The same for an answer of the decoder. -/
def specialOf : Except Reason Instr → Option (BitVec 6 × BitVec 12)
  | .ok i => i.special
  | .error _ => none

@[simp] theorem specialOf_ok (i : Instr) : specialOf (.ok i) = i.special := rfl
@[simp] theorem specialOf_error (r : Reason) : specialOf (.error r) = none := rfl
@[simp] theorem specialOf_permit (zero ok : Bool) (i : Instr) :
    specialOf (permit zero ok i) = if zero && ok then i.special else none := by
  unfold permit
  cases zero <;> cases ok <;> rfl

section
variable (fn : Nat) (sd sa sb : BitVec 6)

@[simp] theorem specialOf_decodeAlu : specialOf (decodeAlu fn sd sa sb) = none := by
  unfold decodeAlu; split <;> simp [Instr.special]
@[simp] theorem specialOf_decodeMul : specialOf (decodeMul fn sd sa sb) = none := by
  unfold decodeMul; split <;> rfl
@[simp] theorem specialOf_decodeTok : specialOf (decodeTok fn sd sa sb) = none := by
  unfold decodeTok; split <;> simp [Instr.special]
@[simp] theorem specialOf_decodeBar : specialOf (decodeBar fn sd sa sb) = none := by
  unfold decodeBar; split <;> simp [Instr.special]
@[simp] theorem specialOf_decodeBudget : specialOf (decodeBudget fn sd sa sb) = none := by
  unfold decodeBudget; split <;> simp [Instr.special]
@[simp] theorem specialOf_decodeFmt : specialOf (decodeFmt fn sd sa sb) = none := by
  unfold decodeFmt; split <;> simp [Instr.special]
@[simp] theorem specialOf_decodeSx (op : Nat) (td : BitVec 5) : specialOf (decodeSx op fn td sd sa sb) = none := by
  unfold decodeSx; split <;> simp [Instr.special]
@[simp] theorem specialOf_decodeSi (op : Nat) (imm : BitVec 13) : specialOf (decodeSi op sd sa imm) = none := by
  unfold decodeSi; split <;> simp [Instr.special]
@[simp] theorem specialOf_decodeSb (op : Nat) (off : BitVec 13) : specialOf (decodeSb op sa sb off) = none := by
  unfold decodeSb; split <;> simp [Instr.special]

/-- The number of SRD and SWR stands in SA and SB (spec/01 R24). -/
theorem specialOf_decodeSys {p : BitVec 6 × BitVec 12} (h : specialOf (decodeSys fn sd sa sb) = some p) :
    p = (sd, BitVec.ofNat 12 (sa.toNat * 64 + sb.toNat)) := by
  unfold decodeSys at h
  dsimp only at h
  split at h
  case h_5 => exact (Option.some.inj (Option.ite_none_right_eq_some.1 ((specialOf_permit _ _ _).symm.trans h)).2).symm
  case h_6 => exact (Option.some.inj (Option.ite_none_right_eq_some.1 ((specialOf_permit _ _ _).symm.trans h)).2).symm
  all_goals simp [Instr.special] at h

end

theorem specialOf_decodeScalar {w : BitVec 32} (next : BitVec 32) (h : bits w.toNat 25 7 ≠ 0x59) :
    specialOf (decodeScalar w next) = none := by
  unfold decodeScalar
  dsimp only
  split
  case h_41 => split <;> rfl
  case h_47 hop => exact absurd hop h
  all_goals simp [Instr.special, apply_ite specialOf]

/-- The register and the number of an SRD or SWR are the fields SD and SA with SB of its word (spec/01 R24). -/
theorem decodeScalar_special {w next : BitVec 32} {rd : BitVec 6} {num : BitVec 12}
    (h : specialOf (decodeScalar w next) = some (rd, num)) :
    rd.toNat = bits w.toNat 19 6 ∧ num.toNat = bits w.toNat 13 6 * 64 + bits w.toNat 7 6 := by
  by_cases hop : bits w.toNat 25 7 = 0x59
  · rw [decodeScalar_op59 next hop] at h
    obtain ⟨rfl, rfl⟩ := Prod.mk.inj (specialOf_decodeSys _ _ _ _ h)
    have ha := bits_lt w.toNat 13 6
    have hb := bits_lt w.toNat 7 6
    rw [toNat_fld, toNat_fld, toNat_fld, BitVec.toNat_ofNat]
    exact ⟨rfl, Nat.mod_eq_of_lt (by omega)⟩
  · rw [specialOf_decodeScalar next hop] at h
    exact absurd h.symm (Option.some_ne_none _)

/-- The word of SBFX (spec/03 R53). -/
theorem decodeScalar_sbfx {w : BitVec 32} (next : BitVec 32) (h : bits w.toNat 25 7 = 0x0B) :
    decodeScalar w next = if 64 < bits w.toNat 6 6 + bits w.toNat 0 6 + 1 then .error .value
      else .ok (.sbfx (fld w.toNat 19 6) (fld w.toNat 13 6) (w.getLsbD 12) (fld w.toNat 6 6) (fld w.toNat 0 6)) := by
  have hsx : w.getLsbD 12 = decide (bits w.toNat 12 1 = 1) := Nat.testBit_eq_decide_div_mod_eq
  have hlo : bits (bits w.toNat 0 13) 6 6 = bits w.toNat 6 6 := bits_bits _ (by decide)
  have hwd : bits (bits w.toNat 0 13) 0 6 = bits w.toNat 0 6 := bits_bits _ (by decide)
  have hsg : bits (bits w.toNat 0 13) 12 1 = bits w.toNat 12 1 := bits_bits _ (by decide)
  rw [decodeScalar_op0B next h, hsx]
  simp only [decodeSi, fld, BitVec.toNat_ofNat, Nat.mod_eq_of_lt (bits_lt w.toNat 0 13), hlo, hwd, hsg]
  unfold permit
  by_cases hv : bits w.toNat 6 6 + bits w.toNat 0 6 + 1 ≤ 64
  · rw [if_neg (Nat.not_lt.2 hv), decide_eq_true hv]
    rfl
  · rw [if_pos (Nat.not_le.1 hv), decide_eq_false hv]
    rfl

end Sys2Proof
end

section
/-! SUPPORT. What retiring, journalling and the special registers do. -/
namespace Sys2Proof.Machine

variable (s : State)

/-! ## Retiring an instruction -/

@[simp] theorem State.teams_count (m e : Nat) : (s.count m e).teams = s.teams := by unfold State.count; split <;> rfl
@[simp] theorem State.cur_count (m e : Nat) : (s.count m e).cur = s.cur := by unfold State.count; split <;> rfl
@[simp] theorem State.teams_meetFatal (g : Nat) : (s.meetFatal g).teams = s.teams := by unfold State.meetFatal; split <;> rfl
@[simp] theorem State.cur_meetFatal (g : Nat) : (s.meetFatal g).cur = s.cur := by unfold State.meetFatal; split <;> rfl
@[simp] theorem State.teams_ran (g : Nat) (r : Ran) : (s.ran g r).teams = s.teams := by
  unfold State.ran; (repeat' split) <;> simp
@[simp] theorem State.cur_ran (g : Nat) (r : Ran) : (s.ran g r).cur = s.cur := by
  unfold State.ran; (repeat' split) <;> simp
@[simp] theorem State.cur_retire : s.retire.cur = s.cur := by unfold State.retire; simp only; (repeat' split) <;> simp
theorem State.teams_retire :
    s.retire.teams = (s.modTm fun t => { t.skids with rwc := t.rwc + 1, wait := none }).teams := by
  unfold State.retire; simp only; (repeat' split) <;> simp

/-- All that retiring changes in the team. -/
theorem State.tm_retire : s.retire.tm = { s.tm.skids with rwc := s.tm.rwc + 1, wait := none } := by
  unfold State.tm State.team
  rw [s.cur_retire, s.teams_retire]
  exact s.tm_modTm _

/-- The skid count is all that an issue changes in a stream that the halt line has reached. -/
theorem Team.skids_eq (t : Team) : ∃ n, t.skids = { t with skid := n } := by
  unfold Team.skids; split
  · exact ⟨_, rfl⟩
  · exact ⟨_, rfl⟩

/-! ## Journalling -/

theorem Plain.journal1 {s : State} (h : Plain s) (v : W64) : s.journal1 v = (v, s) := by
  obtain ⟨hrec, hrep⟩ := h
  simp [State.journal1, State.journal, State.recall, State.recallBy, State.note, agentGang, hrec, hrep]

/-! ## Returning from a trap (spec/03 R71) -/

theorem Team.hm_of_hstat {t : Team} (h : t.hstat = 0) : t.hm = false := by simp [Team.hm, h]

theorem execTret_inside {s : State} (hm : s.tm.hm = true) :
    execTret s = s.jumpTo s.tm.epc fun s => .next s.leaveHandler.retire := by
  unfold execTret
  rw [hm]
  rfl

theorem execTret_outside {s : State} (hm : s.tm.hm = false) : execTret s = illegal s .value := by
  unfold execTret
  rw [hm]
  rfl

theorem jumpTo_misaligned {s : State} {target : W64} (k : State → Out) (h : target.toNat % 4 ≠ 0) :
    s.jumpTo target k = faultAt s kMisaligned target := if_pos h

/-- All that leaving the handler and retiring change in the team. -/
theorem State.tm_leaveHandler_retire :
    ∃ n, s.leaveHandler.retire.tm = { s.tm with pc := s.tm.epc, hstat := 0, rwc := s.tm.rwc + 1, wait := none, skid := n } := by
  have ht : s.leaveHandler.tm = { s.tm with pc := s.tm.epc, hstat := 0 } := s.tm_modTm _
  obtain ⟨n, hn⟩ := s.leaveHandler.tm.skids_eq
  exact ⟨n, by rw [State.tm_retire, hn, ht]⟩

/-! ## Special registers (spec/03 R74) -/

theorem execSrd_listed {s : State} {rd : BitVec 6} {num : BitVec 12} (hl : num.toNat ∈ srdNumbers) (hq : Quiet s [rd]) (hp : Plain s) :
    execSrd rd num s = .next (s.wS rd (s.special num.toNat)).advance := by
  have hc : srdNumbers.contains num.toNat = true := List.contains_iff_mem.2 hl
  unfold execSrd
  rw [hc, withRegs_quiet (rs := []) _ hq]
  simp only [hp.journal1, ite_self]
  rfl

theorem execSrd_unlisted {rd : BitVec 6} {num : BitVec 12} (hl : num.toNat ∉ srdNumbers) : execSrd rd num s = illegal s .value := by
  have hc : srdNumbers.contains num.toNat = false := Bool.eq_false_iff.2 (mt List.contains_iff_mem.1 hl)
  unfold execSrd
  rw [hc]
  rfl

theorem execSwr_epc {s : State} {rd : BitVec 6} (hq : Quiet s [rd]) :
    execSwr rd 0x009 s = .next (s.modTm fun x => { x with epc := s.rS rd }).advance :=
  (if_neg (by decide)).trans (withRegs_quiet (rs := [rd]) (ws := []) _ hq)

theorem execSwr_other {rd : BitVec 6} {num : BitVec 12} (hn : num ≠ 0x009) : execSwr rd num s = illegal s .value := by
  have hc : swrNumbers.contains num.toNat = false :=
    Bool.eq_false_iff.2 fun h => hn (BitVec.eq_of_toNat_eq (List.mem_singleton.1 (List.contains_iff_mem.1 h)))
  unfold execSwr
  rw [hc]
  rfl

end Sys2Proof.Machine
end

section
/-! The statements about the scalar instructions (spec/03). -/

open Sys2Proof
namespace Sys2Proof.Machine

/-- Settles O1: each instruction of opcode 0x01 gives its operation's result, and the words of SCLZ and SPOP have no SB. -/
theorem scalarAluResults : Obligations.ScalarAluResults := by
  intro s rd ra rb h
  have h1 : Quiet s [ra, rd] := h.mono (by simp +contextual)
  refine ⟨scalar2_gives h rfl, scalar2_gives h rfl, scalar2_gives h rfl, scalar2_gives h rfl, scalar2_gives h rfl,
    scalar2_gives h (Alu.result_shl _ _), scalar2_gives h (Alu.result_shr _ _), scalar2_gives h (Alu.result_sra _ _),
    scalar2_gives h (Alu.result_minS _ _), scalar2_gives h (Alu.result_maxS _ _),
    scalar2_gives h (Alu.result_minN _ _), scalar2_gives h (Alu.result_maxN _ _),
    scalar2_gives h (Alu.result_sltS _ _), scalar2_gives h (Alu.result_sltN _ _),
    scalar2_gives h (Alu.result_seq _ _), scalar2_gives h (Alu.result_sne _ _),
    ⟨leadingZeros (s.rS ra), execSclz_gives h1, leadingZeros_bounds _⟩, execSpop_gives h1, fun w next hop hfn hsb => ?_⟩
  rw [decodeScalar_op01 next hop]
  exact decodeAlu_count _ _ hfn fun h0 => hsb (by rw [← toNat_fld, h0]; rfl)

/-- Settles O2: each instruction of opcode 0x02 gives its operation's result. -/
theorem scalarMulDivResults : Obligations.ScalarMulDivResults := by
  intro s rd ra rb h
  exact ⟨scalar2_gives h (MulDiv.result_mul _ _), scalar2_gives h (MulDiv.result_mulhS _ _),
    scalar2_gives h (MulDiv.result_mulhN _ _),
    fun h0 => ⟨scalar2_gives h (if_pos h0), scalar2_gives h (if_pos h0), scalar2_gives h (if_pos h0), scalar2_gives h (if_pos h0)⟩,
    fun h0 => ⟨scalar2_gives h (MulDiv.result_divS _ h0), scalar2_gives h (MulDiv.result_divN _ h0),
      scalar2_gives h (MulDiv.result_remS _ h0), scalar2_gives h (MulDiv.result_remN _ h0)⟩⟩

/-- Settles O4: SBFX gives the model's field, read bit by bit, and its word is decoded field by field. -/
theorem fieldExtractBits : Obligations.FieldExtractBits :=
  ⟨fun s _ ra lo wd sx h _ => ⟨bfx sx lo wd (s.rS ra), scalar1_gives h rfl, fun _ hi => getLsbD_bfx sx lo wd _ hi⟩,
    fun _ next hop => decodeScalar_sbfx next hop⟩

/-- Settles O9: TRET in handler mode jumps to EPC and leaves the handler; a bad EPC, or no handler mode, is a fault at it. -/
theorem trapReturn : Obligations.TrapReturn := by
  intro s
  refine ⟨fun hm he => ?_, fun hm he => (execTret_inside hm).trans (jumpTo_misaligned _ he), fun hm => execTret_outside hm⟩
  obtain ⟨n, ht⟩ := s.tm_leaveHandler_retire
  exact ⟨s.leaveHandler.retire, (execTret_inside hm).trans (jumpTo_executable _ he), congrArg Team.pc ht, congrArg Team.hstat ht,
    Team.hm_of_hstat (congrArg Team.hstat ht), congrArg Team.rwc ht, fun r => (congrArg (Team.getS · r) ht).trans rfl⟩

/-- Settles O10: SRD of a listed number gives the special register, SWR writes EPC, and the rest is refused. -/
theorem specialRegisters : Obligations.SpecialRegisters := by
  refine ⟨fun s rd hq hrec hrep => ?_, fun w next rd num h => ?_, rfl, rfl, rfl, rfl, rfl⟩
  · have gives (num : BitVec 12) (hl : num.toNat ∈ srdNumbers) :
        exec (.srd rd num) s = .next (s.wS rd (s.special num.toNat)).advance := execSrd_listed hl hq ⟨hrec, hrep⟩
    exact ⟨gives 0x000 (by decide), gives 0x001 (by decide), gives 0x003 (by decide), gives 0x015 (by decide), gives 0x016 (by decide),
      gives 0x002 (by decide), gives 0x008 (by decide), gives 0x009 (by decide), gives 0x00A (by decide), gives 0x00B (by decide),
      gives 0x00C (by decide), gives 0x010 (by decide), gives 0x011 (by decide), gives 0x012 (by decide), gives 0x013 (by decide),
      gives 0x014 (by decide), execSwr_epc hq, fun _ hl => execSrd_unlisted s hl, fun _ hn => execSwr_other s hn⟩
  · exact decodeScalar_special (by rcases h with h | h <;> rw [h] <;> rfl)

end Sys2Proof.Machine
end
